-- ==== Sys2Proof/Word.lean ====
section
/-!
DEFINITION. The word types of the TK-880: bytes, 32-bit registers, 64-bit pairs, 128-bit quads and the
96-bit instruction word (spec/01_machine.md R14, spec/02_encoding.md R21, R28).
-/

namespace Sys2Proof

/-- One byte of memory. -/
abbrev Byte := BitVec 8

/-- One general register (R14). -/
abbrev Word := BitVec 32

/-- A 64-bit value: an even/odd register pair, a virtual address, a PC (R14, R25, R30). -/
abbrev DWord := BitVec 64

/-- A 128-bit value: four registers, or one 16-byte granule (R30, R145). -/
abbrev Quad := BitVec 128

/-- One instruction word, bit 0 least significant (R28). -/
abbrev InstrWord := BitVec 96

/-- A general register number, v0 to v63 (R30). -/
abbrev Reg := BitVec 6

/-- A predicate number, q0 to q7 (R30). -/
abbrev PredReg := BitVec 3

end Sys2Proof
end

