-- ==== Sys2Proof/Config.lean ====
section
/-!
DEFINITION. What is fixed for the machine: the two parts (spec/00_scope.md R1, R2), their figures
(spec/01_machine.md R12, R20), and the values the spec leaves open, as constants without a body
(notes/assumptions/5.md): nothing in Lean can evaluate one or prove a value of it.
-/

namespace Sys2Proof

/-- The parts of R1 and R2: the bare package TK-880, its module TK-880M, and the TK-840. -/
inductive Part where
  | tk880 | tk880m | tk840
  deriving DecidableEq, Repr

namespace Part

/-- FEAT.FAB (R12): the optical fabric and the Sprue are present. -/
def fab : Part → Bool
  | tk880 | tk880m => true
  | tk840 => false

/-- FEAT.ROWS (R12): rows of the core mesh. -/
def rows : Part → Nat
  | tk880 | tk880m => 16
  | tk840 => 8

/-- Cores of the part (R2, R6): 16 columns of `rows` rows. -/
def cores (p : Part) : Nat := 16 * p.rows

/-- FEAT.CRUC (R12): Crucibles per core. -/
def crucibles : Part → Nat
  | tk880 | tk880m => 2
  | tk840 => 1

/-- Bays per core (R2, R7). -/
def bays : Part → Nat
  | tk880 | tk880m => 4
  | tk840 => 2

/-- 2^MAXWID (R12): the largest width grant. -/
def maxWidth : Part → Nat
  | tk880 | tk880m => 128
  | tk840 => 64

/-- HBM stacks (R12). -/
def hbmStacks : Part → Nat
  | tk880 | tk880m => 8
  | tk840 => 4

/-- Usable HBM in bytes (R10): 48 GiB a stack. -/
def hbmBytes (p : Part) : Nat := p.hbmStacks * 48 * 2 ^ 30

/-- FEAT (R12). -/
def feat : Part → Word
  | tk880 | tk880m => 0x100F1790#32
  | tk840 => 0x100C8E48#32

end Part

namespace Config

/-- Which of the free regions of a core's scratchpad a new task gets (R142, R239), fresh for each task. -/
opaque regionPick : Nat → Nat

/-- AC cycles that pass in the step with this number: CYCLE counts cycles (R11), and the spec gives no
number of cycles to a step. -/
opaque acCycles : Nat → Nat

/-- Whether an access uses a translation the TLBs still hold, where both that entry and a fresh walk are
allowed (R154). -/
opaque tlbUse : Nat → Bool

/-- Which of the locked lanes toward a destination is free next for the flit with this number (R279). -/
opaque lanePick : Nat → Nat

/-- Whether a Caster thread uses data of its window that is lost: a fresh number, and the thread (R350). -/
opaque usesLost : Nat → Nat → Bool

/-- Whether the link layer has confirmed a flit that was sent on a lane which goes down: its destination, hash lane and
sequence number (R362). -/
opaque linkConfirmed : Nat → Nat → Nat → Bool

/-- What a read of device MMIO finds at an offset where the spec names no register (R149), fresh at each read. -/
opaque mmioOpen : Nat → Nat → DWord

/-- By how much a counter of R383 that depends on caches and timing has advanced since the last tick: the number of
the latch, the core (or 1024 for the device), and the counter. -/
opaque counterStep : Nat → Nat → Nat → DWord

/-- Whether the L2 holds a line dirty that `kclr` drops, fresh for each line (R324): when the L2 writes a line back is open. -/
opaque l2Dirty : Nat → Bool

/-- A byte of a line whose dirty L2 copy `kclr` has dropped: one that HBM held before, by the number of the line's loss and the
byte's place. -/
opaque lostByte : Nat → Nat → Byte

/-- The boot nonce, drawn afresh at each reset by its number (R300). -/
opaque bootNonce : Nat → BitVec 256

/-- The number of the signal that a loaded shell says is pending: TFLAGS holds the bit and no field holds the number
(R305, R327). -/
opaque shellSignal : Nat → BitVec 6

/-- Whether some source byte below PROG of a copy under DIG that comes with a shell was poisoned: the copy record has no
field that says so (R192, R354). -/
opaque shellPoison : Nat → Bool

/-- Whether the granule with the second number of a collective's output holds result bytes, where R204 and R206 allow
both: after a failure and where its buffers overlap. The first number is fresh each time. -/
opaque collChosen : Nat → Nat → Bool

/-- A result byte of a failed collective, with its poison, where the other participants' inputs are not at hand. -/
opaque collResult : Nat → Nat → Byte × Bool

/-- Sensor readings of the vendor-defined management message (R380), one byte each; the spec gives no value. -/
opaque sensor : Nat → Nat → Byte

/-- SHA-512 of a firmware image, by its number, with its version (R308 measurement 1). -/
opaque firmwareDigest : Nat → List Byte

/-- SHA-512 of the signed configuration record that holds the given thresholds (R308 measurement 2). -/
opaque configDigest : List Nat → List Byte

/-- The answer to an SPDM request from the four measurements: its contents are the standard's (R308). -/
opaque spdmReply : List Byte → List (List Byte) → List Byte

/-- The answer to an MCTP control message: its contents are the standard's (R380). -/
opaque mctpReply : List Byte → Nat → List Byte

end Config

end Sys2Proof
end

