-- ==== Sys2Proof/Syntax.lean ====
section
/-!
DEFINITION. The instructions and events of the TK-880, whole: one constructor of `Instr` for each row of
spec/opcode_table.json. The first part are the Emben instructions (spec/02_encoding.md R38), with their
operands already taken apart; the second part are the table's events: what the engines, the host, the
driver, peer devices and the physical world do (spec/95_what_each_step_holds.md). An event has no encoding.
-/

namespace Sys2Proof

/-! ## Operands -/

/-- The guard of an instruction: predicate GQ and its negation GN (R29). -/
structure Guard where
  neg : Bool
  q   : PredReg
  deriving DecidableEq, Repr

/-- A register source with its FEB bit: `trap` is FEB = 1, EMPTYREG in place of parking (R31). -/
structure Src where
  reg  : Reg
  trap : Bool
  deriving DecidableEq, Repr

/-- Source B: a register, or IMM under IMMB (R33). -/
inductive SrcB where
  | reg (s : Src)
  | imm (x : Word)
  deriving DecidableEq, Repr

/-- The TYPE codes of R33, in code order 0x0 to 0xF. -/
inductive Ty where
  | i32 | n32 | i64 | n64 | i16 | n16 | i8 | n8
  | f32 | f16 | bf16 | f16x2 | bf16x2 | ta8 | ta6 | b32
  deriving DecidableEq, Repr

/-- The rounding field: dynamic, or a static mode (R33). -/
inductive RmField where
  | dyn | rne | rtz | rdn | rup | rna
  deriving DecidableEq, Repr

/-- Conditions of `icmp` (R90). -/
inductive ICond where
  | eq | ne | lt | le | gt | ge
  deriving DecidableEq, Repr

/-- Conditions of `fcmp` (R98). -/
inductive FCond where
  | eq | ne | lt | le | gt | ge | un
  deriving DecidableEq, Repr

/-- Modes of `shfl` (R259). -/
inductive ShflMode where
  | idx | up | down | xor
  deriving DecidableEq, Repr

/-- Modes of `vote` that write a predicate (R260). -/
inductive VoteMode where
  | all | any | uni
  deriving DecidableEq, Repr

/-- Operations of `redux` and `scanx` (R261, R262). -/
inductive RedOp where
  | add | min | max | and | or | xor
  deriving DecidableEq, Repr

/-- Modes of `bcast` (R263). -/
inductive BcastMode where
  | first | last
  deriving DecidableEq, Repr

/-- Modes of `match` (R264). -/
inductive MatchMode where
  | first | count
  deriving DecidableEq, Repr

/-- Modes of `lanes` (R265). -/
inductive LanesMode where
  | pos | count | rank | grant
  deriving DecidableEq, Repr

/-- Memory spaces (R34, R141). -/
inductive Space where
  | global | own | peer
  deriving DecidableEq, Repr

/-- Order qualifiers ORD 0 to 3 (R34). -/
inductive MemOrd where
  | relaxed | acq | rel | ar
  deriving DecidableEq, Repr

/-- Scopes SCOPE 0 to 6 (R34, R155). -/
inductive Scope where
  | thr | task | core | clu | dev | dom | sys
  deriving DecidableEq, Repr

/-- Access sizes SIZE 0 to 4 (R34). -/
inductive Size where
  | b8 | b16 | b32 | b64 | b128
  deriving DecidableEq, Repr

/-- Full/empty qualifier of a load; `.peek` names the predicate it writes (R34, R145, R178). -/
inductive LdFeq where
  | plain | wait | take
  | peek (q : PredReg)
  deriving DecidableEq, Repr

/-- Full/empty qualifier of a store (R34, R145). -/
inductive StFeq where
  | plain | fill | fillw
  deriving DecidableEq, Repr

/-- A memory operand: space, base register (a pair for the global space), signed offset, swizzle (R48, R143). -/
structure MemRef where
  space : Space
  base  : Src
  off   : Word
  swz   : BitVec 3
  deriving DecidableEq, Repr

/-- Prefetch levels of `pf` (R181). -/
inductive PfLevel where
  | l1 | l1w | l2
  deriving DecidableEq, Repr

/-- Atomic operations OP 0 to 6 (R187). -/
inductive AtomOp where
  | add | min | max | and | or | xor | exch
  deriving DecidableEq, Repr

/-- The operation of a peer's float atomic and whether it asks for the old value (R211). -/
structure FloatAtom where
  op : AtomOp
  fetching : Bool
  deriving DecidableEq, Repr

/-- Element formats FMT 0 to 3 of the Crucible class (R36). -/
inductive Fmt where
  | bf16 | f16 | ta8 | ta6
  deriving DecidableEq, Repr

/-- K per k-step, KS 0 to 2 (R36). -/
inductive KStep where
  | k16 | k32 | k64
  deriving DecidableEq, Repr

/-- Output formats OFMT 0 to 2 (R36). -/
inductive OFmt where
  | f32 | bf16 | f16
  deriving DecidableEq, Repr

/-- The forms of `tlbinv`, with the operands each reads (R37, R315, R320). -/
inductive TlbSel where
  | all
  | asid (b : Src)
  | asidva (a b : Src)
  | va (a : Src)
  deriving DecidableEq, Repr

/-! ## Parties and the parameters of events -/

/-- Which thread of a core: thread `tidx` of the tile task in task place `place`, or a Caster thread (R8, R294). -/
inductive Who where
  | user (place tidx : Nat)
  | caster (n : Nat)
  deriving DecidableEq, Repr

/-- A thread of the device, by core number. -/
structure ThreadRef where
  core : Nat
  who  : Who
  deriving DecidableEq, Repr

/-- What a peer device answers to a request (R212): bytes with the poison marks of the 16-byte units of their line (R354), or
an error. -/
inductive PeerAnswer where
  | ok (bytes : List Byte) (marks : BitVec 4)
  | unmapped | notPresent | refused
  deriving DecidableEq, Repr

/-- An atomic request of the fabric (R211): an operation with its operand, or compare-and-swap; and the barrier
operations a peer's threads perform on a word of this device (R266). -/
inductive PeerAtom where
  | op (o : AtomOp) (ty : Ty) (operand : DWord)
  | cas (ty : Ty) (expected new : DWord)
  | barinit (count : Nat)
  | arrive
  | barwait (phase : Bool)
  deriving DecidableEq, Repr

/-- What a flit of a peer carries (R211): a request to this device, or the response to one of its own. -/
inductive FlitBody where
  | read (off size : Nat)
  | write (off : Nat) (bytes : List (Option Byte)) (marks : BitVec 4)
  | fetching (off : Nat) (op : PeerAtom)
  | nonFetching (off : Nat) (op : PeerAtom)
  | float (off : Nat) (op : FloatAtom) (operand : Word)
  | response (tag : Nat) (answer : PeerAnswer)
  deriving DecidableEq, Repr

/-- A lane of the optical fabric as a receiver reports it: plane, slot of the sender, sender (R277, R280). -/
structure LaneRep where
  plane : Nat
  slot  : Nat
  dev   : Nat
  /-- Band and channel of the wavelength, as its source numbers them (R277). -/
  band  : BitVec 2
  ch    : BitVec 6
  deriving DecidableEq, Repr

/-- Where a soft error is met (R352, R357). -/
inductive ErrSite where
  /-- A register, with the bay whose register file holds it. -/
  | register (t : ThreadRef) (r : Reg) (bay : Nat)
  | lane (core bay lane : Nat)
  | scratch (core place off : Nat)
  | acc (core place slot elem : Nat)
  | plane (core cru row : Nat) (shadow : Bool)
  | l1 (core pa : Nat)
  /-- A unit of a line in an L2 slice, clean or dirty. -/
  | l2 (pa : Nat) (dirty : Bool)
  | icache (core pa : Nat)
  | tlb (core : Nat)
  | hbm (pa : Nat)
  | coreState (core : Nat)
  | deviceState
  /-- A unit of the pinned window, with the Caster thread that uses the data. -/
  | window (core pa : Nat) (user : Option Nat)
  | lineTag (pa : Nat)
  deriving DecidableEq, Repr

/-- What a vendor-defined management message reads (R380). -/
inductive VendorItem where
  | bootstat | health | healthRecord | sensors
  deriving DecidableEq, Repr

/-- Thresholds of the configuration record (R357). -/
structure Thresholds where
  lane : Nat := 64
  bay  : Nat := 256
  coreCorrected : Nat := 4096
  coreUncorrectable : Nat := 4
  pageCorrected : Nat := 8
  pageUncorrectable : Nat := 1
  channel : Nat := 64
  optical : Nat := 1024
  deriving DecidableEq, Repr

/-- What the boot stages meet (R378): the configuration record, none where it fails verification, whether the health record
is restored and the HBM stacks train, and which lanes do not lock. -/
structure BootFacts where
  config   : Option Thresholds
  healthOk : Bool
  hbmOk    : Bool
  /-- Lanes of the default plan that do not lock: plane, slot, and whether they arrive. -/
  unlocked : List (Nat × Nat × Bool) := []
  deriving DecidableEq, Repr

/-! ## Instructions and events -/

/-- One constructor for each row of spec/opcode_table.json. -/
inductive Instr where
  -- integer and address (R81 to R93)
  | nop
  | iadd (g : Guard) (ty : Ty) (sat : Bool) (d : Reg) (a : Src) (b : SrcB)
  | isub (g : Guard) (ty : Ty) (sat : Bool) (d : Reg) (a : Src) (b : SrcB)
  | imul (g : Guard) (ty : Ty) (sat : Bool) (d : Reg) (a : Src) (b : SrcB)
  | imulh (g : Guard) (ty : Ty) (d : Reg) (a : Src) (b : SrcB)
  | imad (g : Guard) (ty : Ty) (sat : Bool) (d : Reg) (a : Src) (b : SrcB) (c : Src)
  | idiv (g : Guard) (ty : Ty) (d : Reg) (a : Src) (b : SrcB)
  | irem (g : Guard) (ty : Ty) (d : Reg) (a : Src) (b : SrcB)
  | imin (g : Guard) (ty : Ty) (d : Reg) (a : Src) (b : SrcB)
  | imax (g : Guard) (ty : Ty) (d : Reg) (a : Src) (b : SrcB)
  | iabs (g : Guard) (ty : Ty) (sat : Bool) (d : Reg) (a : Src)
  | ineg (g : Guard) (ty : Ty) (sat : Bool) (d : Reg) (a : Src)
  | and (g : Guard) (ty : Ty) (d : Reg) (a : Src) (b : SrcB)
  | or (g : Guard) (ty : Ty) (d : Reg) (a : Src) (b : SrcB)
  | xor (g : Guard) (ty : Ty) (d : Reg) (a : Src) (b : SrcB)
  | not (g : Guard) (ty : Ty) (d : Reg) (a : Src)
  | shl (g : Guard) (ty : Ty) (d : Reg) (a : Src) (b : SrcB)
  | shr (g : Guard) (ty : Ty) (d : Reg) (a : Src) (b : SrcB)
  | sra (g : Guard) (ty : Ty) (d : Reg) (a : Src) (b : SrcB)
  | rot (g : Guard) (ty : Ty) (d : Reg) (a : Src) (b : SrcB)
  | popc (g : Guard) (ty : Ty) (d : Reg) (a : Src)
  | clz (g : Guard) (ty : Ty) (d : Reg) (a : Src)
  | ctz (g : Guard) (ty : Ty) (d : Reg) (a : Src)
  | brev (g : Guard) (ty : Ty) (d : Reg) (a : Src)
  | bfx (g : Guard) (ty : Ty) (d : Reg) (a : Src) (b : SrcB)
  | bfi (g : Guard) (ty : Ty) (d : Reg) (a : Src) (b : SrcB) (c : Src)
  | icmp (g : Guard) (cc : ICond) (ty : Ty) (qd : PredReg) (a : Src) (b : SrcB)
  | sel (g : Guard) (ty : Ty) (d : Reg) (a : Src) (b : SrcB) (qk : PredReg)
  | mov (g : Guard) (ty : Ty) (d : Reg) (a : Src)
  | movi (g : Guard) (ty : Ty) (d : Reg) (x : Word)
  | lea (g : Guard) (ty : Ty) (k : BitVec 3) (d : Reg) (a : Src) (b : Src) (off : Word)
  -- float (R94 to R103)
  | fadd (g : Guard) (ty : Ty) (rm : RmField) (sat : Bool) (d : Reg) (a : Src) (b : SrcB)
  | fsub (g : Guard) (ty : Ty) (rm : RmField) (sat : Bool) (d : Reg) (a : Src) (b : SrcB)
  | fmul (g : Guard) (ty : Ty) (rm : RmField) (sat : Bool) (d : Reg) (a : Src) (b : SrcB)
  | fma (g : Guard) (ty : Ty) (rm : RmField) (sat : Bool) (d : Reg) (a : Src) (b : SrcB) (c : Src)
  | fmin (g : Guard) (ty : Ty) (d : Reg) (a : Src) (b : SrcB)
  | fmax (g : Guard) (ty : Ty) (d : Reg) (a : Src) (b : SrcB)
  | fabs (g : Guard) (ty : Ty) (d : Reg) (a : Src)
  | fneg (g : Guard) (ty : Ty) (d : Reg) (a : Src)
  | fcmp (g : Guard) (cc : FCond) (ty : Ty) (qd : PredReg) (a : Src) (b : SrcB)
  | fclass (g : Guard) (ty : Ty) (d : Reg) (a : Src)
  | fsqrt (g : Guard) (ty : Ty) (rm : RmField) (sat : Bool) (d : Reg) (a : Src)
  | frcp (g : Guard) (ty : Ty) (rm : RmField) (sat : Bool) (d : Reg) (a : Src)
  | fdiv (g : Guard) (ty : Ty) (rm : RmField) (sat : Bool) (d : Reg) (a : Src) (b : SrcB)
  | frsq (g : Guard) (ty : Ty) (rm : RmField) (sat : Bool) (d : Reg) (a : Src)
  | fexp2 (g : Guard) (ty : Ty) (rm : RmField) (sat : Bool) (d : Reg) (a : Src)
  | flog2 (g : Guard) (ty : Ty) (rm : RmField) (sat : Bool) (d : Reg) (a : Src)
  | fsinpi (g : Guard) (ty : Ty) (rm : RmField) (sat : Bool) (d : Reg) (a : Src)
  | fcospi (g : Guard) (ty : Ty) (rm : RmField) (sat : Bool) (d : Reg) (a : Src)
  | fscale (g : Guard) (ty : Ty) (rm : RmField) (sat : Bool) (d : Reg) (a : Src) (b : SrcB)
  | fexpo (g : Guard) (ty : Ty) (d : Reg) (a : Src)
  | fround (g : Guard) (ty : Ty) (rm : RmField) (d : Reg) (a : Src)
  | froundExact (g : Guard) (ty : Ty) (rm : RmField) (d : Reg) (a : Src)
  -- conversion (R104 to R106)
  | cvt (g : Guard) (ty sty : Ty) (rm : RmField) (sat : Bool) (d : Reg) (a : Src)
  | pack (g : Guard) (ty : Ty) (rm : RmField) (sat : Bool) (d : Reg) (a b : Src)
  | unpack (g : Guard) (ty : Ty) (d : Reg) (a : Src)
  -- cross-lane (R257 to R265)
  | setw (g : Guard) (width : Word)
  | shfl (g : Guard) (mode : ShflMode) (ty : Ty) (d : Reg) (a : Src) (b : SrcB)
  | vote (g : Guard) (mode : VoteMode) (qd qa : PredReg)
  | voteBallot (g : Guard) (d : Reg) (qa : PredReg) (w : BitVec 2)
  | redux (g : Guard) (op : RedOp) (ty : Ty) (rm : RmField) (d : Reg) (a : Src)
  | scanx (g : Guard) (op : RedOp) (excl : Bool) (ty : Ty) (rm : RmField) (d : Reg) (a : Src)
  | bcast (g : Guard) (mode : BcastMode) (ty : Ty) (d : Reg) (a : Src)
  | matchLanes (g : Guard) (mode : MatchMode) (ty : Ty) (d : Reg) (a : Src)
  | lanes (g : Guard) (mode : LanesMode) (d : Reg)
  -- memory and atomics (R173 to R190)
  | ld (g : Guard) (sx : Bool) (size : Size) (acq : Bool) (scope : Scope) (feq : LdFeq) (d : Reg) (m : MemRef)
  | st (g : Guard) (size : Size) (rel : Bool) (scope : Scope) (feq : StFeq) (m : MemRef) (b : Src)
  | pf (g : Guard) (level : PfLevel) (base : Src) (off : Word)
  | fence (g : Guard) (ord : MemOrd) (scope : Scope)
  | ifence (g : Guard) (scope : Scope)
  | cflushWb (g : Guard) (base : Src) (off : Word)
  | cflushInv (g : Guard) (base : Src) (off : Word)
  | cflushMem (g : Guard) (base : Src) (off : Word)
  | lsub (g : Guard) (qd : PredReg) (base : Src) (off : Word)
  | lunsub (g : Guard) (base : Src) (off : Word)
  | atom (g : Guard) (op : AtomOp) (ty : Ty) (ord : MemOrd) (scope : Scope) (d : Reg) (m : MemRef) (b : Src)
  | cas (g : Guard) (ty : Ty) (ord : MemOrd) (scope : Scope) (d : Reg) (m : MemRef) (b c : Src)
  | red (g : Guard) (op : AtomOp) (ty : Ty) (rel : Bool) (scope : Scope) (m : MemRef) (b : Src)
  -- synchronisation (R266 to R271)
  | barinit (g : Guard) (scope : Scope) (m : MemRef) (b : Src)
  | arrive (g : Guard) (scope : Scope) (d : Reg) (m : MemRef)
  | barwait (g : Guard) (scope : Scope) (m : MemRef) (b : Src)
  | dqinit (g : Guard) (scope : Scope) (base : Src) (off : Word) (b c : Src)
  | dqpush (g : Guard) (scope : Scope) (qd : PredReg) (base : Src) (off : Word) (b : Src)
  | dqpop (g : Guard) (scope : Scope) (d : Reg) (qd : PredReg) (base : Src) (off : Word)
  | dqsteal (g : Guard) (scope : Scope) (d : Reg) (qd : PredReg) (base : Src) (off : Word)
  | waitaddr (g : Guard) (size : Size) (acq : Bool) (scope : Scope) (d : Reg) (m : MemRef) (b c : Src)
  -- Ladle and collectives (R191 to R206)
  | cp (g : Guard) (fill dig : Bool) (swz : BitVec 3) (dsp ssp : Space) (d : Reg) (a b c : Src)
      (doff soff : BitVec 16)
  | cpq (g : Guard) (d : Reg) (a : Src)
  | cpwait (g : Guard) (a : Src)
  | coll (g : Guard) (base : Src) (off : Word)
  | collwait (g : Guard) (base : Src) (off : Word)
  -- Crucible (R121 to R139)
  | mload (g : Guard) (fmt : Fmt) (ks : KStep) (qt : Bool) (cru : BitVec 1) (a : Src) (off : BitVec 16) (pr : BitVec 8)
  | mflip (g : Guard) (cru : BitVec 1)
  | mbegin (g : Guard) (fmt : Fmt) (cru : BitVec 1) (sla : BitVec 8)
  | mstream (g : Guard) (fmt : Fmt) (ks : KStep) (qt : Bool) (cru : BitVec 1) (a : Src) (off : BitVec 16) (pr : BitVec 8)
  | mend (g : Guard) (cru : BitVec 1)
  | mzero (g : Guard) (sla : BitVec 8)
  | minit (g : Guard) (a : Src) (off : BitVec 16) (sla : BitVec 8)
  | mdrain (g : Guard) (ofmt : OFmt) (drm : RmField) (dsat fill : Bool) (a : Src) (off : BitVec 16) (sla : BitVec 8)
  | mscale (g : Guard) (zs : Bool) (a b : Src) (off : BitVec 16) (slb sla : BitVec 8)
  | mstat (g : Guard) (d : Reg) (sla : BitVec 8)
  | qtile (g : Guard) (fmt : Fmt) (ks : KStep) (fill : Bool) (a b : Src) (off : BitVec 16)
  -- allowance (R282, R283)
  | alw (g : Guard) (rsp : Bool) (d : Reg) (a : Src)
  | alwq (g : Guard) (rsp : Bool) (qd : PredReg) (a : Src) (n : BitVec 24)
  | alwwait (g : Guard) (rsp : Bool) (a : Src) (n : BitVec 24)
  -- control (R249 to R256)
  | bra (g : Guard) (imm : Word)
  | brx (g : Guard) (a : Src)
  | call (g : Guard) (imm : Word)
  | callR (g : Guard) (a : Src)
  | ret (g : Guard)
  | joinSeg (g : Guard)
  | joinTask (g : Guard)
  | joinM (g : Guard) (a : Src) (base : BitVec 10)
  | exit (g : Guard)
  | yield (g : Guard)
  | launch (g : Guard) (base : Src) (off : Word)
  | ctlrd (g : Guard) (d : Reg) (creg : BitVec 12)
  | ctlwr (g : Guard) (creg : BitVec 12) (a : Src)
  | ctlwrImm (g : Guard) (creg : BitVec 12) (n : BitVec 20)
  -- trap-raising (R343, R347)
  | sys (g : Guard) (n : BitVec 16)
  | brk (g : Guard) (n : BitVec 8)
  | trap (g : Guard) (n : BitVec 8) (a : Src)
  | trapSret (g : Guard)
  -- privileged (R312 to R329)
  | rfe (g : Guard)
  | tlbinv (g : Guard) (sel : TlbSel)
  | ctxsave (g : Guard) (d : Reg) (a b : Src)
  | ctxload (g : Guard) (d : Reg) (a : Src)
  | kload (g : Guard) (d : Reg) (a : Src)
  | kclr (g : Guard) (d : Reg) (a : Src)
  | riserpop (g : Guard) (d : Reg) (a : Src)
  | resumeRetry (g : Guard) (d : Reg) (a : Src)
  | resumeSkip (g : Guard) (d : Reg) (a : Src)
  | resumeSys (g : Guard) (d : Reg) (a b : Src)
  | resumeSetv (g : Guard) (d : Reg) (a b : Src) (n : Reg)
  | sigpost (g : Guard) (d : Reg) (a b : Src)
  | planset (g : Guard) (d : Reg) (a : Src)
  | plancommit (g : Guard) (d : Reg)
  | biassetTodev (g : Guard) (d : Reg) (a : Src)
  | biassetTohost (g : Guard) (d : Reg) (a : Src)
  | halt (g : Guard)
  -- events of cores, engines and memory
  | lineArrival (core pa : Nat)
  | waitCountPromotion (t : ThreadRef)
  | yieldExpiry (t : ThreadRef)
  | loadDataArrival (t : ThreadRef) (k : Nat)
  | storeLeavesQueue (t : ThreadRef)
  | atomicAtHome (t : ThreadRef)
  | failureAfterIssue (t : ThreadRef)
  | peerFaultStop (t : ThreadRef)
  | signalDelivery (t : ThreadRef)
  | copyGranuleWrite (core id : Nat)
  | copyPageTranslate (core id : Nat)
  | copyFaultReport (t : ThreadRef)
  | copyComplete (core id : Nat)
  | collectiveComplete (k : Nat) (inputs : List (Nat × List Byte × List Nat))
  | collectiveFail (k : Nat) (fcode : Byte)
  | kstepComplete (core cru : Nat)
  | crucibleClaim (core cru : Nat)
  | crossLaneComplete (core place : Nat) (pc : DWord) (base : Nat)
  | joinRelease (core place : Nat) (pc : DWord)
  | waitaddrWake (t : ThreadRef)
  | waitaddrTimeout (t : ThreadRef)
  | spuriousWake (t : ThreadRef)
  | subscriptionPush (core pa : Nat) (line : List Byte)
  -- events of the fabric
  | creditReturn (dev : Nat)
  | responseArrival (tag : Nat) (answer : PeerAnswer)
  | read (src off size : Nat)
  | write (src off : Nat) (bytes : List (Option Byte)) (marks : BitVec 4)
  | atomicFetching (src off : Nat) (op : PeerAtom)
  | atomicNonFetching (src off : Nat) (op : PeerAtom)
  | floatAtomic (src off : Nat) (op : FloatAtom) (operand : Word)
  | flitReceive (src lane seq : Nat) (payload : FlitBody)
  | flitResend (plane slot : Nat)
  | laneDown (plane slot : Nat) (receive : Bool)
  | planResponseBound
  | relock (locked : List LaneRep) (late : List Nat)
  | relockHandshake (peer : Nat) (locked : List LaneRep)
  -- events of launches
  | doorbell (q : Nat)
  | priorityAging (k : Nat)
  | launchDispatch (k : Nat)
  | taskDispatch (core : Nat)
  | taskRetire (core place : Nat)
  | launchPreempt (value : DWord)
  | preemptComplete
  -- events of the Caster group and machine checks
  | casterStart (core cause : Nat)
  | machineCheck (core : Nat) (sub : Byte) (w1 w2 : DWord)
  -- events of host coherence, pages and translation
  | biasctlToHost (page : Nat)
  | biasctlToDevice (page : Nat)
  | biasFlipComplete (page : Nat)
  | hostMemRead (off size : Nat)
  | hostMemWrite (off : Nat) (bytes : List Byte)
  | hostSnoop (pa : Nat) (data : Option (List Byte))
  | pageSlotChange (page slot : Nat)
  | evictMark (page : Nat)
  | evictUnmark (page : Nat)
  | evictMarkComplete
  | shootdownPost (value : DWord)
  | shootdownComplete
  | imsicInvalidateAll
  | imsicProcessQueue
  -- events of device registers
  | devcfgWrite (value : DWord)
  | casterldGo (value : DWord)
  | hevtRead
  | cntctlWrite (value : DWord)
  | registerWrite (off : Nat) (value : DWord)
  -- events of counters, power, boot, management and test access
  | counterTick
  | timeBeacon (tick : DWord)
  | beaconTimeout
  | throttleStepDown
  | throttleStepUp
  | thermalTrip
  | powerUp (order : List Nat)
  | powerDown (order : List Nat)
  | deviceReset (facts : BootFacts)
  | firmwareUpdate (image : Nat) (valid : Bool)
  | keyDelivery (slot : Nat) (key : BitVec 256) (inSession : Bool)
  | spdmRequest (request : List Byte)
  | mctpControl (message : List Byte)
  | vendorRead (item : VendorItem)
  | healthRecordClear
  | bypass
  | idcode
  | samplePreload
  | extest
  -- events of errors and health
  | correctedError (site : ErrSite)
  | uncorrectableError (site : ErrSite)
  | patrolScrub (pa : Nat) (corrected : Bool)
  | healthCountHalving
  | signalRequest (core : Nat)
  | pageSlotChangeComplete
  | crucibleInstructionComplete (core : Nat)
  | l1LineEviction (core pa : Nat)
  | writeBackComplete (core pa : Nat)
  | hostWriteComplete (core pa : Nat)
  | backInvalidateResponse (page line : Nat) (data : Option (List Byte))
  deriving DecidableEq, Repr

end Sys2Proof
end

