-- ==== Sys2Proof/Machine/State.lean ====
section
/-!
DEFINITION. The state of the machine: everything spec/01_machine.md R14 to R18 and the later chapters give it,
as plain data, and the state right after reset. Sparse stores (memory, scratchpads, planes, accumulators) are
lists of what differs from the value an unlisted place has.
-/

namespace Sys2Proof.Machine

/-! ## Sparse stores -/

/-- Bytes by address: strictly rising addresses, no entry equal to 0, which is what an unlisted address reads
(notes/assumptions/2.md). -/
abbrev Memory := List Host.Cell

/-- A set of natural numbers: strictly rising. -/
abbrev NatSet := List Nat

/-! ## Traps and fault records (R335, R336) -/

/-- The trap kinds of R335. -/
inductive TrapKind where
  | illegal | illpair | cfi | priv | unitAbsent | fptrap | uninit | emptyreg | align | pageNp | pagePerm
  | bounds | trailer | poison | unreach | remoteFault | sys | brk | watch | trap | signal | key | peerFault
  | illegalLine | launchBad | dequeBad | machineCheck
  /-- A code outside R335, from a fault record of a shell that the device did not write. -/
  | other (code : Byte)
  deriving DecidableEq, Repr

/-- What a trap reports: the kind, sub-kind, w2, and the copy (with its progress) or slot of w3 and w5. -/
structure Trap where
  kind : TrapKind
  sub  : Byte
  addr : DWord := 0
  /-- w3: bytes done by the copy named in w5. -/
  prog : Nat := 0
  /-- w5 WHAT: 0 none, 1 copy id, 2 accumulator slot. -/
  what : Nat := 0
  /-- w5 VAL. -/
  val  : Nat := 0
  deriving DecidableEq, Repr

/-- A fault record (R336). -/
structure FaultRec where
  tidx   : Nat
  core   : Nat
  trap   : Trap
  pc     : DWord
  handle : Word
  lid    : Word
  time   : DWord
  /-- Model only: the older work of its thread is done, so that the Caster code may see the record (R338). -/
  shown  : Bool := true
  deriving DecidableEq, Repr

/-! ## Where an access goes (R141, R149) -/

/-- The target of an access after its address is formed and translated. -/
inductive Target where
  /-- Local HBM or host memory, by device physical address. -/
  | mem (pa : Nat)
  /-- A device register, by offset in the MMIO window. -/
  | mmio (off : Nat)
  /-- Memory of peer device `dev`, by offset in its local map. -/
  | peer (dev off : Nat)
  /-- The scratchpad allocation of the task in `place` of `core`; `remote` for SPACE 2. -/
  | scratch (core place off : Nat) (remote : Bool)
  deriving DecidableEq, Repr

/-! ## Whose access it is -/

/-- For whom an access is made: core, mode, and the context's ASID, root and key slot (R292, R313, R385). -/
structure Accessor where
  core   : Nat
  user   : Bool
  asid   : BitVec 16
  ptroot : DWord
  kslot  : Byte
  /-- The pinned window is physical for this accessor: a Caster thread's own accesses (R313). -/
  window : Option Nat
  deriving DecidableEq, Repr

/-! ## Work that outlives its instruction -/

/-- A value on its way to registers: four words with their poison marks, and a predicate written with them. -/
structure Arrived where
  value  : Quad
  poison : BitVec 4
  pred   : Option (PredReg × Bool)
  deriving DecidableEq, Repr

/-- An atomic read-modify-write: `cas` with its expected value, or an operation (R187, R188). -/
inductive Rmw where
  | op (o : AtomOp) (ty : Ty) (b : DWord)
  | cas (ty : Ty) (expected new : DWord)
  deriving DecidableEq, Repr

/-- A deque operation at its descriptor's home (R269). -/
inductive DqOp where
  | init (buf : DWord) (logcap : Nat)
  | push (x : DWord)
  | pop | steal
  deriving DecidableEq, Repr

/-- A barrier operation on its word (R267). -/
inductive BarOp where
  | init (count : Nat)
  | arrive
  deriving DecidableEq, Repr

/-- An operation performed at its target, after issue, in one step. -/
inductive HomeOp where
  | rmw (r : Rmw)
  /-- A deque operation, with the predicate it writes and the context in which it issued (R314). -/
  | dq (o : DqOp) (q : PredReg) (acc : Accessor)
  | bar (o : BarOp)
  deriving DecidableEq, Repr

/-- What kind of access an outstanding item is, for the sub-kind of a failure after issue (R177). -/
inductive PendKind where
  | load | atomic | noReturn | cpq
  deriving DecidableEq, Repr

/-- An outstanding long-latency access of a thread (R146, R176). -/
structure Pend where
  kind  : PendKind
  /-- First destination register and how many registers follow. -/
  dst   : Reg
  words : Nat
  va    : DWord
  /-- The operation still to be performed at its target; none for a load or one already performed. -/
  op    : Option (Target × HomeOp)
  acq   : Bool
  rel   : Bool
  scope : Scope
  /-- The issue this access belongs to: lanes of one issue may combine (R165). -/
  issue : Nat
  /-- The fabric request that carries it to a peer device. -/
  tag   : Option Nat
  /-- Size, sign extension and predicate with which returned bytes become register values. -/
  size  : Size
  sx    : Bool
  /-- The predicate the result writes. -/
  pred  : Option PredReg
  /-- The value, once fixed. -/
  got   : Option Arrived
  deriving DecidableEq, Repr

/-- A store in a thread's store queue (R158, R179). -/
structure QStore where
  target : Target
  size   : Size
  data   : Quad
  feq    : StFeq
  rel    : Bool
  scope  : Scope
  va     : DWord
  /-- The fabric request that carries it, while it waits at the head for a subscribed line (R169). -/
  sent   : Option Nat
  /-- A push that shows it has come since it was sent. -/
  pushed : Bool := false
  /-- The issue this store belongs to. -/
  issue  : Nat
  deriving DecidableEq, Repr

/-! ## Threads (R14, R228) -/

/-- The set of a pending join, as resolved at arrival (R224, R251, R305). -/
inductive JoinSet where
  | seg (base width : Nat)
  | task
  | mask (base : Nat) (m : Word)
  deriving DecidableEq, Repr

/-- A wait at `waitaddr` (R270). -/
structure AddrWait where
  target   : Target
  va       : DWord
  size     : Size
  acq      : Bool
  scope    : Scope
  dst      : Reg
  expected : DWord
  timeout  : Word
  /-- A read of a peer's word on its way: its request, and the value vd takes where the word is unchanged. -/
  asked    : Option (Nat × Nat)
  deriving DecidableEq, Repr

/-- What a thread in "waiting for a copy or collective" waits for (R191, R201, R203, R205). -/
inductive CopyWait where
  | freeId
  | id (n : Nat)
  | freeColl
  | coll (desc : Nat)
  deriving DecidableEq, Repr

/-- An access blocked on a granule, with all it needs to be performed there (R145). -/
inductive GranuleOp where
  | load (remote take : Bool) (dst : Reg) (size : Size) (sx acq : Bool) (scope : Scope)
  /-- A `.fillw` store, with its bytes. -/
  | store (bytes : List Byte)
  deriving DecidableEq, Repr

/-- The states of R228; a thread that is `runnable` is in none of them. -/
inductive BState where
  | runnable
  | emptyReg (r : Reg)
  | granule (core place off : Nat) (op : GranuleOp)
  | waitaddr (w : AddrWait)
  | barrier (target : Target) (scope : Scope) (va : DWord)
  | join (set : JoinSet)
  /-- Arrived at a cross-lane instance (R226). -/
  | xlane
  /-- In the parking queue of a destination; or at `alwwait`, for a class and a number of flits (R283). -/
  | allowance (dev : Nat) (va : DWord) (want : Option (Bool × Nat))
  | copy (w : CopyWait)
  | riser
  | syscall (num : BitVec 16)
  /-- A Caster thread that serves no cause (R312). -/
  | idle
  deriving DecidableEq, Repr

/-- Contents of SPEC (R78). -/
inductive Spec where
  | fin | pinf | ninf | nan
  deriving DecidableEq, Repr

/-- A wide-accumulator entry (R78), with its poison mark (R352). -/
structure AccEntry where
  v    : BitVec 624 := 0
  spec : Spec := .fin
  nz   : Bool := false
  oow  : Bool := false
  pois : Bool := false
  deriving DecidableEq, Repr

/-- The exact result kept for a participant that would have trapped FPTRAP (R257). -/
structure Kept where
  /-- PC of the cross-lane instruction. -/
  pc    : DWord
  entry : AccEntry
  flags : BitVec 5
  deriving DecidableEq, Repr

/-- A thread (R14), of a task or of the Caster group. -/
structure Thread where
  pc     : DWord
  regs   : Vector Word 64
  full   : BitVec 64
  poison : BitVec 64
  /-- Bit k is qk; bit 0 is not used (q0 reads true). -/
  preds  : BitVec 8
  fpctl  : Word
  state  : BState
  /-- The signal made pending by `sigpost` (R327). -/
  signal : Option (BitVec 6) := none
  exited : Bool := false
  kept   : Option Kept := none
  queue  : List QStore := []
  pend   : List Pend := []
  /-- Failures after issue, oldest access first, each with the issue of its access (R177, notes/assumptions/102.md). -/
  fails  : List (Nat × Trap) := []
  /-- A stop of its cluster (R342): the trap it takes at its next boundary. -/
  stop   : Option Trap := none
  /-- Reports loaded with a shell, one at each boundary after a resume (R322). -/
  later  : List FaultRec := []
  /-- Its record is in the Riser and is not shown yet: it waits for peer responses (R338). -/
  trapping : Bool := false
  /-- Wait count (R222). -/
  wait   : Nat := 0
  /-- Out of selection after `yield` (R253). -/
  yielded : Bool := false
  /-- A `waitaddr` at this PC ends its wait as woken: it was saved while it waited (R322 step 5). -/
  woken  : Option DWord := none
  /-- Flits reserved for it by the Sprue, with their destination (R274). -/
  reserved : Option (Nat × Nat × Nat) := none
  /-- Its start at ENTRY, or the return of its system call, is still to be checked as a transfer (R27). -/
  starting : Bool := false
  deriving DecidableEq, Repr

/-- A Caster thread (R294, R312): a thread with MODE.CAUSE and MODE.ARG. -/
structure Caster where
  thr   : Thread
  cause : BitVec 4
  arg   : Word
  /-- Which start of the core this one is: the youngest has the largest number. -/
  start : Nat
  /-- It was stopped by a machine check, and its state lies in its save area (R312). -/
  saved : Bool
  /-- The call-ring entry it serves, for CAUSE 2. -/
  call  : Option Nat
  /-- The cause it was serving when a machine check stopped it; 0 for none. -/
  kept  : BitVec 4 := 0
  /-- A machine check is to stop it at its next boundary: its results are waited for (R312). -/
  stopping : Bool := false
  deriving DecidableEq, Repr

/-! ## Tasks (R16) -/

/-- An operand a thread brings to a cross-lane instance, and how it takes its result. -/
structure Arrival where
  tidx   : Nat
  active : Bool
  instr  : Instr
  a      : DWord
  apois  : BitVec 2
  b      : Word
  q      : Bool
  /-- The participant's own rounding mode, a static one. -/
  rm     : RmField
  deriving DecidableEq, Repr

/-- An open cross-lane instance (R226): its PC, its segment, and who has arrived. -/
structure Instance where
  pc    : DWord
  base  : Nat
  width : Nat
  arrivals : List Arrival
  deriving DecidableEq, Repr

/-- A watchpoint (R348). -/
structure WatchReg where
  addr : DWord := 0
  ctl  : Word := 0
  deriving DecidableEq, Repr

/-- The values a task takes from its context-table entry (R292). -/
structure Context where
  ctxn     : Nat
  kslot    : Byte
  asid     : BitVec 16
  ptroot   : DWord
  callring : DWord
  sigvec   : DWord
  deriving DecidableEq, Repr

/-- The place of a task in its cluster (R147): the cluster's origin core, its size, the task's peer number. -/
structure ClusterPos where
  origin : Nat
  clw    : Nat
  clh    : Nat
  peer   : Nat
  deriving DecidableEq, Repr

/-- Crucible state of a loaded shell, not yet restored (R111): the Crucible, its holder, the planes, the chain. -/
structure SavedPlane where
  cru    : Nat
  holder : Nat
  active : Memory
  shadow : Memory
  apois  : NatSet
  spois  : NatSet
  chain  : Option (Nat × Fmt)
  deriving DecidableEq, Repr

/-- A tile task (R16). -/
structure Task where
  threads  : List Thread
  /-- Requested width 2^REQW and the width a pending `setw` names (R219). -/
  reqw     : Nat
  setw     : Option Nat
  grant    : Nat
  segw     : Nat
  lid      : Word
  coord    : Word × Word × Word
  tile     : Nat
  /-- Physical address of the launch record, for the shell. -/
  recpa    : Nat
  /-- Number of the launch in `State.launches`. -/
  launch   : Nat
  ctx      : Context
  scratch  : Nat
  /-- Base of the allocation in the core's scratchpad, a multiple of 1 KiB (R142). -/
  base     : Nat := 0
  bytes    : Memory
  /-- Granules whose full/empty bit is empty. -/
  empties  : NatSet
  /-- Poisoned 8-byte units of the allocation. -/
  spois    : NatSet
  /-- Threads blocked on granules, in the order in which they blocked. -/
  gwait    : List ThreadRef
  accslots : Nat
  /-- Entries that differ from the allocated one, by slot · 256 + 16 i + j. -/
  accs     : List (Nat × AccEntry)
  insts    : List Instance
  /-- Barrier words of the own scratchpad and the TIDX that arrived in the current phase (R258). -/
  arrived  : List (Nat × Nat)
  /-- Of a task loaded from a shell, the words of which a phase has ended since: in the first phase of any other, a thread
  that waits counts as one that has arrived, since the shell does not say who arrived before the save (R305;
  notes/assumptions/120.md). -/
  ended    : Option (List Nat)
  watch0   : WatchReg
  watch1   : WatchReg
  cluster  : Option ClusterPos
  /-- Saved Crucible state still to be restored lazily (R111). -/
  planes   : List SavedPlane
  /-- Issue is stopped: the task is being saved, or its fellows of a cluster are not loaded yet (R321, R322). -/
  stopped  : Bool
  /-- The Caster thread whose `ctxsave` of the task is in progress (R312, R321). -/
  saver    : Option Nat := none
  /-- Issue is stopped for a re-slicing to this grant, which waits for results on their way (R220). -/
  slicing  : Option Nat := none
  deriving DecidableEq, Repr

/-! ## Engines -/

/-- STATE of a copy (R192), with why it stopped. -/
inductive CopyState where
  | running
  | stopped (t : Option Trap)
  | complete
  deriving DecidableEq, Repr

/-- A translated page a copy works on: virtual page, where it lies, and the page held (R351). -/
structure CopyPage where
  vpage : Nat
  base  : Target
  deriving DecidableEq, Repr

/-- A copy in the copy table (R192). -/
structure Copy where
  id    : Nat
  place : Nat
  tidx  : Nat
  dsp   : Space
  ssp   : Space
  swz   : BitVec 3
  dig   : Bool
  fill  : Bool
  len   : Nat
  dst   : DWord
  src   : DWord
  prog  : Nat
  state : CopyState
  dstPage : Option CopyPage
  srcPage : Option CopyPage
  /-- SHA-512 state under DIG after the whole blocks below PROG (R196). -/
  hash   : List DWord
  /-- Some source byte was poisoned (R354). -/
  hpois  : Bool
  /-- The fault of a stopped copy has been reported to the thread. -/
  told   : Bool
  /-- Source bytes from PROG on that have been read and not yet written, in units of 8 bytes with their marks. -/
  buf    : List (List Byte × Bool)
  /-- Bytes of the write to a peer that is on its way. -/
  sending : Nat
  /-- The request to a peer that is on its way. -/
  asked   : Option Nat
  /-- Request flits still reserved from issue, and their destination (R199). -/
  flits  : Nat
  resDev : Nat
  /-- The context in which it issued (R314). -/
  acc    : Accessor
  /-- A fault of its source beyond the bytes in the buffer: the copy stops with it once they are written (R197). -/
  fail   : Option Trap := none
  deriving DecidableEq, Repr

/-- A k-step accepted and not yet applied: its operand bytes and the rows of the plane it reads (R112, R132). -/
structure KStepJob where
  /-- Place of the holder's task. -/
  place  : Nat
  slot   : Nat
  fmt    : Fmt
  k      : Nat
  act    : List Byte
  rows   : List Byte
  deriving DecidableEq, Repr

/-- An open chain (R108). -/
structure Chain where
  slot : Nat
  fmt  : Fmt
  /-- `mend` has issued; the chain ends with its last k-step (R133). -/
  closed : Bool
  deriving DecidableEq, Repr

/-- A Crucible (R107, R108). -/
structure Crucible where
  /-- Holder: task place and TIDX. -/
  holder  : Option (Nat × Nat)
  chain   : Option Chain
  /-- The task that held it last: place, generation. -/
  last    : Option (Nat × BitVec 6)
  active  : Memory
  shadow  : Memory
  apois   : NatSet
  spois   : NatSet
  jobs    : List KStepJob
  waiters : List (Nat × Nat)
  deriving DecidableEq, Repr

/-- The part of a Crucible-class instruction that follows its issue: fill bits of written granules, and which
slots or scratchpad ranges it still works on (R126, R127). -/
structure CruWork where
  place : Nat
  tidx  : Nat
  /-- Granules to be set full at completion. -/
  fills : List Nat
  deriving DecidableEq, Repr

/-- A line of the L1 data cache (R148): bytes, which of them the core has written since the line was last clean,
poisoned 16-byte units, and whether a subscription holds it. -/
structure L1Line where
  pa    : Nat
  data  : List Byte
  dirty : BitVec 64
  pois  : BitVec 4
  owned : Bool
  deriving DecidableEq, Repr

/-- A subscribed line and its subscribers (R185): a line of local memory, or of a peer device. -/
structure Sub where
  target : Target
  users  : List (Nat × Nat)
  deriving DecidableEq, Repr

/-- What the L1 instruction cache knows of a line (R24). -/
inductive LineState where
  | good | poisoned | parityOnce
  /-- A line of a peer's memory that failed its parity twice in a row. -/
  | parityTwice
  | bad (sub : Byte)
  /-- A peer device answered the read of the line with an error (R140, R177). -/
  | refused
  deriving DecidableEq, Repr

/-- A line of the L1 instruction cache, by physical line address. -/
structure ILine where
  pa    : Nat
  bytes : List Byte
  state : LineState
  deriving DecidableEq, Repr

/-- A call record of the call ring that is not free (R344). -/
structure CallEntry where
  place  : Nat
  tidx   : Nat
  taken  : Bool
  order  : Nat
  deriving DecidableEq, Repr

/-- Whether a core takes tasks, only finishes those it has, or is out (R319, R359). -/
inductive Service where
  | running | leaving | out
  deriving DecidableEq, Repr

/-- Error counts of a core (R357): lane columns by bay · 32 + lane, bays, corrected and uncorrectable. -/
structure CoreHealth where
  lanes : List (Nat × Nat)
  bays  : List (Nat × Nat)
  corrected : Nat
  uncorrectable : Nat
  deriving DecidableEq, Repr

/-- The eight counters of a core (R383). -/
structure CoreCounters where
  issued : DWord := 0
  ksteps : DWord := 0
  l1miss : DWord := 0
  bank   : DWord := 0
  riser  : DWord := 0
  spurious : DWord := 0
  parks  : DWord := 0
  idle   : DWord := 0
  deriving DecidableEq, Repr

/-- A request for a Caster thread to pre-empt a task or to place a shell (R247, R248, R331). -/
inductive CasterReq where
  | save (place : Nat) (gen : BitVec 6)
  | place (slot : Nat) (launch : Nat)
  deriving DecidableEq, Repr

/-- A core (R8, R17). -/
structure Core where
  tasks   : List (Nat × Task)
  gens    : List (BitVec 6)
  casters : List Caster
  asid    : BitVec 16
  kslot   : Byte
  ptroot  : DWord
  forebase : DWord
  /-- Base of the pinned window in effect: FOREBASE as of the latest entry of a Caster thread (R314). -/
  window  : DWord
  callring : DWord
  sigvec  : DWord
  riser   : List FaultRec
  /-- Records that wait for a free entry, oldest first (R339). -/
  stalled : List FaultRec
  /-- Records popped and not yet resumed. -/
  popped  : List FaultRec
  copies  : List Copy
  crus    : List Crucible
  work    : List CruWork
  subs    : List Sub
  l1      : List L1Line
  /-- Write-backs on their way to their home slices (R161). -/
  wbacks  : List L1Line
  /-- Writes to host memory and host-bias pages not yet completed, by line address (R161 step 4). -/
  hwrites : List Nat
  icache  : List ILine
  bays    : List Nat
  service : Service
  calls   : List (Nat × CallEntry)
  /-- Calls not posted because every entry is taken, in order. -/
  unposted : List (Nat × Nat)
  callNo  : Nat
  sigReq  : Bool
  reqs    : List CasterReq
  startNo : Nat
  /-- Machine checks waiting for their CAUSE 5 start: the sub-kinds, oldest first. -/
  mcheck  : List Byte
  /-- Open cross-lane instances of the Caster group (R384). -/
  insts   : List Instance
  /-- Where round robin goes on: place · 128 + group (R223). -/
  rr      : Nat
  health  : CoreHealth
  count   : CoreCounters
  deriving DecidableEq, Repr

/-! ## Launches (R230 to R248) -/

/-- What a launch is doing (R235, R238, R246). `failed` is a record aborted before its submission, `aborted` one whose
submission and abort are both over (R236; notes/assumptions/10.md). -/
inductive LState where
  | submitted | ready | dispatched | suspended | failed | aborted
  deriving DecidableEq, Repr

/-- A Runner (R242): [lo, hi), its owner (the origin core of the piece), and its number of creation. -/
structure Runner where
  lo    : Nat
  hi    : Nat
  owner : Nat
  made  : Nat
  deriving DecidableEq, Repr

/-- The fields of a launch record the device keeps (R234). -/
structure LaunchRec where
  prio : Nat
  irq  : Bool
  nosplit : Bool
  lid  : Word
  entry : DWord
  x0 : Nat
  y0 : Nat
  logw : Nat
  logh : Nat
  clw : Nat
  clh : Nat
  threads : Nat
  logwid : Nat
  scratch : Nat
  accslots : Nat
  ext : Nat × Nat × Nat
  ts : Nat × Nat × Nat
  order : Nat
  pred : Nat
  nsucc : Nat
  succptr : DWord
  completion : DWord
  nrun : Nat
  runptr : Nat
  nshell : Nat
  shcap : Nat
  shellptr : Nat
  deriving DecidableEq, Repr

/-- A launch known to the device: its record's address, context, queue, and state. -/
structure Launch where
  /-- Its number: `Task.launch` names it by this. -/
  no     : Nat
  pa     : Nat
  va     : DWord
  ctxn   : Nat
  /-- ASID, PTROOT and KSLOT with which the device reads for it (R385). -/
  asid   : BitVec 16
  ptroot : DWord
  kslot  : Byte
  queue  : Option Nat
  desc   : LaunchRec
  state  : LState
  /-- Priority steps gained by age (R238). -/
  age    : Nat
  /-- Order in which it became ready, and in which it was dispatched. -/
  order  : Nat
  runners : List Runner
  /-- Tasks on cores: dispatched or loaded, and neither retired nor saved. -/
  live   : Nat
  /-- Tile indices of the tasks that shells hold: saved, and not loaded since (R236, R319). -/
  saved  : List Nat := []
  /-- Shells placed and not yet loaded: shell slot and core (R248). -/
  shells : List (Nat × Nat)
  frozen : Bool
  deriving DecidableEq, Repr

/-- A pre-emption in progress (R247): the launch, the list of slots, those that hold shells not yet loaded, those
given to starts in their order, and those of them that shells have been written into. -/
structure Preempt where
  launch  : Nat
  slots   : List Nat
  kept    : List Nat
  given   : List Nat
  written : List Nat
  deriving DecidableEq, Repr

/-! ## The fabric (R272 to R281) -/

/-- An entry of a wavelength plan (R278). -/
structure PlanEntry where
  on   : Bool
  band : BitVec 2
  ch   : BitVec 6
  deriving DecidableEq, Repr

/-- A plan: the entries that are ON, by plane · 8 + slot. -/
abbrev Plan := List (Nat × PlanEntry)

/-- A thread parked for allowance (R274): the thread, flits needed of each class, its address. -/
structure Parked where
  thread : ThreadRef
  req    : Nat
  rsp    : Nat
  va     : DWord
  deriving DecidableEq, Repr

/-- One destination of the Sprue (R272, R273). -/
structure Dest where
  unreach : Bool
  held    : Bool
  req     : Nat
  rsp     : Nat
  /-- Request flits sent whose credit has not returned, and responses reserved and not delivered. -/
  reqOut  : Nat
  rspOut  : Nat
  parked  : List Parked
  /-- Threads woken with flits reserved that they have not used yet, in the order in which they woke (R274, R275). -/
  woken   : List Parked
  deriving DecidableEq, Repr

/-- Who waits for a response from a peer. -/
inductive ReqOwner where
  | thread (t : ThreadRef)
  | copy (core id : Nat)
  /-- The `lsub` of a thread, for its core. -/
  | sub (t : ThreadRef)
  /-- The L1 instruction cache of a core: a line of a peer's memory (R140). -/
  | line (core : Nat)
  /-- A thread that waits in `barwait` for the phase of a peer's word (R267). -/
  | wait (t : ThreadRef)
  /-- No one waits for it any more. -/
  | gone
  deriving DecidableEq, Repr

/-- What the Sprue stamps a flit with (R279): the locked lane it goes on, plane · 8 + slot, none while none toward its destination
is locked; the hash lane of its line, and its sequence number there (R168). -/
structure Stamp where
  lane : Option Nat
  hash : Nat
  seq  : Nat
  deriving DecidableEq, Repr

/-- A request sent to a peer device and not answered (R211). -/
structure PeerReq where
  tag   : Nat
  dev   : Nat
  off   : Nat
  owner : ReqOwner
  va    : DWord
  kind  : PendKind
  dst   : Reg
  /-- The lane its flit went on (R279). -/
  lane  : Option Nat
  /-- The issue it belongs to: the lanes of one issue combine into one request (R190). -/
  issue : Nat
  deriving DecidableEq, Repr

/-- Sequence state of one peer and hash lane (R279): the number of the next flit sent, the number of the next flit to deliver,
and the flits that have arrived and wait for their turn. -/
structure LaneSeq where
  dev  : Nat
  lane : Nat
  sent : Nat
  next : Nat
  held : List (Nat × FlitBody)
  deriving DecidableEq, Repr

/-- A commit in progress (R280): the staged entries, the affected destinations, and the step it has reached. -/
structure Commit where
  plan     : Plan
  changing : List Nat
  affected : List Nat
  dark     : Bool
  /-- After step 6: the destinations whose own sequence has not passed it, which wait for their step 7 (R371). -/
  late     : Option (List Nat) := none
  /-- Destinations that became UNREACH at step 7. -/
  nunr     : Nat := 0
  deriving DecidableEq, Repr

/-- A collective running on this device (R203). -/
structure Coll where
  desc   : Nat
  descVa : DWord
  cop : Nat
  red : Nat
  ty  : Ty
  rm  : Nat
  root : Nat
  cid  : Word
  mask : DWord
  count : Nat
  inbuf : DWord
  outbuf : DWord
  core : Nat
  user : Bool
  ctx  : Context
  deriving DecidableEq, Repr

/-! ## Pages, keys, tables -/

/-- A flip in progress (R208 to R210): page, to host, by BIASCTL, the Caster thread that waits, lines answered. -/
structure Flip where
  page   : Nat
  toHost : Bool
  byHost : Bool
  waiter : Option (ThreadRef × Reg)
  lines  : NatSet
  deriving DecidableEq, Repr

/-- A key slot (R303): the key, the staged key, the save counter and the outstanding counter values. -/
structure KeySlot where
  slot   : Nat
  key    : Option (BitVec 256)
  staged : Option (BitVec 256)
  ctr    : DWord
  window : List Nat
  /-- The key under which the slot's lines lie in HBM: the one it held last (R300). -/
  last   : Option (BitVec 256)
  /-- For each `kclr`, the counter it found and the key it erased (R324). -/
  past   : List (Nat × BitVec 256) := []
  deriving DecidableEq, Repr

/-- A TLB entry (R154): page number and level, ASID unless G, and the leaf. -/
structure TlbEntry where
  core  : Nat
  asid  : BitVec 16
  ptroot : DWord
  vpn   : Nat
  level : Nat
  pte   : DWord
  /-- The physical page the leaf maps, after the mode's conversion. -/
  page  : Target
  deriving DecidableEq, Repr

/-- An invalidation queued at the shoot-down registers (R296). -/
structure Shoot where
  /-- Identity 1 of the interrupt file: every translation of direct mode that is not G (R298). -/
  direct : Bool
  tlbk : BitVec 2
  asid : BitVec 16
  va   : DWord
  deriving DecidableEq, Repr

/-- A health event (R364). -/
structure HealthEvent where
  kind : Nat
  arg  : Nat
  deriving DecidableEq, Repr

/-- A message the device sends to the host, to management or to a peer. -/
inductive OutMsg where
  | hostWrite (addr : DWord) (data : DWord) (bytes : Nat)
  | hostReadData (off : Nat) (data : List Byte) (poisoned : Bool)
  | snoopData (pa : Nat) (data : List Byte)
  | backInvalidate (page line : Nat)
  /-- A read of `size` bytes, a write, or the operations of an atomic. -/
  | peerRequest (tag dev off : Nat) (bytes : List Byte) (write : Bool) (ops : List Rmw) (size : Nat) (marks : BitVec 4)
      (flit : Stamp)
  /-- A barrier operation on a word of a peer (R266); none for `barwait`, with its phase. -/
  | peerBarrier (tag dev off : Nat) (op : Option BarOp) (phase : Bool) (flit : Stamp)
  | peerResponse (dev : Nat) (answer : PeerAnswer) (flit : Stamp)
  | push (dev pa : Nat) (line : List Byte)
  | drainMarker (lane : Nat)
  | flitResent (lane : Nat)
  | relockReport (locked : List LaneRep)
  | collective (cid : Word) (bytes : List Byte) (poisoned : List Nat)
  | collectiveFailed (cid : Word) (fcode : Byte)
  | mctp (bytes : List Byte)
  /-- A report over MCTP: the value of BOOTSTAT (R309, R356, R375). -/
  | mctpReport (bootstat : DWord)
  | vendorReply (item : VendorItem) (values : List Nat)
  | tdo (value : Word)
  | beacon (tick : DWord)
  deriving DecidableEq, Repr

/-- The test access port (R377). -/
inductive TapInstr where
  | bypass | idcode | sample | extest
  deriving DecidableEq, Repr

/-- The rails of R374: down; up in the order of the table; up in another order, so that the package does not leave reset. -/
inductive Rails where
  | down | up | broken
  deriving DecidableEq, Repr

/-- The registers of the device at its MMIO window that hold a value (R153, R208, R246, R296, R299, R350, R351,
R364, R379, R382): raw words as last written, with the fields the device keeps elsewhere. -/
structure DevRegs where
  biasctl : DWord := 0
  biasErr : Bool := false
  biasSeq : Word := 0
  pslotctl : DWord := 0
  pslotErr : Bool := false
  pslotSeq : Word := 0
  evictctl : DWord := 0
  evictErr : Bool := false
  lpreempt : DWord := 0
  lpErr  : Bool := false
  lpDone : Bool := false
  sdva  : DWord := 0
  sdcmd : DWord := 0
  sdDone : Word := 0
  sdPosted : Word := 0
  sdack : DWord := 0
  mcSub : Byte := 0
  mcCore : BitVec 16 := 0
  mcCount : BitVec 16 := 0
  mcValid : Bool := false
  mcmsg : DWord := 0
  hmsg  : DWord := 0
  devNo : BitVec 6 := 0
  aperbase : BitVec 12 := 0
  devLock : Bool := false
  casterld : DWord := 0
  cntctl : DWord := 10
  cntNext : Option DWord := none
  prod : Word := 0
  cons : Word := 0
  deriving DecidableEq, Repr

/-- Device counters (R383). -/
structure DevCounters where
  hbmRead : DWord := 0
  hbmWrite : DWord := 0
  l2miss : DWord := 0
  hostIn : DWord := 0
  hostOut : DWord := 0
  corrected : DWord := 0
  uncorrectable : DWord := 0
  /-- Request flits sent and flits received, for the peers that differ from 0. -/
  sent : List (Nat × Nat) := []
  received : List (Nat × Nat) := []
  deriving DecidableEq, Repr

/-- A counter record on its way to its place in the ring (R382). -/
structure CounterRec where
  pa    : Nat
  bytes : List Byte
  deriving DecidableEq, Repr

/-- Health of the device (R314, R357, R360 to R363). -/
structure DevHealth where
  rr : Bool := false
  pages : List (Nat × Nat) := []
  /-- Pages with an uncorrectable error counted. -/
  pagesBad : List (Nat × Nat) := []
  pendingPages : NatSet := []
  retired : NatSet := []
  channels : List (Nat × Nat) := []
  lanes : List (Nat × Nat) := []
  /-- Resends of the current flit by lane (R352). -/
  resends : List (Nat × Nat) := []
  lanesDown : NatSet := []
  tagFails : Nat := 0
  events : List HealthEvent := []
  lost : Nat := 0
  failed : Bool := false
  deriving DecidableEq, Repr

/-- The health record of the firmware store (R361): bays, cores, lanes out, pages retired. -/
structure HealthRecord where
  bays  : List (Nat × Nat) := []
  cores : NatSet := []
  lanes : NatSet := []
  pages : NatSet := []
  deriving DecidableEq, Repr

/-- A request of the host that is held for a page in a change (R210, R299). -/
inductive HostReq where
  | read (off size : Nat)
  | write (off : Nat) (bytes : List Byte)
  /-- A doorbell of a queue that the device cannot serve yet. -/
  | bell (queue : Nat)
  deriving DecidableEq, Repr

/-- A write that may wake a waiter at `waitaddr` (R270): of a line at its home, or a snoop of it; by a store of the core's
own threads; of a granule; a push of a peer's line. -/
inductive Touch where
  | line (la : Nat)
  | own (core la : Nat)
  | granule (core place g : Nat)
  | push (core pa : Nat)
  deriving DecidableEq, Repr

/-- What the schedule oracle names next: the issue of a thread, with the other threads of its subset (R221),
or an event. -/
inductive Turn where
  | issue (t : ThreadRef)
  | event (e : Instr)
  deriving DecidableEq, Repr

/-! ## The machine -/

/-- The state of the machine. -/
structure State where
  part   : Part
  cores  : List Core
  mem    : Memory
  /-- Poisoned 16-byte units of HBM and host memory, by address / 16. -/
  mpois  : NatSet
  hostBias : NatSet
  flips  : List Flip
  /-- Requests of the host held for a page, in the order in which they came. -/
  hostWaits : List HostReq
  /-- Model only: an access of the device for a launch met a page that flips to device bias, so the event that made it is
  held (R210). -/
  devWaits : Bool := false
  /-- Page slots that are not 0. -/
  pslots : List (Nat × Byte)
  /-- A page-slot change in progress. -/
  pslotBusy : Option (Nat × Byte)
  marked : NatSet
  /-- A mark that waits for its hold count. -/
  evicting : Option Nat
  keys   : List KeySlot
  /-- Lines of key slots that lie in HBM under another key than their slot holds, with that key: their tags do not match
  (R300). -/
  lineKeys : List (Nat × BitVec 256) := []
  ctxTable : Memory
  queueTable : Memory
  launches : List Launch
  launchNo : Nat
  preempt : Option Preempt
  dests  : List Dest
  plan   : Plan
  staged : Option Plan
  planErr : Bool
  planSeq : Word
  planNunr : Byte
  commit : Option Commit
  /-- Lanes locked at this device's receivers, with their slots, and those peers report locked from it (R277, R280). -/
  lockedIn : List (LaneRep × Nat)
  lockedOut : List LaneRep
  reqs   : List PeerReq
  reqNo  : Nat
  /-- Peers that wait at a barrier word of this device: device and offset (R267). -/
  barPeers : List (Nat × Nat)
  /-- Peers that have fetched a whole line of this device, and to which its home pushes it: device and line (R169). -/
  peerSubs : List (Nat × Nat) := []
  seqs   : List LaneSeq
  colls  : List Coll
  tlb    : List TlbEntry
  shoots : List Shoot
  regs   : DevRegs
  health : DevHealth
  record : HealthRecord
  thresholds : Thresholds
  count  : DevCounters
  stage  : Nat
  failCode : Nat
  therm  : Bool
  cycle  : DWord
  /-- The AC step in MHz (R375). -/
  mhz    : Nat
  mhzChanged : Bool
  tick   : DWord
  cntLost : Word
  rails  : Rails
  tap    : TapInstr
  extest : Bool
  /-- The firmware image in the store, and whether it verifies; the image booted (R308, R309, R378). -/
  firmware : Nat
  firmwareOk : Bool
  booted : Nat
  resetNo : Nat
  /-- The Caster image as measured in stage 7, from its first byte on (R308 measurement 3). -/
  image : Memory
  /-- Counter records not written yet, oldest first: a change of one of their pages holds them (R209, R382). -/
  records : List CounterRec := []
  /-- HDM range base the host programmed (R152). -/
  hdmBase : Nat
  outbox : List OutMsg
  /-- Writes since a step at which a thread waited on what they touched (R270). -/
  touched : List Touch
  agenda : List Turn
  issuer : ThreadRef
  issueNo : Nat
  /-- The model's own counter behind the free values. -/
  free   : Nat
  deriving DecidableEq, Repr

/-! ## Stops -/

/-- Why a step stops the machine: it never does, so the type has no constructor. -/
inductive Fault where
  deriving DecidableEq, Repr

/-- Why an instruction has no meaning. Safe: the machine does not go on. -/
inductive Refusal where
  /-- Raised by an arm of `exec` whose instruction has no meaning yet, by its mnemonic. Safe. -/
  | notModelled (mnemonic : String)
  deriving DecidableEq, Repr

/-! ## Reset -/

/-- The registers at creation: 0x7FA0_0000 | n in vn (R15). -/
def markers : Vector Word 64 :=
  ⟨⟨(List.range 64).map fun n => BitVec.ofNat 32 (0x7FA00000 + n)⟩, by simp⟩

/-- A thread at creation (R15), with entry `pc`. -/
def Thread.create (pc : DWord) : Thread where
  pc := pc
  regs := markers
  full := BitVec.allOnes 64
  poison := 0
  preds := 0
  fpctl := 0x00000100
  state := .runnable

/-- An idle Caster thread: the spec gives its registers no value before its first start
(notes/assumptions/3.md). -/
def Caster.reset : Caster where
  thr := { Thread.create 0 with state := .idle }
  cause := 0
  arg := 0
  start := 0
  saved := false
  call := none

/-- A Crucible no thread has claimed (R107). -/
def Crucible.reset : Crucible where
  holder := none
  chain := none
  last := none
  active := []
  shadow := []
  apois := []
  spois := []
  jobs := []
  waiters := []

/-- A core right after reset. -/
def Core.reset (p : Part) : Core where
  tasks := []
  gens := List.replicate 32 0
  casters := List.replicate 8 Caster.reset
  asid := 0
  kslot := 0
  ptroot := 0
  forebase := 0
  window := 0
  callring := 0
  sigvec := 0
  riser := []
  stalled := []
  popped := []
  copies := []
  crus := List.replicate p.crucibles Crucible.reset
  work := []
  subs := []
  l1 := []
  wbacks := []
  hwrites := []
  icache := []
  bays := List.range p.bays
  service := .running
  calls := []
  unposted := []
  callNo := 0
  sigReq := false
  reqs := []
  startNo := 0
  mcheck := []
  insts := []
  rr := 0
  health := { lanes := [], bays := [], corrected := 0, uncorrectable := 0 }
  count := {}

/-- A destination before the default plan is committed (R273). -/
def Dest.reset : Dest where
  unreach := true
  held := false
  req := 0
  rsp := 0
  reqOut := 0
  rspOut := 0
  parked := []
  woken := []

/-- A part right after reset, before the boot stages of R378, with what survives a reset. -/
def State.resetOf (p : Part) (record : HealthRecord) (firmware resetNo : Nat) : State where
  part := p
  cores := List.replicate p.cores (Core.reset p)
  mem := []
  mpois := []
  hostBias := []
  flips := []
  hostWaits := []
  pslots := []
  pslotBusy := none
  marked := []
  evicting := none
  keys := []
  ctxTable := []
  queueTable := []
  launches := []
  launchNo := 0
  preempt := none
  dests := List.replicate 64 Dest.reset
  plan := []
  staged := none
  planErr := false
  planSeq := 0
  planNunr := 0
  commit := none
  lockedIn := []
  lockedOut := []
  reqs := []
  reqNo := 0
  barPeers := []
  seqs := []
  colls := []
  tlb := []
  shoots := []
  regs := {}
  health := {}
  record := record
  thresholds := {}
  count := {}
  stage := 0
  failCode := 0
  therm := false
  cycle := 0
  mhz := 800
  mhzChanged := false
  tick := 0
  cntLost := 0
  rails := .up
  tap := .idcode
  extest := false
  firmware := firmware
  firmwareOk := true
  booted := firmware
  resetNo := resetNo
  image := []
  hdmBase := 0
  outbox := []
  touched := []
  agenda := []
  issuer := { core := 0, who := .caster 0 }
  issueNo := 0
  free := 0

/-- The machine right after reset: a TK-880 (notes/assumptions/1.md). -/
def State.reset : State := State.resetOf .tk880 {} 0 0

end Sys2Proof.Machine
end

