-- ==== Sys2Proof/Machine/Memory.lean ====
section
/-!
DEFINITION. Sparse stores: bytes by address, sets of numbers, and keyed lists, each in one canonical form; and
little-endian words over them (spec/00_scope.md conventions; byte order is decided here, once).
-/

namespace Sys2Proof.Machine

/-! ## Sets of numbers -/

/-- Membership; the list rises, so the search stops early. -/
def NatSet.has (s : NatSet) (x : Nat) : Bool := s.contains x

/-- Insertion in order. -/
def NatSet.add : NatSet → Nat → NatSet
  | [], x => [x]
  | y :: s, x => if x < y then x :: y :: s else if x = y then y :: s else y :: NatSet.add s x

def NatSet.del (s : NatSet) (x : Nat) : NatSet := s.filter (· != x)

/-- Every element from `a` up to and without `a + n`. -/
def NatSet.addRange (s : NatSet) (a : Nat) : Nat → NatSet
  | 0 => s
  | n + 1 => NatSet.add (NatSet.addRange s a n) (a + n)

def NatSet.delRange (s : NatSet) (a n : Nat) : NatSet := s.filter fun x => x < a || a + n ≤ x

/-! ## Keyed lists -/

/-- The value at a key. -/
def lookup {α : Type} (l : List (Nat × α)) (k : Nat) : Option α := (l.find? fun p => p.1 == k).map Prod.snd

/-- The list with the value at a key set, keys rising. -/
def insertKey {α : Type} : List (Nat × α) → Nat → α → List (Nat × α)
  | [], k, v => [(k, v)]
  | (j, w) :: l, k, v =>
    if k < j then (k, v) :: (j, w) :: l else if k = j then (k, v) :: l else (j, w) :: insertKey l k v

def eraseKey {α : Type} (l : List (Nat × α)) (k : Nat) : List (Nat × α) := l.filter fun p => p.1 != k

/-- The count at a key of a list of counts. -/
def countAt (l : List (Nat × Nat)) (k : Nat) : Nat := (lookup l k).getD 0

/-- A list of counts with one raised. -/
def bump (l : List (Nat × Nat)) (k : Nat) (n : Nat := 1) : List (Nat × Nat) := insertKey l k (countAt l k + n)

/-- A list with the element at a position replaced by its image. -/
def modifyAt {α : Type} (l : List α) (i : Nat) (f : α → α) : List α := l.modify i f

/-! ## Bytes -/

/-- The byte at an address; an unlisted address reads 0. -/
def Memory.get : Memory → Nat → Byte
  | [], _ => 0
  | (a, b) :: m, x => if x = a then b else if x < a then 0 else Memory.get m x

/-- The memory with one byte written; a 0 is not listed. -/
def Memory.set : Memory → Nat → Byte → Memory
  | [], x, v => if v = 0 then [] else [(x, v)]
  | (a, b) :: m, x, v =>
    if x < a then (if v = 0 then (a, b) :: m else (x, v) :: (a, b) :: m)
    else if x = a then (if v = 0 then m else (x, v) :: m)
    else (a, b) :: Memory.set m x v

/-- `n` bytes from an address. -/
def Memory.read (m : Memory) (a n : Nat) : List Byte := (List.range n).map fun i => m.get (a + i)

/-- Bytes written from an address on. -/
def Memory.write (m : Memory) (a : Nat) : List Byte → Memory
  | [] => m
  | b :: bs => Memory.write (m.set a b) (a + 1) bs

/-- Bytes written from an address on, where a byte is given. -/
def Memory.writeSome (m : Memory) (a : Nat) : List (Option Byte) → Memory
  | [] => m
  | none :: bs => Memory.writeSome m (a + 1) bs
  | some b :: bs => Memory.writeSome (m.set a b) (a + 1) bs

/-- The addresses from `a` to `a + n` read zero. -/
def Memory.clear (m : Memory) (a n : Nat) : Memory := m.filter fun c => c.1 < a || a + n ≤ c.1

/-- The canonical form: addresses rise from `lo` on, and no entry is 0. -/
def Memory.wfFrom : Nat → Memory → Bool
  | _, [] => true
  | lo, (a, b) :: m => decide (lo ≤ a) && b != 0 && Memory.wfFrom (a + 1) m

def Memory.wf (m : Memory) : Bool := Memory.wfFrom 0 m

/-! ## Little-endian words -/

/-- The number whose little-endian bytes are given. -/
def leNat : List Byte → Nat
  | [] => 0
  | b :: bs => b.toNat + 256 * leNat bs

/-- The `n` little-endian bytes of a number. -/
def leBytes : Nat → Nat → List Byte
  | 0, _ => []
  | n + 1, x => BitVec.ofNat 8 x :: leBytes n (x / 256)

/-- The word of `n` bytes at an address. -/
def Memory.nat (m : Memory) (a n : Nat) : Nat := leNat (m.read a n)

/-- The number whose big-endian bytes are given. -/
def beNat (l : List Byte) : Nat := leNat l.reverse

/-- The `n` big-endian bytes of a number. -/
def beBytes (n x : Nat) : List Byte := (leBytes n x).reverse

/-- Bits [lo + n - 1 : lo] of a number. -/
def bits (x lo n : Nat) : Nat := (x / 2 ^ lo) % 2 ^ n

/-- Bytes in chunks of `n`. -/
def chunks {α : Type} (n : Nat) : Nat → List α → List (List α)
  | 0, _ => []
  | k + 1, l => l.take n :: chunks n k (l.drop n)

end Sys2Proof.Machine
end

