-- ==== Sys2Proof/Machine/Crypto.lean ====
section
/-!
DEFINITION. The cryptographic functions the manual names: SHA-512 (FIPS 180-4), HMAC and the counter-mode key
derivation of NIST SP 800-108, AES-256 with GCM, XTS and CMAC (spec/19_contexts_translation.md R300, R302, R307;
spec/11_ladle_host_fabric.md R196), and the CRC-32C of tile images (spec/04_numbers.md R80).
-/

namespace Sys2Proof.Machine

/-! ## SHA-512 -/

/-- The 80 round constants of FIPS 180-4. -/
def shaK : List (BitVec 64) :=
  [0x428A2F98D728AE22, 0x7137449123EF65CD, 0xB5C0FBCFEC4D3B2F, 0xE9B5DBA58189DBBC,
    0x3956C25BF348B538, 0x59F111F1B605D019, 0x923F82A4AF194F9B, 0xAB1C5ED5DA6D8118,
    0xD807AA98A3030242, 0x12835B0145706FBE, 0x243185BE4EE4B28C, 0x550C7DC3D5FFB4E2,
    0x72BE5D74F27B896F, 0x80DEB1FE3B1696B1, 0x9BDC06A725C71235, 0xC19BF174CF692694,
    0xE49B69C19EF14AD2, 0xEFBE4786384F25E3, 0x0FC19DC68B8CD5B5, 0x240CA1CC77AC9C65,
    0x2DE92C6F592B0275, 0x4A7484AA6EA6E483, 0x5CB0A9DCBD41FBD4, 0x76F988DA831153B5,
    0x983E5152EE66DFAB, 0xA831C66D2DB43210, 0xB00327C898FB213F, 0xBF597FC7BEEF0EE4,
    0xC6E00BF33DA88FC2, 0xD5A79147930AA725, 0x06CA6351E003826F, 0x142929670A0E6E70,
    0x27B70A8546D22FFC, 0x2E1B21385C26C926, 0x4D2C6DFC5AC42AED, 0x53380D139D95B3DF,
    0x650A73548BAF63DE, 0x766A0ABB3C77B2A8, 0x81C2C92E47EDAEE6, 0x92722C851482353B] ++
  [0xA2BFE8A14CF10364, 0xA81A664BBC423001, 0xC24B8B70D0F89791, 0xC76C51A30654BE30,
    0xD192E819D6EF5218, 0xD69906245565A910, 0xF40E35855771202A, 0x106AA07032BBD1B8,
    0x19A4C116B8D2D0C8, 0x1E376C085141AB53, 0x2748774CDF8EEB99, 0x34B0BCB5E19B48A8,
    0x391C0CB3C5C95A63, 0x4ED8AA4AE3418ACB, 0x5B9CCA4F7763E373, 0x682E6FF3D6B2B8A3,
    0x748F82EE5DEFB2FC, 0x78A5636F43172F60, 0x84C87814A1F0AB72, 0x8CC702081A6439EC,
    0x90BEFFFA23631E28, 0xA4506CEBDE82BDE9, 0xBEF9A3F7B2C67915, 0xC67178F2E372532B,
    0xCA273ECEEA26619C, 0xD186B8C721C0C207, 0xEADA7DD6CDE0EB1E, 0xF57D4F7FEE6ED178,
    0x06F067AA72176FBA, 0x0A637DC5A2C898A6, 0x113F9804BEF90DAE, 0x1B710B35131C471B,
    0x28DB77F523047D84, 0x32CAAB7B40C72493, 0x3C9EBE0A15C9BEBC, 0x431D67C49C100D4C,
    0x4CC5D4BECB3E42B6, 0x597F299CFC657E2A, 0x5FCB6FAB3AD6FAEC, 0x6C44198C4A475817]

/-- The initial hash value of FIPS 180-4. -/
def shaInit : List (BitVec 64) :=
  [0x6A09E667F3BCC908, 0xBB67AE8584CAA73B, 0x3C6EF372FE94F82B, 0xA54FF53A5F1D36F1,
    0x510E527FADE682D1, 0x9B05688C2B3E6C1F, 0x1F83D9ABFB41BD6B, 0x5BE0CD19137E2179]

/-- The message schedule: from the last 16 words (newest first) the words to come, newest first. -/
def shaSchedule : Nat → List (BitVec 64) → List (BitVec 64)
  | 0, w => w
  | n + 1, w =>
    let x := w.getD 14 0
    let y := w.getD 1 0
    let s0 := x.rotateRight 1 ^^^ x.rotateRight 8 ^^^ (x >>> 7)
    let s1 := y.rotateRight 19 ^^^ y.rotateRight 61 ^^^ (y >>> 6)
    shaSchedule n ((s1 + w.getD 6 0 + s0 + w.getD 15 0) :: w)

/-- The eight working variables. -/
structure ShaVars where
  a : BitVec 64
  b : BitVec 64
  c : BitVec 64
  d : BitVec 64
  e : BitVec 64
  f : BitVec 64
  g : BitVec 64
  h : BitVec 64

/-- One round. -/
def shaRound (v : ShaVars) (kw : BitVec 64 × BitVec 64) : ShaVars :=
  let s1 := v.e.rotateRight 14 ^^^ v.e.rotateRight 18 ^^^ v.e.rotateRight 41
  let ch := (v.e &&& v.f) ^^^ (~~~v.e &&& v.g)
  let t1 := v.h + s1 + ch + kw.1 + kw.2
  let s0 := v.a.rotateRight 28 ^^^ v.a.rotateRight 34 ^^^ v.a.rotateRight 39
  let maj := (v.a &&& v.b) ^^^ (v.a &&& v.c) ^^^ (v.b &&& v.c)
  { a := t1 + (s0 + maj), b := v.a, c := v.b, d := v.c, e := v.d + t1, f := v.e, g := v.f, h := v.g }

/-- The hash state after one 128-byte block. -/
def shaBlock (h : List (BitVec 64)) (block : List Byte) : List (BitVec 64) :=
  let w0 := (chunks 8 16 block).map fun b => BitVec.ofNat 64 (beNat b)
  let w := (shaSchedule 64 w0.reverse).reverse
  let g (i : Nat) := h.getD i 0
  let v := (shaK.zip w).foldl shaRound
    { a := g 0, b := g 1, c := g 2, d := g 3, e := g 4, f := g 5, g := g 6, h := g 7 }
  [g 0 + v.a, g 1 + v.b, g 2 + v.c, g 3 + v.d, g 4 + v.e, g 5 + v.f, g 6 + v.g, g 7 + v.h]

/-- The padding of a message of `n` bytes. -/
def shaPad (n : Nat) : List Byte :=
  (0x80 : Byte) :: List.replicate ((239 - n % 128) % 128) 0 ++ beBytes 16 (8 * n)

/-- The hash state after whole blocks. -/
def shaState (l : List Byte) : List (BitVec 64) :=
  (chunks 128 (l.length / 128) l).foldl shaBlock shaInit

/-- A hash state as 64 bytes, most significant byte first (R192, R196). -/
def shaBytes (h : List (BitVec 64)) : List Byte := (h.map fun x => beBytes 8 x.toNat).flatten

/-- SHA-512. -/
def sha512 (l : List Byte) : List Byte := shaBytes (shaState (l ++ shaPad l.length))

/-! ## HMAC and key derivation -/

/-- HMAC-SHA-512. -/
def hmac512 (key msg : List Byte) : List Byte :=
  let k := if key.length ≤ 128 then key else sha512 key
  let k := k ++ List.replicate (128 - k.length) 0
  sha512 (k.map (· ^^^ 0x5C) ++ sha512 (k.map (· ^^^ 0x36) ++ msg))

/-- The bytes of an ASCII label. -/
def asciiBytes (s : String) : List Byte := s.toList.map fun c => BitVec.ofNat 8 c.toNat

/-- The derivation of R300: `bitLen` bits from a key, a label and a context. -/
def kdf (key : List Byte) (label : String) (ctx : List Byte) (bitLen : Nat) : List Byte :=
  let block (i : Nat) := hmac512 key (beBytes 4 i ++ asciiBytes label ++ [0] ++ ctx ++ beBytes 4 bitLen)
  ((List.range ((bitLen + 511) / 512)).map fun i => block (i + 1)).flatten.take (bitLen / 8)

/-! ## AES-256 -/

/-- Multiplication by x in the field of AES. -/
def xtime (a : Byte) : Byte := (a <<< 1) ^^^ (if a.msb then 0x1B else 0)

/-- The product of the field of AES: `n` bits of `b` are left. -/
def gmulLoop : Nat → Byte → Byte → Byte → Byte
  | 0, _, _, acc => acc
  | n + 1, a, b, acc => gmulLoop n (xtime a) (b >>> 1) (if b.getLsbD 0 then acc ^^^ a else acc)

def gmul (a b : Byte) : Byte := gmulLoop 8 a b 0

/-- a^254, the inverse of a (0 for 0). -/
def ginv (a : Byte) : Byte :=
  let a2 := gmul a a
  let a3 := gmul a2 a
  let a6 := gmul a3 a3
  let a12 := gmul a6 a6
  let a15 := gmul a12 a3
  let a30 := gmul a15 a15
  let a60 := gmul a30 a30
  let a63 := gmul a60 a3
  let a126 := gmul a63 a63
  let a127 := gmul a126 a
  gmul a127 a127

/-- The S-box. -/
def sbox (a : Byte) : Byte :=
  let i := ginv a
  i ^^^ i.rotateLeft 1 ^^^ i.rotateLeft 2 ^^^ i.rotateLeft 3 ^^^ i.rotateLeft 4 ^^^ 0x63

def xorBytes (a b : List Byte) : List Byte := a.zipWith (· ^^^ ·) b

/-- Round constant i. -/
def rcon : Nat → Byte
  | 0 => 1
  | n + 1 => xtime (rcon n)

/-- The words of the AES-256 key schedule, newest first: `i` counts those made. -/
def aesExpand : Nat → Nat → List (List Byte) → List (List Byte)
  | 0, _, w => w
  | n + 1, i, w =>
    let t := w.getD 0 []
    let t := if i % 8 = 0 then
        xorBytes ((t.drop 1 ++ t.take 1).map sbox) [rcon (i / 8 - 1), 0, 0, 0]
      else if i % 8 = 4 then t.map sbox else t
    aesExpand n (i + 1) (xorBytes (w.getD 7 []) t :: w)

/-- The 15 round keys of a 32-byte key. -/
def aesKeys (key : List Byte) : List (List Byte) :=
  (chunks 4 15 (aesExpand 52 8 (chunks 4 8 key).reverse).reverse).map List.flatten

/-- ShiftRows on 16 bytes in column order. -/
def shiftRows (s : List Byte) : List Byte :=
  (List.range 16).map fun i => s.getD ((i + 4 * (i % 4)) % 16) 0

/-- MixColumns on one column. -/
def mixColumn (c : List Byte) : List Byte :=
  let g (i : Nat) := c.getD (i % 4) 0
  (List.range 4).map fun i => xtime (g i) ^^^ (xtime (g (i + 1)) ^^^ g (i + 1)) ^^^ g (i + 2) ^^^ g (i + 3)

def mixColumns (s : List Byte) : List Byte := ((chunks 4 4 s).map mixColumn).flatten

/-- AES-256 of one block. -/
def aesBlock (keys : List (List Byte)) (block : List Byte) : List Byte :=
  let s := xorBytes block (keys.getD 0 [])
  let s := (List.range 13).foldl
    (fun s i => xorBytes (mixColumns (shiftRows (s.map sbox))) (keys.getD (i + 1) [])) s
  xorBytes (shiftRows (s.map sbox)) (keys.getD 14 [])

def aes256 (key block : List Byte) : List Byte := aesBlock (aesKeys key) block

/-! ## GCM -/

/-- The product of GHASH, on numbers whose most significant bit is the first bit: `n` bits of `x` are left. -/
def ghashMulLoop : Nat → BitVec 128 → BitVec 128 → BitVec 128 → BitVec 128
  | 0, _, _, z => z
  | n + 1, x, v, z =>
    ghashMulLoop n (x <<< 1) ((v >>> 1) ^^^ (if v.getLsbD 0 then 0xE1000000000000000000000000000000 else 0))
      (if x.msb then z ^^^ v else z)

def ghashMul (x y : BitVec 128) : BitVec 128 := ghashMulLoop 128 x y 0

/-- Bytes padded with zeros to whole blocks of 16. -/
def pad16 (l : List Byte) : List Byte := l ++ List.replicate ((16 - l.length % 16) % 16) 0

def ghash (h : BitVec 128) (l : List Byte) : BitVec 128 :=
  (chunks 16 (l.length / 16) l).foldl (fun y b => ghashMul (y ^^^ BitVec.ofNat 128 (beNat b)) h) 0

/-- The key stream blocks of GCM from counter 2 on. -/
def gcmStream (keys : List (List Byte)) (iv : List Byte) (n : Nat) : List Byte :=
  ((List.range n).map fun i => aesBlock keys (iv ++ beBytes 4 (i + 2))).flatten

/-- AES-256-GCM with a 96-bit IV: the text encrypted or decrypted. -/
def gcmCrypt (key iv text : List Byte) : List Byte :=
  xorBytes text (gcmStream (aesKeys key) iv ((text.length + 15) / 16))

/-- The tag over additional data and ciphertext. -/
def gcmTag (key iv aad cipher : List Byte) : List Byte :=
  let keys := aesKeys key
  let h : BitVec 128 := BitVec.ofNat 128 (beNat (aesBlock keys (List.replicate 16 0)))
  let s := ghash h (pad16 aad ++ pad16 cipher ++ beBytes 8 (8 * aad.length) ++ beBytes 8 (8 * cipher.length))
  xorBytes (beBytes 16 s.toNat) (aesBlock keys (iv ++ beBytes 4 1))

/-! ## XTS and CMAC (protected lines, R300) -/

/-- A tweak times x, on a little-endian number. -/
def xtsDouble (t : BitVec 128) : BitVec 128 := (t <<< 1) ^^^ (if t.msb then 0x87 else 0)

/-- The tweaked blocks of a line, from tweak `t` on. -/
def xtsBlocks (keys : List (List Byte)) : List (List Byte) → BitVec 128 → List Byte
  | [], _ => []
  | b :: bs, t =>
    let tb := leBytes 16 t.toNat
    xorBytes (aesBlock keys (xorBytes b tb)) tb ++ xtsBlocks keys bs (xtsDouble t)

/-- AES-256-XTS of a 64-byte line: data key, tweak key, and the tweak number. -/
def xtsLine (kd kt : List Byte) (tweak : Nat) (line : List Byte) : List Byte :=
  let t := aes256 kt (leBytes 16 tweak)
  xtsBlocks (aesKeys kd) (chunks 16 4 line) (BitVec.ofNat 128 (leNat t))

/-- A subkey of CMAC from the one before. -/
def cmacDouble (l : BitVec 128) : BitVec 128 := (l <<< 1) ^^^ (if l.msb then 0x87 else 0)

/-- AES-256-CMAC. -/
def cmac (key msg : List Byte) : List Byte :=
  let keys := aesKeys key
  let k1 := cmacDouble (BitVec.ofNat 128 (beNat (aesBlock keys (List.replicate 16 0))))
  let k2 := cmacDouble k1
  let n := (msg.length + 15) / 16
  let whole := n != 0 && msg.length % 16 == 0
  let m := if n = 0 then 1 else n
  let last := msg.drop (16 * (m - 1))
  let last := if whole then xorBytes last (beBytes 16 k1.toNat)
    else xorBytes (last ++ [0x80] ++ List.replicate (15 - last.length) 0) (beBytes 16 k2.toNat)
  let x := (chunks 16 (m - 1) msg).foldl (fun x b => aesBlock keys (xorBytes x b)) (List.replicate 16 0)
  aesBlock keys (xorBytes x last)

/-! ## CRC-32C (R80) -/

/-- One bit of the reflected division: `n` are left. -/
def crcBits : Nat → Word → Word
  | 0, c => c
  | n + 1, c => crcBits n ((c >>> 1) ^^^ (if c.getLsbD 0 then 0x82F63B78 else 0))

/-- CRC-32C. -/
def crc32c (l : List Byte) : Word :=
  (l.foldl (fun c b => crcBits 8 (c ^^^ b.zeroExtend 32)) 0xFFFFFFFF) ^^^ 0xFFFFFFFF

end Sys2Proof.Machine
end

