-- ==== Sys2Proof/WellFormed.lean ====
section
/-!
DEFINITION. Which instructions are well formed, that is, have an encoding: the type and operand limits of
each root (ILLEGAL sub-kind 0x03), the register limits of R30 (sub-kind 0x04), and the width of an immediate
(R33).  Events have no encoding and are never well formed.
-/

namespace Sys2Proof

/-! ## Types -/

/-- A type whose values occupy a register pair (R30, R63). -/
def Ty.is64 : Ty → Bool
  | .i64 | .n64 => true
  | _ => false

/-- The eight integer types (R63). -/
def Ty.isInt : Ty → Bool
  | .i32 | .n32 | .i64 | .n64 | .i16 | .n16 | .i8 | .n8 => true
  | _ => false

/-- The integer types of 32 and 64 bits. -/
def Ty.isWideInt : Ty → Bool
  | .i32 | .n32 | .i64 | .n64 => true
  | _ => false

/-- The signed integer types (R63). -/
def Ty.isSigned : Ty → Bool
  | .i32 | .i64 | .i16 | .i8 => true
  | _ => false

/-- The types of the bitwise and shift roots (R86 to R89). -/
def Ty.isBits : Ty → Bool
  | .b32 | .i32 | .n32 | .i64 | .n64 => true
  | _ => false

/-- The types of the move roots (R91, R92, R259). -/
def Ty.isMove : Ty → Bool
  | .b32 | .i32 | .n32 | .f32 | .i64 | .n64 => true
  | _ => false

/-- The scalar IEEE types (R60). -/
def Ty.isFloat : Ty → Bool
  | .f32 | .f16 | .bf16 => true
  | _ => false

/-- The packed types (R60). -/
def Ty.isPacked : Ty → Bool
  | .f16x2 | .bf16x2 => true
  | _ => false

/-- The tapered types (R64, R65). -/
def Ty.isTa : Ty → Bool
  | .ta8 | .ta6 => true
  | _ => false

/-- The types of the float roots that allow packed forms (R94). -/
def Ty.isFloatP (t : Ty) : Bool := t.isFloat || t.isPacked

/-- The non-packed types of `cvt` (R75). -/
def Ty.isScalarNum (t : Ty) : Bool := t.isInt || t.isFloat || t.isTa

/-- The type pairs of `cvt` (R75). -/
def Ty.cvtOk (d s : Ty) : Bool :=
  (d.isScalarNum && s.isScalarNum) || (d.isPacked && s.isPacked)

/-- How many low bits of IMM a type uses when IMM supplies source B (R33). -/
def Ty.immBits : Ty → Nat
  | .i16 | .n16 | .f16 | .bf16 => 16
  | .i8 | .n8 | .ta8 => 8
  | .ta6 => 6
  | _ => 32

/-- An immediate that fits the type: bits above the type's width are zero (R33). -/
def SrcB.fits (b : SrcB) (t : Ty) : Bool :=
  match b with
  | .reg _ => true
  | .imm x => x.toNat < 2 ^ t.immBits

/-! ## Register limits (R30) -/

/-- The first register of a pair is even. -/
def Reg.even (r : Reg) : Bool := r.toNat % 2 == 0

/-- The first register of a quad is a multiple of 4. -/
def Reg.quad (r : Reg) : Bool := r.toNat % 4 == 0

/-- The register limit of an operand of type `t`. -/
def Reg.fitsTy (r : Reg) (t : Ty) : Bool := !t.is64 || r.even

/-- The register limit of source B of type `t`. -/
def SrcB.fitsTy (b : SrcB) (t : Ty) : Bool :=
  match b with
  | .reg s => s.reg.fitsTy t
  | .imm _ => true

/-- The register limit of a data register of an access (R174). -/
def Reg.fitsSize (r : Reg) (z : Size) : Bool :=
  match z with
  | .b64 => r.even
  | .b128 => r.quad
  | _ => true

/-- The base of a global memory operand is a pair (R174). -/
def MemRef.baseOk (m : MemRef) : Bool :=
  match m.space with
  | .global => m.base.reg.even
  | _ => true

/-- A global operand has no swizzle (R34). -/
def MemRef.swzOk (m : MemRef) : Bool :=
  match m.space with
  | .global => m.swz == 0
  | _ => true

/-! ## Limits of single roots -/

/-- Operation and type of `redux` and `scanx` (R261, R262). -/
def RedOp.tyOk (op : RedOp) (t : Ty) : Bool :=
  match op with
  | .add => t.isWideInt || t.isFloat
  | .min | .max => t.isInt || t.isFloat
  | .and | .or | .xor => t.isBits

/-- A float sum of `redux` or `scanx`: the one case in which RM may be non-zero (R261). -/
def RedOp.rounds (op : RedOp) (t : Ty) : Bool :=
  match op with
  | .add => t.isFloat
  | _ => false

/-- Operation and type of `atom` (R187). -/
def AtomOp.tyOk (op : AtomOp) (t : Ty) : Bool :=
  match op with
  | .add | .min | .max => t.isWideInt || t == .f32
  | .and | .or | .xor => t.isBits
  | .exch => t.isMove

/-- K of a k-step (R36). -/
def KStep.k : KStep → Nat
  | .k16 => 16
  | .k32 => 32
  | .k64 => 64

/-- The tapered formats of the Crucible class. -/
def Fmt.isTa : Fmt → Bool
  | .ta8 | .ta6 => true
  | _ => false

/-- Rows of a plane for a format (R107, R123). -/
def Fmt.planeRows (f : Fmt) : Nat := if f.isTa then 64 else 32

/-- Format, K, image flag and row origin of `mload` and `mstream` (R36, R123). -/
def planeOk (f : Fmt) (k : KStep) (qt : Bool) (pr : BitVec 8) : Bool :=
  (f.isTa || k != .k64) && !(qt && k == .k16) &&
    pr.toNat % k.k == 0 && pr.toNat + k.k ≤ f.planeRows

/-- The scopes of a barrier word by its space (R271). -/
def barScopeOk (sp : Space) (sc : Scope) : Bool :=
  match sp, sc with
  | .own, .task => true
  | .peer, .clu => true
  | .global, .core | .global, .clu | .global, .dev | .global, .dom => true
  | _, _ => false

/-- The scopes of a deque instruction (R271). -/
def dqScopeOk : Scope → Bool
  | .core | .clu | .dev | .dom => true
  | _ => false

/-- The widths that `setw` may request (R258). -/
def setwOk (w : Word) : Bool :=
  w == 8 || w == 16 || w == 32 || w == 64 || w == 128

/-- A 64-bit control register, by number (R256, R314). -/
def cregIs64 (n : BitVec 12) : Bool :=
  n == 0x010 || n == 0x020 || n == 0x022 || n == 0x800 || n == 0x803 || n == 0x804 ||
  n == 0x805 || n == 0x806 || n == 0x807 || n == 0x809 || n == 0x80A || n == 0x80B

/-! ## The three checks -/

namespace Instr

/-- The types, operand values and combinations each root allows: what fails is ILLEGAL 0x03 (R32 to R36, R174,
R123, R271 and the root's own rule). -/
def legal : Instr → Bool
  | .iadd _ ty _ _ _ _ | .isub _ ty _ _ _ _ | .imul _ ty _ _ _ _ | .imad _ ty _ _ _ _ _
  | .idiv _ ty _ _ _ | .irem _ ty _ _ _ | .imin _ ty _ _ _ | .imax _ ty _ _ _
  | .ineg _ ty _ _ _ | .icmp _ _ ty _ _ _ => ty.isInt
  | .imulh _ ty _ _ _ => ty.isWideInt
  | .iabs _ ty _ _ _ => ty.isInt && ty.isSigned
  | .and _ ty _ _ _ | .or _ ty _ _ _ | .xor _ ty _ _ _ | .not _ ty _ _
  | .shl _ ty _ _ _ | .shr _ ty _ _ _ | .sra _ ty _ _ _ | .rot _ ty _ _ _
  | .popc _ ty _ _ | .clz _ ty _ _ | .ctz _ ty _ _ | .brev _ ty _ _
  | .bfx _ ty _ _ _ | .bfi _ ty _ _ _ _ => ty.isBits
  | .sel _ ty _ _ _ _ | .mov _ ty _ _ | .movi _ ty _ _ => ty.isMove
  | .lea _ ty _ _ _ _ _ => ty == .i32 || ty == .n32
  | .fadd _ ty _ _ _ _ _ | .fsub _ ty _ _ _ _ _ | .fmul _ ty _ _ _ _ _ | .fma _ ty _ _ _ _ _ _
  | .fmin _ ty _ _ _ | .fmax _ ty _ _ _ | .fabs _ ty _ _ | .fneg _ ty _ _ => ty.isFloatP
  | .fcmp _ _ ty _ _ _ | .fsqrt _ ty _ _ _ _ | .frcp _ ty _ _ _ _ | .fdiv _ ty _ _ _ _ _
  | .frsq _ ty _ _ _ _ | .fexp2 _ ty _ _ _ _ | .flog2 _ ty _ _ _ _ | .fsinpi _ ty _ _ _ _
  | .fcospi _ ty _ _ _ _ | .fscale _ ty _ _ _ _ _ | .fexpo _ ty _ _ | .fround _ ty _ _ _
  | .froundExact _ ty _ _ _ => ty.isFloat
  | .fclass _ ty _ _ => ty.isFloat || ty.isTa
  | .cvt _ ty sty _ _ _ _ => ty.cvtOk sty
  | .pack _ ty _ _ _ _ _ | .unpack _ ty _ _ => ty.isPacked || ty == .b32
  | .setw _ w => setwOk w
  | .shfl _ _ ty _ _ _ | .bcast _ _ ty _ _ | .matchLanes _ _ ty _ _ => ty.isMove
  | .redux _ op ty _ _ _ => op.tyOk ty
  | .scanx _ op _ ty _ _ _ => op.tyOk ty
  | .ld _ sx size _ _ feq _ m =>
    m.swzOk && (m.space != .global || feq == .plain) && (!sx || size == .b8 || size == .b16)
  | .st _ _ _ _ feq m _ => m.swzOk && (m.space != .global || feq == .plain)
  | .atom _ op ty _ _ _ m _ => op.tyOk ty && m.swzOk
  | .cas _ ty _ _ _ m _ _ => ty.isMove && m.swzOk
  | .red _ op ty _ _ m _ => op != .exch && op.tyOk ty && m.swzOk
  | .barinit _ sc m _ | .arrive _ sc _ m | .barwait _ sc m _ => barScopeOk m.space sc && m.swzOk
  | .dqinit _ sc _ _ _ _ | .dqpush _ sc _ _ _ _ | .dqpop _ sc _ _ _ _ | .dqsteal _ sc _ _ _ _ => dqScopeOk sc
  | .waitaddr _ size acq sc _ m _ _ =>
    (size == .b32 || size == .b64) && (!acq || sc != .thr) && m.swzOk
  | .mload _ f k qt _ _ _ pr | .mstream _ f k qt _ _ _ pr => planeOk f k qt pr
  | .qtile _ f k _ _ _ _ => f.isTa && k != .k16
  | .alwq _ _ _ _ n | .alwwait _ _ _ n => n.toNat ≤ 1024
  | _ => true

/-- The register pairs and quads of R30: what fails is ILLEGAL 0x04. -/
def regsOk : Instr → Bool
  | .iadd _ ty _ d a b | .isub _ ty _ d a b | .imul _ ty _ d a b => d.fitsTy ty && a.reg.fitsTy ty && b.fitsTy ty
  | .imulh _ ty d a b | .idiv _ ty d a b | .irem _ ty d a b | .imin _ ty d a b | .imax _ ty d a b
  | .and _ ty d a b | .or _ ty d a b | .xor _ ty d a b
  | .sel _ ty d a b _ => d.fitsTy ty && a.reg.fitsTy ty && b.fitsTy ty
  | .imad _ ty _ d a b c => d.fitsTy ty && a.reg.fitsTy ty && b.fitsTy ty && c.reg.fitsTy ty
  | .iabs _ ty _ d a | .ineg _ ty _ d a => d.fitsTy ty && a.reg.fitsTy ty
  | .not _ ty d a | .brev _ ty d a | .mov _ ty d a => d.fitsTy ty && a.reg.fitsTy ty
  | .shl _ ty d a _ | .shr _ ty d a _ | .sra _ ty d a _ | .rot _ ty d a _
  | .bfx _ ty d a _ => d.fitsTy ty && a.reg.fitsTy ty
  | .popc _ ty _ a | .clz _ ty _ a | .ctz _ ty _ a => a.reg.fitsTy ty
  | .bfi _ ty d a b _ => d.fitsTy ty && a.reg.fitsTy ty && b.fitsTy ty
  | .icmp _ _ ty _ a b => a.reg.fitsTy ty && b.fitsTy ty
  | .movi _ ty d _ => d.fitsTy ty
  | .lea _ _ _ d a _ _ => d.even && a.reg.even
  | .cvt _ ty sty _ _ d a => d.fitsTy ty && a.reg.fitsTy sty
  | .unpack _ _ d _ => d.even
  | .shfl _ _ ty d a _ | .bcast _ _ ty d a | .redux _ _ ty _ d a | .scanx _ _ _ ty _ d a =>
    d.fitsTy ty && a.reg.fitsTy ty
  | .matchLanes _ _ ty _ a => a.reg.fitsTy ty
  | .ld _ _ size _ _ _ d m => d.fitsSize size && m.baseOk
  | .st _ size _ _ _ m b => b.reg.fitsSize size && m.baseOk
  | .pf _ _ b _ | .cflushWb _ b _ | .cflushInv _ b _ | .cflushMem _ b _ | .lsub _ _ b _ | .lunsub _ b _
  | .coll _ b _ | .collwait _ b _ | .launch _ b _ => b.reg.even
  | .atom _ _ ty _ _ d m b => d.fitsTy ty && b.reg.fitsTy ty && m.baseOk
  | .cas _ ty _ _ d m b c => d.fitsTy ty && b.reg.fitsTy ty && c.reg.fitsTy ty && m.baseOk
  | .red _ _ ty _ _ m b => b.reg.fitsTy ty && m.baseOk
  | .barinit _ _ m _ | .arrive _ _ _ m | .barwait _ _ m _ => m.baseOk
  | .dqinit _ _ base _ b _ | .dqpush _ _ _ base _ b => base.reg.even && b.reg.even
  | .dqpop _ _ d _ base _ | .dqsteal _ _ d _ base _ => base.reg.even && d.even
  | .waitaddr _ size _ _ _ m b _ => b.reg.fitsSize size && m.baseOk
  | .cp _ _ _ _ dsp ssp _ a b _ _ _ => (dsp != .global || a.reg.even) && (ssp != .global || b.reg.even)
  | .brx _ a | .callR _ a => a.reg.even
  | .ctlrd _ d n => !cregIs64 n || d.even
  | .ctlwr _ n a => !cregIs64 n || a.reg.even
  | .tlbinv _ (.asidva a _) | .tlbinv _ (.va a) => a.reg.even
  | .ctxsave _ _ a _ | .riserpop _ _ a | .planset _ _ a => a.reg.even
  | .ctxload _ d a => d.even && a.reg.even
  | .resumeSys _ _ _ b => b.reg.even
  | _ => true

/-- An immediate in the place of source B holds nothing above the width of its type (R33). -/
def immOk : Instr → Bool
  | .iadd _ ty _ _ _ b | .isub _ ty _ _ _ b | .imul _ ty _ _ _ b | .imad _ ty _ _ _ b _ => b.fits ty
  | .imulh _ ty _ _ b | .idiv _ ty _ _ b | .irem _ ty _ _ b | .imin _ ty _ _ b | .imax _ ty _ _ b
  | .and _ ty _ _ b | .or _ ty _ _ b | .xor _ ty _ _ b | .icmp _ _ ty _ _ b | .sel _ ty _ _ b _ => b.fits ty
  | .bfi _ ty _ _ b _ => b.fits ty
  | .fadd _ ty _ _ _ _ b | .fsub _ ty _ _ _ _ b | .fmul _ ty _ _ _ _ b | .fma _ ty _ _ _ _ b _
  | .fdiv _ ty _ _ _ _ b | .fscale _ ty _ _ _ _ b => b.fits ty
  | .fmin _ ty _ _ b | .fmax _ ty _ _ b | .fcmp _ _ ty _ _ b => b.fits ty
  | _ => true

/-- The rounding field is one the form may hold: a form that does not round holds none (R33). -/
def rmOk : Instr → Bool
  | .cvt _ ty sty rm _ _ _ => rm == .dyn || !(ty.isInt && sty.isInt)
  | .pack _ ty rm sat _ _ _ => ty != .b32 || (rm == .dyn && !sat)
  | .redux _ op ty rm _ _ => rm == .dyn || op.rounds ty
  | .scanx _ op _ ty rm _ _ => rm == .dyn || op.rounds ty
  | _ => true

/-- The scope of a relaxed `ld`, `st` or `waitaddr` is not encoded: it holds `.thr` (R174, R271). -/
def scopeOk : Instr → Bool
  | .ld _ _ _ acq sc _ _ _ => acq || sc == .thr
  | .st _ _ rel sc _ _ _ => rel || sc == .thr
  | .waitaddr _ _ acq sc _ _ _ _ => acq || sc == .thr
  | _ => true

/-- The instructions of the table that have an encoding; the rest are events. -/
def isInstruction : Instr → Bool
  | .lineArrival .. | .waitCountPromotion .. | .yieldExpiry .. | .loadDataArrival .. | .storeLeavesQueue ..
  | .atomicAtHome .. | .failureAfterIssue .. | .peerFaultStop .. | .signalDelivery .. | .copyGranuleWrite ..
  | .copyPageTranslate .. | .copyFaultReport .. | .copyComplete .. | .collectiveComplete .. | .collectiveFail ..
  | .kstepComplete .. | .crucibleClaim .. | .crossLaneComplete .. | .joinRelease .. | .waitaddrWake ..
  | .waitaddrTimeout .. | .spuriousWake .. | .subscriptionPush .. | .creditReturn .. | .responseArrival ..
  | .read .. | .write .. | .atomicFetching .. | .atomicNonFetching .. | .floatAtomic .. | .flitReceive ..
  | .flitResend .. | .laneDown .. | .planResponseBound | .relock .. | .relockHandshake .. | .doorbell ..
  | .priorityAging .. | .launchDispatch .. | .taskDispatch .. | .taskRetire .. | .launchPreempt ..
  | .preemptComplete | .casterStart .. | .machineCheck .. | .biasctlToHost .. | .biasctlToDevice ..
  | .biasFlipComplete .. | .hostMemRead .. | .hostMemWrite .. | .hostSnoop .. | .pageSlotChange ..
  | .evictMark .. | .evictUnmark .. | .evictMarkComplete | .shootdownPost .. | .shootdownComplete
  | .imsicInvalidateAll | .imsicProcessQueue | .devcfgWrite .. | .casterldGo .. | .hevtRead | .cntctlWrite ..
  | .registerWrite .. | .counterTick | .timeBeacon .. | .beaconTimeout | .throttleStepDown | .throttleStepUp
  | .thermalTrip | .powerUp .. | .powerDown .. | .deviceReset .. | .firmwareUpdate .. | .keyDelivery ..
  | .spdmRequest .. | .mctpControl .. | .vendorRead .. | .healthRecordClear | .bypass | .idcode
  | .samplePreload | .extest | .correctedError .. | .uncorrectableError .. | .patrolScrub ..
  | .healthCountHalving | .signalRequest .. | .pageSlotChangeComplete | .crucibleInstructionComplete ..
  | .l1LineEviction .. | .writeBackComplete .. | .hostWriteComplete .. | .backInvalidateResponse .. => false
  | _ => true

/-- Well formed: an instruction that passes every check of its encoding. -/
def wf (i : Instr) : Bool :=
  i.isInstruction && i.legal && i.regsOk && i.immOk && i.rmOk && i.scopeOk

end Instr

end Sys2Proof
end

