-- ==== Sys2Proof/Machine/Num.lean ====
section
/-!
DEFINITION. Exact numbers, the formats, and the two helpers through which the manual states every float result,
RoundTo and ExactSum (spec/04_numbers.md R60 to R69, R75 to R77).
-/

namespace Sys2Proof
namespace Machine

/-! ## Exact values -/

/-- An exact value: NaN, ±∞, ±0, or a real of the given sign. With `sticky` the real lies strictly between
m · 2^e and (m + 1) · 2^e, and m has many more bits than any format rounds to. -/
inductive XVal where
  | nan
  | inf (neg : Bool)
  | zero (neg : Bool)
  | fin (neg : Bool) (m : Nat) (e : Int) (sticky : Bool)
  deriving DecidableEq, Repr

/-- The flags an instruction marks, in the order of the FPTRAP sub-kind (R73): NV DZ OF UF NX in bits 4 to 0. -/
abbrev Flags := BitVec 5

def flagNV : Flags := 0b10000
def flagDZ : Flags := 0b01000
def flagOF : Flags := 0b00100
def flagUF : Flags := 0b00010
def flagNX : Flags := 0b00001

/-- The rounding modes (R67). -/
inductive Rm where
  | rne | rtz | rdn | rup | rna
  deriving DecidableEq, Repr

/-- A mode from an FPCTL.RM code; 5 to 7 are illegal (R70). -/
def Rm.ofCode? (c : Nat) : Option Rm :=
  match c with
  | 0 => some .rne | 1 => some .rtz | 2 => some .rdn | 3 => some .rup | 4 => some .rna | _ => none

namespace XVal

/-- A finite value, with zero as itself. -/
def ofDyadic (neg : Bool) (m : Nat) (e : Int) : XVal := if m = 0 then .zero neg else .fin neg m e false

/-- An integer; 0 is +0. -/
def ofInt (x : Int) : XVal := ofDyadic (x < 0) x.natAbs 0

def isNan : XVal → Bool
  | .nan => true
  | _ => false

def isInf : XVal → Bool
  | .inf _ => true
  | _ => false

def isZero : XVal → Bool
  | .zero _ => true
  | _ => false

/-- The sign bit. -/
def sign : XVal → Bool
  | .nan => false
  | .inf n | .zero n | .fin n _ _ _ => n

def neg : XVal → XVal
  | .nan => .nan
  | .inf n => .inf (!n)
  | .zero n => .zero (!n)
  | .fin n m e s => .fin (!n) m e s

/-- The value times 2^k. -/
def scale (x : XVal) (k : Int) : XVal :=
  match x with
  | .fin n m e s => .fin n m (e + k) s
  | x => x

end XVal

/-- ⌊log2 m⌋ of a positive number. -/
def log2Nat (m : Nat) : Nat := m.log2

/-! ## Rounding to a grid -/

/-- Whether a remainder rounds the magnitude up: `cmp` compares it with the half, `odd` is the parity of the lower
neighbour (R67). -/
def roundsUp (rm : Rm) (neg odd inexact : Bool) (cmp : Ordering) : Bool :=
  match rm with
  | .rtz => false
  | .rdn => neg && inexact
  | .rup => !neg && inexact
  | .rne => cmp == .gt || (cmp == .eq && odd)
  | .rna => cmp == .gt || cmp == .eq

/-- |x| = m · 2^e (with sticky) rounded to a multiple of 2^g, in units of 2^g, and whether it changed. -/
def roundAt (rm : Rm) (neg : Bool) (m : Nat) (e : Int) (sticky : Bool) (g : Int) : Nat × Bool :=
  if g ≤ e then (m * 2 ^ (e - g).toNat, sticky)
  else
    let k := (g - e).toNat
    if m.log2 + 2 < k then
      let up := roundsUp rm neg false true .lt
      (if up then 1 else 0, true)
    else
      let q := m / 2 ^ k
      let r := m % 2 ^ k
      let half := 2 ^ (k - 1)
      let inexact := r != 0 || sticky
      let cmp := if r < half then .lt else if r = half && !sticky then .eq else .gt
      (if roundsUp rm neg (q % 2 == 1) inexact cmp then q + 1 else q, inexact)

/-! ## IEEE formats (R60) -/

/-- A binary format: precision p, exponent bias, width. -/
structure FFmt where
  p    : Nat
  bias : Nat
  w    : Nat
  deriving DecidableEq, Repr

def fmtF32 : FFmt := { p := 24, bias := 127, w := 32 }
def fmtF16 : FFmt := { p := 11, bias := 15, w := 16 }
def fmtBf16 : FFmt := { p := 8, bias := 127, w := 16 }

namespace FFmt

/-- Smallest normal exponent. -/
def emin (f : FFmt) : Int := 1 - f.bias

/-- The code of +∞. -/
def infCode (f : FFmt) : Nat := (2 * f.bias + 1) * 2 ^ (f.p - 1)

/-- The code of the largest finite value. -/
def maxCode (f : FFmt) : Nat := f.infCode - 1

/-- The canonical NaN (R60). -/
def nanCode (f : FFmt) : Nat := f.infCode + 2 ^ (f.p - 2)

def signBit (f : FFmt) (neg : Bool) : Nat := if neg then 2 ^ (f.w - 1) else 0

/-- The exact value of an encoding, with NV for a signalling NaN (R61, R69). -/
def val (f : FFmt) (x : Nat) : XVal × Flags :=
  let x := x % 2 ^ f.w
  let neg := x / 2 ^ (f.w - 1) == 1
  let c := x % 2 ^ (f.w - 1)
  let frac := c % 2 ^ (f.p - 1)
  let ex := c / 2 ^ (f.p - 1)
  if f.infCode < c then (.nan, if frac < 2 ^ (f.p - 2) then flagNV else 0)
  else if c = f.infCode then (.inf neg, 0)
  else if c = 0 then (.zero neg, 0)
  else if ex = 0 then (.fin neg frac (f.emin - (f.p - 1)) false, 0)
  else (.fin neg (frac + 2 ^ (f.p - 1)) ((ex : Int) - f.bias - (f.p - 1)) false, 0)

/-- RoundTo for an IEEE format (R68). -/
def round (f : FFmt) (x : XVal) (rm : Rm) (sat : Bool) : Nat × Flags :=
  match x with
  | .nan => (f.nanCode, 0)
  | .inf n => (f.signBit n + (if sat then f.maxCode else f.infCode), 0)
  | .zero n => (f.signBit n, 0)
  | .fin n m e s =>
    let ex : Int := e + m.log2
    let (q, nx) := roundAt rm n m e s (ex - (f.p - 1))
    let ey : Int := if q = 2 ^ f.p then ex + 1 else ex
    if f.bias < ey then
      let big := match rm with
        | .rne | .rna => true
        | .rtz => false
        | .rdn => n
        | .rup => !n
      (f.signBit n + (if sat || !big then f.maxCode else f.infCode), flagOF ||| flagNX)
    else if ey < f.emin then
      let (q, nx) := roundAt rm n m e s (f.emin - (f.p - 1))
      (f.signBit n + q, if nx then flagUF ||| flagNX else 0)
    else
      (f.signBit n + ((ex + f.bias - 1) * 2 ^ (f.p - 1) + q : Int).toNat, if nx then flagNX else 0)

end FFmt

/-! ## Tapered formats (R64, R65) -/

/-- Length of the run of bits equal to `b` from the front. -/
def runLen (b : Bool) : List Bool → Nat
  | [] => 0
  | x :: l => if x = b then 1 + runLen b l else 0

/-- The magnitude field of `n` bits, from its top bit down. -/
def magBits (n c : Nat) : List Bool := (List.range n).map fun i => c.testBit (n - 1 - i)

/-- The value of a magnitude field of `n` bits, as (m, e) with value m · 2^e; (0, 0) for 0 (R64). -/
def taMag (n c : Nat) : Nat × Int :=
  if c = 0 then (0, 0)
  else
    let bs := magBits n c
    let first := bs.headD false
    let k := runLen first bs
    let r : Int := if first then k - 1 else -(k : Int)
    let rest := bs.drop (k + 1)
    let ex : Int := if rest.headD false then 1 else 0
    let fr := rest.drop 1
    let f := fr.foldl (fun a b => 2 * a + b.toNat) 0
    (2 ^ fr.length + f, 2 * r + ex - fr.length)

/-- A tapered format by its width: 8 or 6. -/
structure TFmt where
  w : Nat
  deriving DecidableEq, Repr

def fmtTa8 : TFmt := { w := 8 }
def fmtTa6 : TFmt := { w := 6 }

namespace TFmt

/-- The NaR code. -/
def nar (f : TFmt) : Nat := 2 ^ (f.w - 1)

/-- The code of the largest magnitude. -/
def maxCode (f : TFmt) : Nat := 2 ^ (f.w - 1) - 1

/-- A magnitude in units of 2^-13: every value of a tapered format, and every midpoint of two, is a whole number of
them. -/
def units (f : TFmt) (c : Nat) : Nat :=
  let (m, e) := taMag (f.w - 1) c
  m * 2 ^ (e + 13).toNat

def val (f : TFmt) (x : Nat) : XVal :=
  let x := x % 2 ^ f.w
  if x = f.nar then .nan
  else
    let (m, e) := taMag (f.w - 1) (x % f.nar)
    XVal.ofDyadic (m != 0 && f.nar ≤ x) m e

/-- The largest code whose magnitude is at most `u` units. -/
def below (f : TFmt) (u : Nat) : Nat :=
  (List.range (f.maxCode + 1)).foldl (fun best c => if f.units c ≤ u then c else best) 0

/-- RoundTo for a tapered format (R68). -/
def round (f : TFmt) (x : XVal) (rm : Rm) (sat : Bool) : Nat × Flags :=
  match x with
  | .nan => (f.nar, 0)
  | .inf n => if sat then (f.maxCode + (if n then f.nar else 0), 0) else (f.nar, flagNV)
  | .zero _ => (0, 0)
  | .fin n m e s =>
    let tiny : Bool := e < -13 && m.log2 + 2 < (-13 - e).toNat
    let u := if -13 ≤ e then m * 2 ^ (e + 13).toNat else if tiny then 0 else m / 2 ^ (-13 - e).toNat
    let st := s || (e < -13 && (tiny || m % 2 ^ (-13 - e).toNat != 0))
    let c := f.below u
    let top := c == f.maxCode
    let lo := f.units c
    let inexact := u != lo || st
    let up :=
      if top then false
      else
        let mid := (lo + f.units (c + 1)) / 2
        let cmp := if u < mid then .lt else if u = mid && !st then .eq else .gt
        roundsUp rm n (c % 2 == 1) inexact cmp
    let y := if up then c + 1 else c
    let fl := (if top && inexact then flagOF else 0) ||| (if inexact && c == 0 then flagUF else 0) |||
      (if inexact then flagNX else 0)
    (if y = 0 then 0 else y + (if n then f.nar else 0), fl)

end TFmt

/-! ## Formats by TYPE -/

/-- A float format of a TYPE code. -/
inductive Format where
  | ieee (f : FFmt)
  | ta (f : TFmt)
  deriving DecidableEq, Repr

end Machine

open Machine in
/-- The element format of a float type; f32 stands for the types that hold none. -/
def Ty.format : Ty → Format
  | .f16 | .f16x2 => .ieee fmtF16
  | .bf16 | .bf16x2 => .ieee fmtBf16
  | .ta8 => .ta fmtTa8
  | .ta6 => .ta fmtTa6
  | _ => .ieee fmtF32

open Machine in
/-- The element format of the Crucible class (R36). -/
def Fmt.format : Fmt → Format
  | .bf16 => .ieee fmtBf16
  | .f16 => .ieee fmtF16
  | .ta8 => .ta fmtTa8
  | .ta6 => .ta fmtTa6

namespace Machine

/-- Val (R69). -/
def Format.val (f : Format) (x : Nat) : XVal × Flags :=
  match f with
  | .ieee f => f.val x
  | .ta f => (f.val x, 0)

/-- RoundTo (R68). -/
def Format.round (f : Format) (x : XVal) (rm : Rm) (sat : Bool) : Nat × Flags :=
  match f with
  | .ieee f => f.round x rm sat
  | .ta f => f.round x rm sat

def Format.width : Format → Nat
  | .ieee f => f.w
  | .ta f => f.w

/-! ## ExactSum (R69) -/

/-- The real of a term as an integer in units of 2^g. -/
def XVal.inUnits (x : XVal) (g : Int) : Int :=
  match x with
  | .fin n m e _ =>
    let v : Int := m * 2 ^ (e - g).toNat
    if n then -v else v
  | _ => 0

/-- The smallest exponent among the finite terms. -/
def minExp (t : List XVal) : Int :=
  t.foldl (fun a x => match x with | .fin _ _ e _ => min a e | _ => a) 0

/-- The exact real sum of the finite terms, in units of 2^(minExp t). -/
def sumUnits (t : List XVal) : Int := t.foldl (fun a x => a + x.inUnits (minExp t)) 0

/-- ExactSum (R69). -/
def exactSum (t : List XVal) (rm : Rm) : XVal × Flags :=
  if t.isEmpty then (.zero false, 0)
  else if t.any XVal.isNan then (.nan, 0)
  else if t.contains (.inf false) && t.contains (.inf true) then (.nan, flagNV)
  else if t.contains (.inf false) then (.inf false, 0)
  else if t.contains (.inf true) then (.inf true, 0)
  else
    let s := sumUnits t
    if s ≠ 0 then (XVal.ofDyadic (s < 0) s.natAbs (minExp t), 0)
    else if t.all (· == .zero true) then (.zero true, 0)
    else (.zero (rm == .rdn), 0)

/-- Prod (R95). -/
def prod (a b : XVal) : XVal × Flags :=
  match a, b with
  | .nan, _ | _, .nan => (.nan, 0)
  | .inf _, .zero _ | .zero _, .inf _ => (.nan, flagNV)
  | .inf n, b => (.inf (n != b.sign), 0)
  | a, .inf n => (.inf (n != a.sign), 0)
  | .zero n, b => (.zero (n != b.sign), 0)
  | a, .zero n => (.zero (n != a.sign), 0)
  | .fin n m e _, .fin n' m' e' _ => (.fin (n != n') (m * m') (e + e') false, 0)

/-- A total order of the non-NaN values, −0 below +0 (R96): compares magnitudes exactly. -/
def XVal.rank (x : XVal) (g : Int) : Int :=
  match x with
  | .nan => 0
  | .zero n => if n then -1 else 0
  | .inf _ => 0
  | .fin n m e _ =>
    let v : Int := (m * 2 ^ (e - g).toNat : Nat)
    if n then -v - 1 else v

/-- a < b, with −0 below +0; false when one is NaN. -/
def XVal.lt (a b : XVal) : Bool :=
  match a, b with
  | .nan, _ | _, .nan => false
  | .inf n, .inf n' => n && !n'
  | .inf n, _ => n
  | _, .inf n => !n
  | a, b =>
    let g := min (minExp [a]) (minExp [b])
    decide (a.rank g < b.rank g)

/-- a = b as numbers, with −0 equal to +0; false when one is NaN. -/
def XVal.eqv (a b : XVal) : Bool :=
  match a, b with
  | .nan, _ | _, .nan => false
  | .zero _, .zero _ => true
  | a, b => !a.lt b && !b.lt a

/-! ## Integers -/

end Machine

/-- Width of an integer or float TYPE in bits. -/
def Ty.width : Ty → Nat
  | .i64 | .n64 => 64
  | .i16 | .n16 | .f16 | .bf16 => 16
  | .i8 | .n8 | .ta8 => 8
  | .ta6 => 6
  | _ => 32

namespace Machine

/-- The integer a bit pattern holds in an integer type (R62, R63). -/
def readInt (t : Ty) (x : Nat) : Int :=
  let w := t.width
  let u := x % 2 ^ w
  if t.isSigned && 2 ^ (w - 1) ≤ u then (u : Int) - 2 ^ w else u

def minI (t : Ty) : Int := if t.isSigned then -(2 ^ (t.width - 1)) else 0
def maxI (t : Ty) : Int := if t.isSigned then 2 ^ (t.width - 1) - 1 else 2 ^ t.width - 1

/-- The nearest value of a type. -/
def clampI (t : Ty) (x : Int) : Int := min (max x (minI t)) (maxI t)

/-- The register contents of an integer result: wrapped to the width, then sign- or zero-extended to 32 bits, or
as 64 bits (R62). -/
def placeInt (t : Ty) (x : Int) : Nat :=
  let u := (x % (2 ^ t.width : Int)).toNat
  let v := readInt t u
  (v % (2 ^ (if t.is64 then 64 else 32) : Int)).toNat

/-- RoundInt (R43) of a finite value. -/
def roundInt (rm : Rm) (neg : Bool) (m : Nat) (e : Int) (s : Bool) : Int × Bool :=
  let (q, nx) := roundAt rm neg m e s 0
  (if neg then -(q : Int) else q, nx)

/-- Float to integer (R76). -/
def floatToInt (t : Ty) (v : XVal) (fl : Flags) (rm : Rm) : Int × Flags :=
  match v with
  | .nan => (0, fl ||| flagNV)
  | .inf n => (if n then minI t else maxI t, fl ||| flagNV)
  | .zero _ => (0, fl)
  | .fin n m e s =>
    if 80 < e + m.log2 then (if n then minI t else maxI t, fl ||| flagNV)
    else
      let (y, nx) := roundInt rm n m e s
      if maxI t < y then (maxI t, fl ||| flagNV)
      else if y < minI t then (minI t, fl ||| flagNV)
      else (y, if nx then fl ||| flagNX else fl)

end Machine
end Sys2Proof
end

