-- ==== Sys2Proof/Machine/Access.lean ====
section
/-!
DEFINITION. Accessors: a core, a task, a thread by reference; the registers, full bits, poison marks and
predicates of a thread, each read and written in one place; the program counter.
-/

namespace Sys2Proof.Machine

/-! ## Registers of a thread -/

/-- A bit vector with one bit set to a value. -/
def putBit {n : Nat} (x : BitVec n) (i : Nat) (b : Bool) : BitVec n :=
  if b then x ||| (1#n <<< i) else x &&& ~~~(1#n <<< i)

namespace Thread

/-- vn. -/
def reg (t : Thread) (r : Reg) : Word := t.regs[r.toNat]'(r.isLt)

/-- The pair vn:vn+1, low word in vn (R30). -/
def reg64 (t : Thread) (r : Reg) : DWord := t.reg (r + 1) ++ t.reg r

/-- `n` registers from vn on, as a number. -/
def regsNat (t : Thread) (r : Reg) : Nat → Nat
  | 0 => 0
  | n + 1 => (t.reg r).toNat + 2 ^ 32 * t.regsNat (r + 1) n

/-- The full bit of vn. -/
def isFull (t : Thread) (r : Reg) : Bool := t.full.getLsbD r.toNat

/-- The poison mark of vn. -/
def isPois (t : Thread) (r : Reg) : Bool := t.poison.getLsbD r.toNat

/-- WriteV (R43): the value, the full bit, and the poison of the value. -/
def setReg (t : Thread) (r : Reg) (x : Word) (p : Bool := false) : Thread :=
  { t with regs := t.regs.set r.toNat x r.isLt
           full := putBit t.full r.toNat true
           poison := putBit t.poison r.toNat p }

/-- `n` registers from vn on written with a number, low word first; bit i of `p` is the mark of the i-th. -/
def setRegs (t : Thread) (r : Reg) : Nat → Nat → BitVec 4 → Thread
  | 0, _, _ => t
  | n + 1, x, p => (t.setReg r (BitVec.ofNat 32 x) (p.getLsbD 0)).setRegs (r + 1) n (x / 2 ^ 32) (p >>> 1)

/-- SetEmpty (R43) of `n` registers. -/
def setEmpty (t : Thread) (r : Reg) : Nat → Thread
  | 0 => t
  | n + 1 => { t with full := putBit t.full r.toNat false }.setEmpty (r + 1) n

/-- ReadQ (R43): q0 reads true. -/
def pred (t : Thread) (q : PredReg) : Bool := q == 0 || t.preds.getLsbD q.toNat

/-- WriteQ (R43): a write of q0 is discarded. -/
def setPred (t : Thread) (q : PredReg) (b : Bool) : Thread :=
  if q = 0 then t else { t with preds := putBit t.preds q.toNat b }

/-- A predicate that a result on its way will write (R178, R269). -/
def predBusy (t : Thread) (q : PredReg) : Bool := q != 0 && t.pend.any fun p => p.pred == some q

/-- A failure after issue of the access of issue `n` joins those that wait, in the order of issue (R177, R340). -/
def addFail (t : Thread) (n : Nat) (x : Trap) : Thread :=
  { t with fails := t.fails.takeWhile (fun f => f.1 ≤ n) ++ (n, x) :: t.fails.dropWhile (fun f => f.1 ≤ n) }

end Thread

/-! ## The program counter (R25) -/

/-- The slot of a PC. -/
def pcSlot (pc : DWord) : Nat := bits pc.toNat 0 3

/-- The line address of a PC. -/
def pcLine (pc : DWord) : DWord := pc &&& ~~~(63#64)

/-- A malformed PC: bits [5:3] not zero, or a slot above 4. -/
def pcBad (pc : DWord) : Bool := bits pc.toNat 3 3 != 0 || 4 < pcSlot pc

/-- The sequential successor of a single slot. -/
def nextPC (pc : DWord) : DWord := if pcSlot pc < 4 then pc + 1 else pcLine pc + 64

/-- A relative target (R26). -/
def relTarget (pc : DWord) (imm : Word) : DWord :=
  ((pcLine pc >>> 6) + (imm.sshiftRight 3).signExtend 64) <<< 6 ||| (imm.extractLsb' 0 3).zeroExtend 64

/-! ## Cores, tasks, threads -/

/-- The place that stands for the Caster group, which belongs to no task place (R384). -/
def casterPlace : Nat := 32

/-- A thread of a core by place and TIDX, the Caster group under a place of its own. -/
def keyOf : Who → Nat × Nat
  | .user place tidx => (place, tidx)
  | .caster n => (casterPlace, n)

def whoOf (place tidx : Nat) : Who := if place = casterPlace then .caster tidx else .user place tidx

namespace Core

def task? (c : Core) (place : Nat) : Option Task := lookup c.tasks place

def modTask (c : Core) (place : Nat) (f : Task → Task) : Core :=
  { c with tasks := c.tasks.map fun p => if p.1 = place then (p.1, f p.2) else p }

def thread? (c : Core) : Who → Option Thread
  | .user place tidx => (c.task? place).bind fun t => t.threads[tidx]?
  | .caster n => c.casters[n]?.map Caster.thr

def modThread (c : Core) (w : Who) (f : Thread → Thread) : Core :=
  match w with
  | .user place tidx => c.modTask place fun t => { t with threads := t.threads.modify tidx f }
  | .caster n => { c with casters := c.casters.modify n fun k => { k with thr := f k.thr } }

def modCaster (c : Core) (n : Nat) (f : Caster → Caster) : Core := { c with casters := c.casters.modify n f }

/-- The generation of a place (R316). -/
def gen (c : Core) (place : Nat) : BitVec 6 := c.gens.getD place 0

def inService (c : Core) : Bool := c.service != .out

end Core

namespace State

def core? (s : State) (n : Nat) : Option Core := s.cores[n]?

def modCore (s : State) (n : Nat) (f : Core → Core) : State := { s with cores := s.cores.modify n f }

def task? (s : State) (core place : Nat) : Option Task := (s.core? core).bind fun c => c.task? place

def modTask (s : State) (core place : Nat) (f : Task → Task) : State :=
  s.modCore core fun c => c.modTask place f

def thread? (s : State) (t : ThreadRef) : Option Thread := (s.core? t.core).bind fun c => c.thread? t.who

def modThread (s : State) (t : ThreadRef) (f : Thread → Thread) : State :=
  s.modCore t.core fun c => c.modThread t.who f

/-- An instruction counted as issued (R383). -/
def countIssue (s : State) (r : ThreadRef) : State :=
  s.modCore r.core fun c => { c with count := { c.count with issued := c.count.issued + 1 } }

/-- The thread a blocked instruction completes for continues after it. -/
def passBlocked (s : State) (r : ThreadRef) : State :=
  (s.modThread r fun t => { t with pc := nextPC t.pc, state := .runnable, wait := 0 }).countIssue r

/-- The task a thread belongs to; none for a Caster thread. -/
def taskOf? (s : State) (t : ThreadRef) : Option Task :=
  match t.who with
  | .user place _ => s.task? t.core place
  | .caster _ => none

/-- The device's number: what the DEV control register reads (R6, R153, R256). -/
def dev (s : State) : Nat := if s.part.fab then s.regs.devNo.toNat else 0

/-- A message sent out of the device. -/
def send (s : State) (m : OutMsg) : State := { s with outbox := s.outbox ++ [m] }

/-- The handle of a thread of a task place (R316). -/
def handle (s : State) (core place tidx : Nat) : Word :=
  let g := ((s.core? core).map fun c => (c.gen place).toNat).getD 0
  BitVec.ofNat 32 (2 ^ 31 + g * 2 ^ 24 + place * 2 ^ 16 + tidx)

/-- The thread of a core that a handle names: its place and TIDX (R316). -/
def named? (s : State) (core : Nat) (h : Word) : Option (Nat × Nat) :=
  let n := h.toNat
  let place := bits n 16 5
  if bits n 30 2 != 2 || bits n 21 3 != 0 || bits n 10 6 != 0 then none
  else match s.task? core place with
    | none => none
    | some _ =>
      if ((s.core? core).map fun c => (c.gen place).toNat) == some (bits n 24 6) then some (place, bits n 0 10)
      else none

end State

/-! ## Whose access it is -/

/-- The accessor of the user threads of a context on a core. -/
def userAccessor (core : Nat) (x : Context) : Accessor :=
  { core, user := true, asid := x.asid, ptroot := x.ptroot, kslot := x.kslot, window := none }

/-- The accessor of a thread. -/
def State.accessor (s : State) (t : ThreadRef) : Accessor :=
  match t.who with
  | .user place _ =>
    match s.task? t.core place with
    | some k => userAccessor t.core k.ctx
    | none => { core := t.core, user := true, asid := 0, ptroot := 0, kslot := 0, window := none }
  | .caster _ =>
    match s.core? t.core with
    | some c => { core := t.core, user := false, asid := c.asid, ptroot := c.ptroot, kslot := c.kslot
                  window := some c.window.toNat }
    | none => { core := t.core, user := false, asid := 0, ptroot := 0, kslot := 0, window := none }

/-- The context a core acts for on its own: a privileged agent with the given registers (R385). -/
def contextAccessor (core : Nat) (asid : BitVec 16) (ptroot : DWord) (kslot : Byte) : Accessor :=
  { core, user := false, asid, ptroot, kslot, window := none }

end Sys2Proof.Machine
end

