-- ==== Sys2Proof/Machine/Cache.lean ====
section
/-!
DEFINITION. Local memory as the cores see it: the home slices with their owner directory, the L1 data cache of
each core, write-backs, poison units (spec/08_memory_spaces.md R148, R149; spec/09_ordering_rules.md R158 to R164;
spec/23_errors_degraded_checkpoint.md R352 to R355). A home slice and the HBM behind it are one store here
(notes/assumptions/8.md).
-/

namespace Sys2Proof.Machine

/-- Line address of a physical address. -/
def lineOf (pa : Nat) : Nat := pa / 64 * 64

/-- The home slice of a line (R148). -/
def home (pa : Nat) : Nat := bits pa 6 4 ^^^ bits pa 10 4 ^^^ bits pa 14 4 ^^^ bits pa 18 4

/-- The hash lane of an address (R168): fourteen groups of three bits. -/
def hashLane (pa : Nat) : Nat := (List.range 14).foldl (fun h i => h ^^^ bits pa (6 + 3 * i) 3) 0

/-- Base of host memory in the device physical map (R149). -/
def hostBase : Nat := 2 ^ 54

/-- Base of the device MMIO window (R149). -/
def mmioBase : Nat := 0x003F0000000000

/-- The bytes of `b` where the mask is set, those of `a` elsewhere. -/
def mergeBytes : List Byte → List Byte → BitVec 64 → List Byte
  | a :: as, b :: bs, m => (if m.getLsbD 0 then b else a) :: mergeBytes as bs (m >>> 1)
  | as, _, _ => as

/-- Poison of units whose bytes are replaced under a mask: a unit all of whose bytes are replaced takes the new
mark, a unit partly replaced stays poisoned or becomes so (R355). -/
def mergePois (old new : BitVec 4) (m : BitVec 64) : BitVec 4 :=
  (List.range 4).foldl (fun p i =>
    let unit := m.extractLsb' (16 * i) 16
    if unit = BitVec.allOnes 16 then putBit p i (new.getLsbD i)
    else if unit = 0 then p
    else putBit p i (old.getLsbD i || new.getLsbD i)) old

/-- The mask of bytes `o` to `o + n` of a line. -/
def byteMask (o n : Nat) : BitVec 64 := BitVec.ofNat 64 ((2 ^ n - 1) * 2 ^ o)

/-- The 16-byte units of a line that bytes `o` to `o + n` of it touch. -/
def unitsOf (o n : Nat) : BitVec 4 :=
  (List.range 4).foldl (fun p i => putBit p i (o < 16 * i + 16 && 16 * i < o + n)) 0

/-! ## The home slices -/

/-- Where the L1 keeps a line of a peer's memory: its device physical address (R149). -/
def peerPa (d off : Nat) : Nat := 2 ^ 55 + d * 2 ^ 49 + off

/-- Whether a subscription holds the L1 copy of a line in a core (R169, R185). -/
def Core.holdsLine (c : Core) (la : Nat) : Bool :=
  c.subs.any fun u => match u.target with
    | .mem a => a == la
    | .peer d off => peerPa d off == la
    | _ => false

namespace State

/-- A write that waiters at `waitaddr` may have waited for (R270). -/
def touch (s : State) (t : Touch) : State := if s.touched.contains t then s else { s with touched := t :: s.touched }

/-- Poison marks of a line at its home: a line whose tag does not match arrives poisoned (R300). -/
def linePois (s : State) (la : Nat) : BitVec 4 :=
  if (lookup s.lineKeys la).isSome then 0xF
  else (List.range 4).foldl (fun p i => putBit p i (s.mpois.has (la / 16 + i))) 0

/-- A line read from HBM: a tag that does not match counts as a tag failure (R300). -/
def verify (s : State) (la : Nat) : State :=
  if (lookup s.lineKeys la).isSome then { s with health := { s.health with tagFails := s.health.tagFails + 1 } } else s

/-- Bytes of a line written at its home under a mask, with the marks of the data. -/
def homeWrite (s : State) (la : Nat) (data : List Byte) (mask : BitVec 64) (pois : BitVec 4) : State :=
  let old := s.linePois la
  let now := mergePois old pois mask
  { s with lineKeys := eraseKey s.lineKeys la
           mem := s.mem.writeSome la ((List.range 64).map fun i => if mask.getLsbD i then data[i]? else none)
           mpois := (List.range 4).foldl (fun m i =>
             if now.getLsbD i then m.add (la / 16 + i) else m.del (la / 16 + i)) s.mpois }.touch (.line la)

/-- Every copy of a line that its home serves in place of its own bytes: write-backs in flight and dirty lines held
with ownership, of every core (R148, R162). -/
def ownedCopies (s : State) (la : Nat) : List L1Line :=
  s.cores.flatMap fun c =>
    c.wbacks.filter (fun l => l.pa == la && l.owned) ++ c.l1.filter (fun l => l.pa == la && l.owned && l.dirty != 0)

/-- A line as its home serves it. -/
def homeRead (s : State) (la : Nat) : List Byte × BitVec 4 :=
  (s.ownedCopies la).foldl
    (fun (d, p) l => (mergeBytes d l.data l.dirty, mergePois p l.pois l.dirty))
    (s.mem.read la 64, s.linePois la)

/-- A line as core `n` fetches it: what the home serves, under the core's own write-backs in flight. -/
def fetchLine (s : State) (n la : Nat) : List Byte × BitVec 4 :=
  let own := ((s.core? n).map fun c => c.wbacks.filter fun l => l.pa == la && !l.owned).getD []
  own.foldl (fun (d, p) l => (mergeBytes d l.data l.dirty, mergePois p l.pois l.dirty)) (s.homeRead la)

/-- The peers that the home pushes a line to: those that have fetched it whole, and are reached. The line of a protected page
goes to none (R169, R212, R281; notes/assumptions/121.md). -/
def pushPeers (s : State) (la : Nat) : List Nat :=
  if (lookup s.pslots (la / 4096)).isSome then []
  else (s.peerSubs.filter fun x => x.2 == la && ((s.dests[x.1]?).any fun e => !e.unreach)).map Prod.fst

/-- The home pushes the value of a local line to every core that subscribes it, and to the peers that do (R169). -/
def pushLine (s : State) (la : Nat) : State :=
  let (d, p) := s.homeRead la
  { s with cores := s.cores.map fun c =>
             if c.subs.any fun u => u.target == .mem la then
               { c with l1 := { pa := la, data := d, dirty := 0, pois := p, owned := false } :: c.l1.filter (·.pa != la) }
             else c
           outbox := s.outbox ++ (s.pushPeers la).map fun n => .push n la d }

/-- A new value of a line that its home serves from the L1 of the core that wrote it: the home pushes it, and waiters of the
subscribing cores look at it (R162, R169). -/
def pushOwned (s : State) (la : Nat) : State :=
  if s.cores.any fun c => c.subs.any fun u => u.target == .mem la then (s.pushLine la).touch (.line la) else s.pushLine la

/-- The dirty copies and write-backs of a line that cores other than `n` hold with ownership are gone: the line of a narrow
atomic of core `n` replaces what the home served in their place, and their writes are lost (R164). -/
def loseOwned (s : State) (n la : Nat) : State :=
  let mine (l : L1Line) : Bool := l.pa == la && l.owned
  { s with cores := s.cores.zipIdx.map fun (c, m) =>
      if m = n then c
      else { c with wbacks := c.wbacks.filter fun l => !mine l, l1 := c.l1.filter fun l => !mine l || l.dirty == 0 } }

/-- A dirty copy of core `n` applied at the home of its line. -/
def applyCopy (s : State) (n la : Nat) (l : L1Line) : State :=
  (if l.owned then s else s.loseOwned n la).homeWrite la l.data l.dirty l.pois

/-- The dirty copies of core `n` of a line applied at its home, the oldest first. -/
def applyCopies (s : State) (n la : Nat) (ls : List L1Line) : State := ls.foldl (fun s l => s.applyCopy n la l) s

/-- The write-backs and owned dirty copies of a line, of every core but `except`, applied at the home, which pushes what
it then holds (R169); those copies stay, clean and without ownership. -/
def flushOwned (s : State) (la : Nat) (except : Option Nat) : State :=
  let mine (n : Nat) := except == some n
  let old := s.cores.zipIdx.flatMap fun (c, n) =>
    c.wbacks.filter (fun l => l.pa == la && l.owned) ++
      (if mine n then [] else c.l1.filter fun l => l.pa == la && l.owned && l.dirty != 0)
  let s := old.foldl (fun s l => s.homeWrite la l.data l.dirty l.pois) s
  let s := { s with cores := s.cores.zipIdx.map fun (c, n) =>
    { c with wbacks := c.wbacks.filter fun l => !(l.pa == la && l.owned)
             l1 := c.l1.map fun l =>
               if l.pa == la && l.owned && !mine n then { l with owned := false, dirty := 0 } else l } }
  if old.isEmpty then s else s.pushLine la

/-- The write-backs of a line on their way from core `n` applied at the home. -/
def flushWbacks (s : State) (n la : Nat) : State :=
  let old := ((s.core? n).map Core.wbacks).getD [] |>.filter (·.pa == la)
  if old.isEmpty then s
  else ((s.applyCopies n la old).modCore n fun c => { c with wbacks := c.wbacks.filter (·.pa != la) }).pushLine la

/-- Every dirty copy of a line of core `n`, owned or not, applied at the home. -/
def flushCore (s : State) (n la : Nat) : State :=
  match s.core? n with
  | none => s
  | some c =>
    let old := (c.wbacks ++ c.l1).filter fun l => l.pa == la && l.dirty != 0
    let s := (s.applyCopies n la old).modCore n fun c =>
      { c with wbacks := c.wbacks.filter (·.pa != la)
               l1 := c.l1.map fun l => if l.pa == la then { l with owned := false, dirty := 0 } else l }
    if old.isEmpty then s else s.pushLine la

/-- Every dirty copy of a line, of every core, applied at the home. -/
def flushAll (s : State) (la : Nat) : State :=
  (List.range s.cores.length).foldl (fun s n => s.flushCore n la) (s.flushOwned la none)

/-- Whether core `n` subscribes a line (R185). -/
def subscribed (s : State) (n : Nat) (t : Target) : Bool :=
  ((s.core? n).map fun c => c.subs.any fun u => u.target == t).getD false

/-- The L1 copies of a line dropped in every core, but for subscribed lines. -/
def dropLine (s : State) (la : Nat) : State :=
  { s with cores := s.cores.map fun c => { c with l1 := c.l1.filter fun l => l.pa != la || c.holdsLine la } }

/-- The L1 copy of a line dropped in one core, but for a subscribed line. -/
def dropCopy (s : State) (n la : Nat) : State :=
  s.modCore n fun c => { c with l1 := c.l1.filter fun l => l.pa != la || c.holdsLine la }

/-! ## The L1 data cache -/

/-- The L1 copy of a line in core `n`. -/
def l1Line? (s : State) (n la : Nat) : Option L1Line :=
  (s.core? n).bind fun c => c.l1.find? fun l => l.pa == la

/-- The L1 copy of a line replaced. -/
def putL1 (s : State) (n : Nat) (l : L1Line) : State :=
  s.modCore n fun c => { c with l1 := l :: c.l1.filter fun k => k.pa != l.pa }

/-- The core's copy of a line, fetched clean from the home on a miss (R161, R164). -/
def l1Fetch (s : State) (n la : Nat) : L1Line × State :=
  match s.l1Line? n la with
  | some l => (l, s)
  | none =>
    let s := s.verify la
    let (d, p) := s.fetchLine n la
    let l : L1Line := { pa := la, data := d, dirty := 0, pois := p, owned := false }
    (l, (s.putL1 n l).modCore n fun c => { c with count := { c.count with l1miss := c.count.l1miss + 1 } })

/-- The core takes ownership of a line: the other cores' dirty copies and its own write-backs on their way reach the home
first, and the bytes the core has not written itself are refreshed from there. -/
def l1Own (s : State) (n la : Nat) : L1Line × State :=
  let (l, s) := s.l1Fetch n la
  if l.owned then (l, s)
  else
    let s := (s.flushOwned la (some n)).flushWbacks n la
    let (d, p) := s.fetchLine n la
    let l := { l with data := mergeBytes d l.data l.dirty, pois := mergePois p l.pois l.dirty, owned := true }
    (l, s.putL1 n l)

/-- A line of the L1 with bytes written. -/
def writeL1 (l : L1Line) (o : Nat) (bs : List Byte) (pois : BitVec 4) : L1Line :=
  let m := byteMask o bs.length
  let new := (List.replicate o (0 : Byte)) ++ bs ++ List.replicate (64 - o - bs.length) 0
  { l with data := mergeBytes l.data new m, dirty := l.dirty ||| m, pois := mergePois l.pois pois m }

/-- Whether the page of a physical address is flipping between biases, or its page slot is changing: accesses to it
wait (R171, R299). -/
def pageBusy (s : State) (pa : Nat) : Bool :=
  s.flips.any (fun f => f.page == pa / 4096) || s.pslotBusy.any fun (p, _) => p == pa / 4096

/-- Whether the line lies in host memory or in a host-bias page: its writes complete under CXL.cache (R161). -/
def hostSide (s : State) (pa : Nat) : Bool := hostBase ≤ pa || s.hostBias.has (pa / 4096)

/-- A store of core `n` performed into its L1 with ownership; a subscribed line is written at its home, which pushes
it (R158, R169). -/
def storeLine (s : State) (n pa : Nat) (bs : List Byte) (pois : BitVec 4) : State :=
  let la := lineOf pa
  if s.subscribed n (.mem la) then
    let s := (s.flushOwned la none).flushCore n la
    let m := byteMask (pa - la) bs.length
    let new := (List.replicate (pa - la) (0 : Byte)) ++ bs ++ List.replicate (64 - (pa - la) - bs.length) 0
    (s.homeWrite la new m pois).pushLine la
  else
    let (l, s) := s.l1Own n la
    ((s.putL1 n (writeL1 l (pa - la) bs pois)).touch (.own n la)).pushOwned la

/-- A line made ready for a write at its home: what the home serves is at the home, and the issuing core, where there
is one, holds no copy of its own. Copies of other cores stay, clean ones and those of narrow atomics alike (R161, R164). -/
def homeReady (s : State) (core : Option Nat) (la : Nat) : State :=
  let s := (s.verify la).flushOwned la none
  match core with
  | none => s
  | some n => (s.flushCore n la).dropCopy n la

/-- A write applied at the home slice, past every cache: copies, atomics at the Flask, peers (R163, R167, R211). -/
def storeHomeBy (s : State) (core : Option Nat) (pa : Nat) (bs : List Byte) (pois : BitVec 4) : State :=
  let la := lineOf pa
  let m := byteMask (pa - la) bs.length
  let new := (List.replicate (pa - la) (0 : Byte)) ++ bs ++ List.replicate (64 - (pa - la) - bs.length) 0
  (((s.homeReady core la).homeWrite la new m pois)).pushLine la

/-- A write of the device or of another party at the home slice. -/
def storeHome (s : State) (pa : Nat) (bs : List Byte) (pois : BitVec 4) : State := s.storeHomeBy none pa bs pois

/-- `k` bytes at a physical address as the home serves them, with whether any is poisoned. -/
def readHome (s : State) (pa k : Nat) : List Byte × Bool :=
  let la := lineOf pa
  let (d, p) := s.homeRead la
  let o := pa - la
  ((d.drop o).take k, (List.range 4).any fun i => p.getLsbD i && o < 16 * i + 16 && 16 * i < o + k)

/-- `k` bytes of one line as the home serves them, with the marks of the units they touch (R354). -/
def readMarked (s : State) (pa k : Nat) : List Byte × BitVec 4 :=
  let (d, p) := s.homeRead (lineOf pa)
  ((d.drop (pa - lineOf pa)).take k, p &&& unitsOf (pa - lineOf pa) k)

/-- `k` bytes from a physical address on, line by line, as the home serves them. -/
def readHomeBytes (s : State) (pa k : Nat) : List Byte × Bool :=
  let first := lineOf pa
  let n := (pa + k + 63 - first) / 64
  let ls := (List.range n).map fun i => s.homeRead (first + 64 * i)
  let o := pa - first
  (((ls.map Prod.fst).flatten.drop o).take k, (List.range n).any fun i =>
    (List.range 4).any fun j => ((ls.map Prod.snd).getD i 0).getLsbD j &&
      o < 64 * i + 16 * j + 16 && 64 * i + 16 * j < o + k)

/-- Bytes written from a physical address on, at their homes. -/
def storeHomeBytesBy (s : State) (core : Option Nat) (pa : Nat) (bs : List Byte) (pois : Bool) : State :=
  let first := lineOf pa
  let n := (pa + bs.length + 63 - first) / 64
  (List.range n).foldl (fun s i =>
    let la := first + 64 * i
    let a := max pa la
    let part := (bs.drop (a - pa)).take (la + 64 - a)
    s.storeHomeBy core a part (if pois then 0xF else 0)) s

def storeHomeBytes (s : State) (pa : Nat) (bs : List Byte) (pois : Bool) : State := s.storeHomeBytesBy none pa bs pois

/-- A line made ready for an acquire at `.clu` or wider of core `n`, which reads at the home and never a clean copy (R161):
a subscribed line and a copy held modified with ownership serve it as they stand; the copy of a narrow atomic is written
back first (R164). -/
def acquireLine (s : State) (n la : Nat) : State :=
  if ((s.core? n).map fun c => c.holdsLine la || c.l1.any fun l => l.pa == la && l.owned && l.dirty != 0).getD false then s
  else (s.flushCore n la).dropCopy n la

/-- `k` bytes read by a load of core `n`: from its L1, or for an acquire at `.clu` or wider from the home in place of
a clean copy (R161). -/
def loadLine (s : State) (n pa k : Nat) (wide : Bool) : List Byte × Bool × State :=
  let la := lineOf pa
  let s := if wide then s.acquireLine n la else s
  let (l, s) := s.l1Fetch n la
  let o := pa - la
  ((l.data.drop o).take k,
    (List.range 4).any (fun i => l.pois.getLsbD i && o < 16 * i + 16 && 16 * i < o + k), s)

/-! ## Releases and acquires (R161) -/

/-- Every dirty line of core `n` starts its way home; the L1 keeps it clean. -/
def startWriteBacks (s : State) (n : Nat) : State :=
  s.modCore n fun c =>
    { c with wbacks := c.wbacks ++ c.l1.filter (·.dirty != 0)
             l1 := c.l1.map fun l => { l with dirty := 0, owned := false } }

/-- An acquire at `.clu` or wider invalidates the clean lines of the core's L1, but not subscribed ones. -/
def dropClean (s : State) (n : Nat) : State :=
  s.modCore n fun c => { c with l1 := c.l1.filter fun l => l.dirty != 0 || c.holdsLine l.pa }

/-- A write-back reaches its home (R161): the oldest of the line. -/
def writeBackDone (s : State) (n la : Nat) : State :=
  match s.core? n with
  | none => s
  | some c =>
    match c.wbacks.find? (·.pa == la) with
    | none => s
    | some l =>
      if s.pageBusy la then s
      else
        let s := (s.applyCopy n la l).modCore n fun c =>
          { c with wbacks := c.wbacks.erase l
                   hwrites := if s.hostSide la then c.hwrites ++ [la] else c.hwrites }
        s.pushLine la

end State

/-- A scope at which a release or acquire acts on the caches (R161). -/
def wideScope : Scope → Bool
  | .clu | .dev | .dom | .sys => true
  | _ => false

end Sys2Proof.Machine
end

