-- ==== Sys2Proof/Machine/Bias.lean ====
section
/-!
DEFINITION. Pages in a change: flips of bias, page slots, and the host's accesses to HBM, which such a change holds
(spec/09_ordering_rules.md R171; spec/11_ladle_host_fabric.md R207 to R210; spec/19_contexts_translation.md R299;
spec/22_traps_restart.md R349).
-/

namespace Sys2Proof.Machine

/-- Bytes of the pinned window (R349). -/
def windowBytes : Nat := 2 ^ 22

namespace State

/-- Whether HBM bytes [a, a + n) overlap the pinned window of some core (R349): there is none before stage 7 (R378). -/
def inWindow (s : State) (a n : Nat) : Bool :=
  s.stage == 7 && s.cores.any fun c => a < c.window.toNat + windowBytes && c.window.toNat < a + n

/-- The page slot of an HBM page. -/
def pageSlot (s : State) (page : Nat) : Byte := (lookup s.pslots page).getD 0

/-! ## Flips of bias (R208 to R210) -/

/-- OK written to the Caster thread that waits in `biasset`, which continues (R329). -/
def answerWaiter (s : State) (w : Option (ThreadRef × Reg)) : State :=
  match w with
  | none => s
  | some (r, d) => s.modThread r fun t => { t.setReg d 0 with pc := nextPC t.pc, wait := 0 }

/-- The snoops of a flip to device bias, one for each line (R210 step 2). What the device has written through host coherence
and still holds dirty is at its home first. -/
def sendSnoops (s : State) (page : Nat) : State :=
  let s := (List.range 64).foldl (fun s i => s.flushAll (page * 4096 + 64 * i)) s
  (List.range 64).foldl (fun s i => s.send (.backInvalidate page i)) s

/-- The flips of a page that are due: one to the bias the page has completes at once, one to the other bias starts. -/
def startFlips (s : State) (page : Nat) : List Flip → State
  | [] => s
  | f :: fs =>
    if f.page != page then s.startFlips page fs
    else if f.toHost == s.hostBias.has page then
      let s := { s with flips := s.flips.erase f, regs := { s.regs with biasSeq := s.regs.biasSeq + 1 } }
      (s.answerWaiter f.waiter).startFlips page fs
    else if f.toHost then s else s.sendSnoops page

/-- A flip requested (R208, R329): it joins the requests for its page. -/
def requestFlip (s : State) (f : Flip) : State :=
  let first := !s.flips.any fun g => g.page == f.page
  let s := { s with flips := s.flips ++ [f] }
  if first then s.startFlips f.page s.flips else s

/-- Whether the active flip of a page has nothing left to wait for. -/
def flipReady (f : Flip) : Bool := f.toHost || f.lines.length == 64

/-- The clean copies of a page's lines dropped from every cache, but for subscribed lines, which the home pushes again. -/
def dropCopies (s : State) (page : Nat) : State :=
  let s := (List.range 64).foldl (fun s i => (s.dropLine (page * 4096 + 64 * i)).pushLine (page * 4096 + 64 * i)) s
  { s with cores := s.cores.map fun c => { c with icache := c.icache.filter fun l => l.pa / 4096 != page } }

/-- The lines of a page flushed to HBM and dropped from every cache (R209 step 2). -/
def flushPage (s : State) (page : Nat) : State :=
  ((List.range 64).foldl (fun s i => s.flushAll (page * 4096 + 64 * i)) s).dropCopies page

/-- The last step of the active flip of a page (R209, R210), after which the next request for it starts. Device accesses that
waited find no copy older than what the host wrote back (R171). -/
def completeFlip (s : State) (page : Nat) : State :=
  match s.flips.find? fun f => f.page == page with
  | none => s
  | some f =>
    if !flipReady f then s
    else
      let s := if f.toHost then s.flushPage page else s.dropCopies page
      let s := { s with hostBias := if f.toHost then s.hostBias.add page else s.hostBias.del page
                        flips := s.flips.erase f, regs := { s.regs with biasSeq := s.regs.biasSeq + 1 } }
      let s := s.answerWaiter f.waiter
      s.startFlips page s.flips

/-! ## Page slots (R299) -/

/-- Every L1 copy, data and instructions, and every write-back of a page's lines dropped without effect; the home pushes the
lines it then holds. -/
def dropPage (s : State) (page : Nat) : State :=
  { s with cores := s.cores.map fun c =>
      { c with l1 := c.l1.filter fun l => l.pa / 4096 != page, wbacks := c.wbacks.filter fun l => l.pa / 4096 != page
               icache := c.icache.filter fun l => l.pa / 4096 != page } }

/-- The end of a page-slot change: the copies dropped, the lines zero under the new slot, the slot recorded. -/
def completePslot (s : State) : State :=
  match s.pslotBusy with
  | none => s
  | some (page, slot) =>
    let s := s.dropPage page
    let s := { s with lineKeys := s.lineKeys.filter fun p => p.1 / 4096 != page
                      mem := s.mem.clear (page * 4096) 4096, mpois := s.mpois.delRange (page * 256) 256
                      pslots := if slot = 0 then eraseKey s.pslots page else insertKey s.pslots page slot
                      pslotBusy := none, regs := { s.regs with pslotSeq := s.regs.pslotSeq + 1 } }
    (List.range 64).foldl (fun s i => (s.pushLine (page * 4096 + 64 * i)).touch (.line (page * 4096 + 64 * i))) s

/-! ## The host port (R171, R207, R299, R349, R360) -/

/-- Whether the link to the host is up: stage 4 has trained it (R378). -/
def linkUp (s : State) : Bool := s.rails == .up && 4 ≤ s.stage && s.stage ≤ 7

/-- Whether the device accepts what the host writes: a failed device accepts nothing until reset (R356). -/
def accepts (s : State) : Bool := s.linkUp && !s.health.failed

/-- Whether HBM bytes lie in the words of a pinned window that the driver shares with the Caster code: the offer word, which it
increments, and the report word, which it reads (R332; notes/assumptions/127.md). -/
def driverWords (s : State) (off size : Nat) : Bool :=
  s.cores.any fun c => c.window.toNat + 0x408 ≤ off && off + size ≤ c.window.toNat + 0x418

/-- Whether a host access to HBM finds no data of its own: beyond the part's HBM, on a page of a key slot, in a pinned
window, or on a retired page. -/
def hostRefused (s : State) (off size : Nat) : Bool :=
  s.part.hbmBytes < off + size || s.pageSlot (off / 4096) != 0 || (s.inWindow off size && !s.driverWords off size) ||
    s.health.retired.has (off / 4096)

/-- Whether a host access to a page is held: its slot is changing, or a flip to device bias has sent its snoops. -/
def hostHeld (s : State) (off : Nat) : Bool :=
  s.pslotBusy.any (fun p => p.1 == off / 4096) ||
    match s.flips.find? fun f => f.page == off / 4096 with
    | some f => !f.toHost
    | none => false

/-- Whether bytes lie within one line. -/
def oneLine (off size : Nat) : Bool := 0 < size && off % 64 + size ≤ 64

/-- A host read of HBM: the device's dirty copies of the line are written back first (R171). -/
def hostRead (s : State) (off size : Nat) : State :=
  if !s.linkUp || !oneLine off size then s
  else if s.hostHeld off then { s with hostWaits := s.hostWaits ++ [.read off size] }
  else if s.hostRefused off size then s.send (.hostReadData off (List.replicate size 0) true)
  else
    let s := s.flushAll (lineOf off)
    let (bs, p) := s.readHome off size
    let s : State := { s with count := { s.count with hostOut := s.count.hostOut + BitVec.ofNat 64 size } }
    s.send (.hostReadData off bs p)

/-- A host write to HBM, applied after the device's dirty copies of the line (R171). -/
def hostWrite (s : State) (off : Nat) (bs : List Byte) : State :=
  if !s.accepts || !oneLine off bs.length then s
  else if s.hostHeld off then { s with hostWaits := s.hostWaits ++ [.write off bs] }
  else if s.hostRefused off bs.length then s
  else
    let s : State := { s with count := { s.count with hostIn := s.count.hostIn + BitVec.ofNat 64 bs.length } }
    (s.flushAll (lineOf off)).storeHome off bs 0

/-! ## Counter records (R382) -/

/-- Size of a record. -/
def recordBytes : Nat := 20480

/-- The pages of a record at an address. -/
def recordPages (pa : Nat) : List Nat := (List.range 5).map fun i => pa + 4096 * i

/-- Whether no engine without a context may write a record at an address: it does not lie in pages of local HBM of slot 0,
outside every pinned window, or no core is left whose Ladle writes it (notes/assumptions/72.md). -/
def recordBarred (s : State) (pa : Nat) : Bool :=
  s.therm || s.extest || !s.cores.any (fun c => c.service != .out) || s.part.hbmBytes < pa + recordBytes ||
    s.inWindow pa recordBytes || (recordPages pa).any fun p => s.pageSlot (p / 4096) != 0

/-- The records on their way written, oldest first, as far as no page of theirs is busy: TICK last, and PROD advances. One
whose place is barred by then is lost. -/
def writeRecords (s : State) : State :=
  (s.records.foldl (fun (x : Bool × State) r =>
    let s := x.2
    if x.1 || (recordPages r.pa).any s.pageBusy then (true, s)
    else
      let s : State := { s with records := s.records.drop 1 }
      if s.recordBarred r.pa then (false, { s with cntLost := s.cntLost + 1 })
      else
        let core := s.cores.findIdx? fun c => c.service != .out
        let s := (s.storeHomeBytesBy core (r.pa + 8) (r.bytes.drop 8) false).storeHomeBytesBy core r.pa (r.bytes.take 8) false
        (false, { s with regs := { s.regs with prod := s.regs.prod + 1 } })) (false, s)).2

/-- The requests of the host that were held made again, in their order: those whose page is no longer held are served. The
counter records that were held are written first. -/
def serveHost (s : State) : State :=
  let s := s.writeRecords
  s.hostWaits.foldl (fun s q => match q with
    | .read off size => s.hostRead off size
    | .write off bs => s.hostWrite off bs
    | .bell q => { s with hostWaits := s.hostWaits ++ [.bell q] }) { s with hostWaits := [] }

/-! ## Accesses of the device itself to a page in a change -/

/-- A page-slot change or a flip to host bias that holds an access of the device to one of the addresses completes before
the access is made (R209, R299; notes/assumptions/111.md). -/
def afterChange (s : State) (pas : List Nat) : State :=
  let s := if s.pslotBusy.any fun p => pas.any fun pa => pa / 4096 == p.1 then s.completePslot.serveHost else s
  pas.foldl (fun s pa => match s.flips.find? fun f => f.page == pa / 4096 with
    | some f => if f.toHost then (s.completeFlip f.page).serveHost else s
    | none => s) s

end State

end Sys2Proof.Machine
end

