-- ==== Sys2Proof/Machine/Translate.lean ====
section
/-!
DEFINITION. The device physical address, translation by Sv57 tables, and the checks on the physical target of an
access (spec/08_memory_spaces.md R149 to R154; spec/20_system_isa.md R313; spec/10_memory_isa.md R175 step 7;
spec/19_contexts_translation.md R299).
-/

namespace Sys2Proof.Machine

/-- Access kinds of Translate (R43, R151). -/
inductive AccessKind where
  | read | write | atomic | fetch
  deriving DecidableEq, Repr

def AccessKind.writes : AccessKind → Bool
  | .write | .atomic => true
  | _ => false

/-- Bytes of a peer's local map (R149). -/
def peerSpan : Nat := 2 ^ 49

namespace State

/-! ## Targets (R149) -/

/-- An address of the local map: HBM, MMIO, or nothing. -/
def localTarget? (s : State) (a : Nat) : Option Target :=
  if a < s.part.hbmBytes then some (.mem a)
  else if mmioBase ≤ a && a < mmioBase + 2 ^ 40 then some (.mmio (a - mmioBase))
  else none

/-- The target of a device physical address; none where it names none. Peer space of the own device is local. -/
def targetOf? (s : State) (pa : Nat) : Option Target :=
  if 2 ^ 55 ≤ pa then
    let d := bits pa 49 6
    let off := bits pa 0 49
    if d = s.dev then s.localTarget? off else some (.peer d off)
  else if hostBase ≤ pa then some (.mem pa)
  else s.localTarget? pa

/-- A host physical address of direct mode as a device physical address (R152); one that does not fit the host's 54 bits names
nothing (notes/assumptions/131.md). -/
def ofHost? (s : State) (h : Nat) : Option Nat :=
  let aper := s.regs.aperbase.toNat * 2 ^ 52
  if s.hdmBase ≤ h && h < s.hdmBase + s.part.hbmBytes then some (h - s.hdmBase)
  else if aper ≤ h && h < aper + 2 ^ 52 then
    some (2 ^ 55 + (h - aper) / 2 ^ 46 * 2 ^ 49 + (h - aper) % 2 ^ 46)
  else if h < hostBase then some (hostBase + h)
  else none

/-- An address found in a page table, by the mode of the root (R152). -/
def ofTable? (s : State) (ptroot : DWord) (a : Nat) : Option Nat :=
  if bits ptroot.toNat 62 2 = 1 then s.ofHost? a else some a

/-! ## The walk (R150, R151) -/

/-- What a walk ends with: a fault of R151, or a leaf, its address, and its level; or it waits for the page of an entry that
flips to device bias (R210). -/
inductive Walk where
  | wait
  | fault (sub : Byte)
  | leaf (pte : DWord) (at_ : Nat) (level : Nat)
  deriving DecidableEq, Repr

/-- A table entry that is malformed whatever its level (R150). -/
def pteMalformed (p : Nat) : Bool := bits p 54 10 != 0 || (p.testBit 2 && !p.testBit 1)

/-- The walk from the table at `table` (an address of the mode), with `level + 1` levels left. A table that lies in
no memory of the device or the host, or an entry that arrives poisoned, counts as malformed
(notes/assumptions/9.md), and so does an entry of level 0 that names a table (notes/assumptions/131.md). -/
def walkFrom (s : State) (ptroot : DWord) (va : Nat) : Nat → Nat → Walk
  | 0, _ => .fault 0x03
  | level + 1, table =>
    let slot := table + 8 * bits va (12 + 9 * level) 9
    match (s.ofTable? ptroot slot).bind s.targetOf? with
    | some (.mem pa) =>
      let (bs, pois) := s.readHome pa 8
      let p := leNat bs
      if s.pageBusy pa then .wait
      else if pois then .fault 0x03
      else if !p.testBit 0 then .fault 0x01
      else if pteMalformed p then .fault 0x03
      else if bits p 1 3 = 0 then s.walkFrom ptroot va level (bits p 10 44 * 4096)
      else if level = 4 || bits p 10 44 % 2 ^ (9 * level) != 0 then .fault 0x03
      else .leaf (BitVec.ofNat 64 p) pa level
    | _ => .fault 0x03

/-- The addresses of the entries a walk reads. -/
def walkReads (s : State) (ptroot : DWord) (va : Nat) : Nat → Nat → List Nat
  | 0, _ => []
  | level + 1, table =>
    match (s.ofTable? ptroot (table + 8 * bits va (12 + 9 * level) 9)).bind s.targetOf? with
    | some (.mem pa) => pa :: s.walkReads ptroot va level (bits (leNat (s.readHome pa 8).1) 10 44 * 4096)
    | _ => []

/-- The walk of a virtual address (R150, R152), every level read afresh (R154, notes/assumptions/131.md). -/
def walk (s : State) (ptroot : DWord) (va : Nat) : Walk :=
  s.walkFrom ptroot va 5 (bits ptroot.toNat 0 44 * 4096)

/-- Where a leaf's page lies in HBM, as offsets [lo, hi): beyond the HBM, or empty, where it lies elsewhere. `p` is its first
address in the mode of the root, seen through the HDM range, the peer aperture or the own device's peer space. -/
def leafHbm (s : State) (ptroot : DWord) (p size : Nat) : Nat × Nat :=
  let aper := s.regs.aperbase.toNat * 2 ^ 52
  let base :=
    if bits ptroot.toNat 62 2 = 1 then if aper ≤ p && p < aper + 2 ^ 52 then aper + s.dev * 2 ^ 46 else s.hdmBase
    else if 2 ^ 55 ≤ p then 2 ^ 55 + s.dev * peerSpan
    else 0
  (p - base, p + size - base)

/-- Whether a leaf maps no target although its addresses have one: its page overlaps a pinned window (R349) or holds a
retired page (R360). -/
def leafBarred (s : State) (ptroot : DWord) (p size : Nat) : Bool :=
  let (lo, hi) := s.leafHbm ptroot p size
  s.inWindow lo (hi - lo) || s.health.retired.any fun n => lo < 4096 * n + 4096 && 4096 * n < hi

/-- The target a leaf gives an address, unless the leaf maps none: no target of R149, a page of it barred, or MMIO in direct
mode (R152). -/
def leafTarget? (s : State) (ptroot : DWord) (pte : DWord) (level va : Nat) : Option Target :=
  let size := 2 ^ (12 + 9 * level)
  let first := bits pte.toNat 10 44 * 4096
  if s.leafBarred ptroot first size then none
  else match (s.ofTable? ptroot (first + va % size)).bind s.targetOf? with
    | some (.mmio off) => if bits ptroot.toNat 62 2 = 1 then none else some (.mmio off)
    | t => t

/-- The faults of R151 that a leaf decides. -/
def leafFault (pte : DWord) (user : Bool) (k : AccessKind) : Option (TrapKind × Byte) :=
  let p := pte.toNat
  if user && !p.testBit 4 then some (.pagePerm, 0x04)
  else match k with
    | .read => if p.testBit 1 then none else some (.pagePerm, 0x01)
    | .write => if p.testBit 2 then none else some (.pagePerm, 0x02)
    | .atomic => if p.testBit 1 && p.testBit 2 then none else some (.pagePerm, 0x02)
    | .fetch => if p.testBit 3 then none else some (.pagePerm, 0x03)

/-- A leaf with A set, and D for a write. -/
def leafMarked (pte : DWord) (k : AccessKind) : DWord := pte ||| (if k.writes then 0xC0 else 0x40)

/-- The held translation of an address, if it serves the access as it stands (R154). -/
def tlbHit? (s : State) (a : Accessor) (va : Nat) (k : AccessKind) : Option TlbEntry :=
  s.tlb.find? fun e =>
    e.vpn == va / 2 ^ (12 + 9 * e.level) && (e.asid == a.asid || e.pte.getLsbD 5) &&
      leafMarked e.pte k == e.pte && (leafFault e.pte a.user k).isNone

/-- A translation held, in the place of an older one of the same page. -/
def tlbPut (s : State) (e : TlbEntry) : State :=
  { s with tlb := e :: s.tlb.filter fun o =>
      !(o.core == e.core && o.asid == e.asid && o.vpn == e.vpn && o.level == e.level) }

/-- What Translate answers: the target; the trap; or none where the walk waits for a page in a change, so that the access waits
too (R210). -/
abbrev Translated := Except (Option Trap) Target

/-- Translation by the tables: the held translation may be used where it differs from a fresh walk's. -/
def translateMapped (s : State) (a : Accessor) (va : DWord) (k : AccessKind) : Translated × State :=
  let v := va.toNat
  let np (sub : Byte) : Option Trap := some { kind := .pageNp, sub, addr := va }
  let fresh : Except (Option Trap) (Target × DWord × Nat × Nat) :=
    match s.walk a.ptroot v with
    | .wait => .error none
    | .fault sub => .error (np sub)
    | .leaf pte at_ level =>
      match s.leafTarget? a.ptroot pte level v with
      | none => .error (np 0x05)
      | some t =>
        match leafFault pte a.user k with
        | some (kind, sub) => .error (some { kind, sub, addr := va })
        | none => .ok (t, pte, at_, level)
  let viaWalk (s : State) : Translated × State :=
    match fresh with
    | .error t => (.error t, s)
    | .ok (t, pte, at_, level) =>
      let new := leafMarked pte k
      let s := if new = pte then s else s.storeHome at_ (leBytes 8 new.toNat) 0
      (.ok t, s.tlbPut { core := a.core, asid := a.asid, ptroot := a.ptroot, vpn := v / 2 ^ (12 + 9 * level)
                         level, pte := new, page := t })
  match s.tlbHit? a v k with
  | none => viaWalk s
  | some e =>
    let same := match fresh with
      | .ok (_, pte, _, level) => pte == e.pte && level == e.level
      | .error _ => false
    if same then viaWalk s
    else
      let s' := { s with free := s.free + 1 }
      if Config.tlbUse s.free then
        match s.leafTarget? e.ptroot e.pte e.level v with
        | some t => (.ok t, s')
        | none => (.error (np 0x05), s')
      else viaWalk s'

/-- A device physical address used as it stands, with translation off or in the Caster's own window (R152, R313). -/
def physical (s : State) (va : DWord) : Translated :=
  let fault : Option Trap := some { kind := .pageNp, sub := 0x05, addr := va }
  if 2 ^ 56 ≤ va.toNat then .error fault
  else match s.targetOf? va.toNat with
    | some t => .ok t
    | none => .error fault

/-- Translate(va, access) (R151, R152, R313). -/
def translate (s : State) (a : Accessor) (va : DWord) (k : AccessKind) : Translated × State :=
  let v := va.toNat
  let tm := bits a.ptroot.toNat 62 2
  let own := a.window.any fun w => w ≤ v && v < w + windowBytes
  if own then (s.physical va, s)
  else if tm = 3 || (tm = 0 && a.user) then (.error (some { kind := .pageNp, sub := 0x04, addr := va }), s)
  else if tm = 0 then (s.physical va, s)
  else if bits v 57 7 != (if v.testBit 56 then 127 else 0) then 
    (.error (some { kind := .pageNp, sub := 0x02, addr := va }), s)
  else (s.afterChange (s.walkReads a.ptroot v 5 (bits a.ptroot.toNat 0 44 * 4096))).translateMapped a va k

/-! ## Pages of key slots (R299) -/

/-- The key slot in State, by number. -/
def keySlot (s : State) (k : Nat) : KeySlot :=
  (s.keys.find? fun e => e.slot == k).getD { slot := k, key := none, staged := none, ctr := 0, window := [], last := none }

/-- The key slot replaced. -/
def putKeySlot (s : State) (k : KeySlot) : State := { s with keys := k :: s.keys.filter fun e => e.slot != k.slot }

/-- The KEY check of a physical target for an accessor acting with key slot `kslot`. -/
def keyFault (s : State) (kslot : Byte) (va : DWord) (t : Target) : Option Trap :=
  match t with
  | .mem pa =>
    let k := if pa < hostBase then s.pageSlot (pa / 4096) else 0
    if k = 0 then none
    else if k ≠ kslot then some { kind := .key, sub := 0x01, addr := va }
    else if (s.keySlot k.toNat).key.isNone then some { kind := .key, sub := 0x02, addr := va }
    else none
  | _ => none

/-! ## Step 7 of R175 -/

/-- Whether a destination's allowance word shows UNREACH. -/
def unreach (s : State) (dev : Nat) : Bool := (s.dests[dev]?.map Dest.unreach).getD true

/-- The target checks of an access of `size` bytes: `atom` for `atom`, `cas`, `red` and the synchronisation roots. -/
def targetFault (s : State) (a : Accessor) (va : DWord) (size : Nat) (atom : Bool) (t : Target) : Option Trap :=
  match t with
  | .mmio _ =>
    if size != 4 && size != 8 then some { kind := .align, sub := 0x02, addr := va }
    else if atom then some { kind := .align, sub := 0x03, addr := va }
    else none
  | .peer d _ =>
    if !s.part.fab then some { kind := .unitAbsent, sub := 0, addr := va }
    else if s.unreach d then some { kind := .unreach, sub := BitVec.ofNat 8 d, addr := va }
    else none
  | t => s.keyFault a.kslot va t

end State

end Sys2Proof.Machine
end

