-- ==== Sys2Proof/Machine/Launch.lean ====
section
/-!
DEFINITION. Launch queues, launch records, dependences, Runners, task placement and completion
(spec/13_launch_runners.md R230 to R248, R385), the grant of R218, and the health events of R364.
-/

namespace Sys2Proof.Machine

/-- A bit at its place. -/
def boolBit (b : Bool) (n : Nat) : Nat := if b then 2 ^ n else 0

/-- BOOTSTAT (R379). -/
def State.bootstat (s : State) : DWord :=
  BitVec.ofNat 64 (boolBit s.health.rr 63 + boolBit s.therm 62 + s.failCode % 16 * 256 + s.stage % 16)

/-! ## Health events (R364) -/

/-- The HEVT value of an event. -/
def hevtValue (e : HealthEvent) (lost : Nat) : DWord :=
  BitVec.ofNat 64 (2 ^ 63 + e.kind % 128 * 2 ^ 56 + min lost 255 * 2 ^ 48 + e.arg % 2 ^ 48)

/-- An event queued for the driver; a full queue of 256 drops it. -/
def State.healthEvent (s : State) (kind arg : Nat) : State :=
  if s.health.events.length < 256 then
    let e : HealthEvent := { kind, arg }
    let s := { s with health := { s.health with events := s.health.events ++ [e] } }
    if s.regs.hmsg = 0 then s else s.send (.hostWrite s.regs.hmsg (hevtValue e s.health.lost) 8)
  else { s with health := { s.health with lost := s.health.lost + 1 } }

/-- REPLACE_REQUESTED set (R363). -/
def State.replaceRequested (s : State) : State :=
  if s.health.rr then s else { s with health := { s.health with rr := true } }.healthEvent 7 0

/-! ## Capacity of a core (R8, R239) -/

def corePlaces : Nat := 32
def coreThreads : Nat := 1024
def coreScratch : Nat := 2 ^ 20
def coreSlots : Nat := 256

/-- A size rounded up to whole KiB. -/
def kib (n : Nat) : Nat := (n + 1023) / 1024 * 1024

namespace Core

def freePlace? (c : Core) : Option Nat := (List.range corePlaces).find? fun p => (c.task? p).isNone

/-- The bases, multiples of 1 KiB, at which the scratchpad has a free region of this size (R142, R239). -/
def freeBases (c : Core) (scratch : Nat) : List Nat :=
  ((List.range (coreScratch / 1024)).map (1024 * ·)).filter fun b => b + kib scratch ≤ coreScratch &&
    c.tasks.all fun p => b + kib scratch ≤ p.2.base || p.2.base + kib p.2.scratch ≤ b

/-- The base a new task gets: one of the free ones, which the spec leaves open (notes/assumptions/32.md). -/
def baseFor (c : Core) (scratch k : Nat) : Nat :=
  let bs := c.freeBases scratch
  bs.getD (Config.regionPick k % bs.length) 0

/-- Whether a task of this size fits (R239). -/
def fits (c : Core) (threads scratch slots : Nat) : Bool :=
  let ts := c.tasks.map Prod.snd
  let sum (f : Task → Nat) := (ts.map f).foldl (· + ·) 0
  c.freePlace?.isSome && sum (fun t => t.threads.length) + threads ≤ coreThreads &&
    (scratch == 0 || !(c.freeBases scratch).isEmpty) && sum Task.accslots + slots ≤ coreSlots

/-- Whether the bays in service hold a group of width `w` (R218). -/
def baysHold (c : Core) (w : Nat) : Bool :=
  let b (n : Nat) := c.bays.contains n
  if w ≤ 32 then !c.bays.isEmpty
  else if w = 64 then (b 0 && b 1) || (b 2 && b 3)
  else b 0 && b 1 && b 2 && b 3

end Core

/-- The grant of R218 for a requested width. -/
def grantFor (p : Part) (c : Core) (width : Nat) : Nat :=
  ([8, 16, 32, 64, 128].filter fun w => w ≤ width && w ≤ p.maxWidth && c.baysHold w).getLastD 0

/-! ## The launch record (R234) -/

/-- Word i of a record. -/
def recWord (bs : List Byte) (i : Nat) : Nat := leNat ((bs.drop (8 * i)).take 8)

/-- The fields of a record of 128 bytes. -/
def parseRec (bs : List Byte) : LaunchRec :=
  let w := recWord bs
  { prio := bits (w 0) 8 2, irq := (w 0).testBit 16, nosplit := (w 0).testBit 17
    lid := BitVec.ofNat 32 (bits (w 0) 32 32), entry := BitVec.ofNat 64 (w 1)
    x0 := bits (w 3) 0 4, y0 := bits (w 3) 4 4, logw := bits (w 3) 8 3, logh := bits (w 3) 11 3
    clw := bits (w 3) 14 3, clh := bits (w 3) 17 3, threads := bits (w 3) 32 16, logwid := bits (w 3) 48 3
    scratch := bits (w 4) 0 32, accslots := bits (w 4) 32 9
    ext := (bits (w 5) 0 21, bits (w 5) 21 21, bits (w 5) 42 21)
    ts := (bits (w 6) 0 16, bits (w 6) 16 16, bits (w 6) 32 16), order := bits (w 6) 48 3
    pred := bits (w 7) 0 32, nsucc := bits (w 7) 32 16, succptr := BitVec.ofNat 64 (w 8)
    completion := BitVec.ofNat 64 (w 9), nrun := bits (w 10) 0 32, runptr := w 11
    nshell := bits (w 12) 0 32, shcap := bits (w 12) 32 32, shellptr := w 13 }

/-- ⌈a / b⌉. -/
def ceilDiv (a b : Nat) : Nat := (a + b - 1) / b

/-- The tile counts n0, n1, n2 (R240). -/
def LaunchRec.counts (r : LaunchRec) : Nat × Nat × Nat :=
  (ceilDiv r.ext.1 r.ts.1, ceilDiv r.ext.2.1 r.ts.2.1, ceilDiv r.ext.2.2 r.ts.2.2)

/-- N (R240). -/
def LaunchRec.total (r : LaunchRec) : Nat := r.counts.1 * r.counts.2.1 * r.counts.2.2

/-- Cores of a cluster, C (R241). -/
def LaunchRec.clusterCores (r : LaunchRec) : Nat := 2 ^ (r.clw + r.clh)

/-- The lowest sub-kind of the checks made at consumption or by `launch` (R234). -/
def recFault (p : Part) (bs : List Byte) : Option Byte :=
  let w := recWord bs
  let r := parseRec bs
  if bits (w 0) 0 8 != 1 || 4 ≤ r.order then some 0x01
  else if bits (w 0) 10 6 != 0 || bits (w 0) 18 14 != 0 || bits (w 3) 20 12 != 0 || bits (w 3) 51 13 != 0 ||
      bits (w 4) 41 23 != 0 || (w 5).testBit 63 || bits (w 6) 51 13 != 0 || bits (w 7) 48 16 != 0 ||
      bits (w 10) 32 32 != 0 || w 14 != 0 || w 15 != 0 then some 0x02
  else if 4 < r.logw || 4 < r.logh || r.x0 % 2 ^ r.logw != 0 || r.y0 % 2 ^ r.logh != 0 ||
      p.rows < r.y0 + 2 ^ r.logh then some 0x03
  else if 2 < r.clw || 2 < r.clh || r.logw < r.clw || r.logh < r.clh then some 0x04
  else if r.threads = 0 || 1024 < r.threads || r.logwid < 3 then some 0x05
  else if r.scratch % 16 != 0 || 2 ^ 20 < r.scratch || 256 < r.accslots then some 0x06
  else if r.ext.1 = 0 || r.ext.2.1 = 0 || r.ext.2.2 = 0 || r.ts.1 = 0 || r.ts.2.1 = 0 || r.ts.2.2 = 0 ||
      2 ^ 32 < r.total then some 0x07
  else if (0 < r.nsucc && r.succptr = 0) || r.completion.toNat % 8 != 0 then some 0x08
  else none

/-! ## Tile coordinates (R240) -/

/-- Clip(o, s, n). -/
def clipTiles (o s n : Nat) : Nat := min (o + s) n - o

/-- One level of Morton order: the square of the four that holds index `j`. -/
def mortonPick (n0 n1 x y half j : Nat) : List Nat → Nat × Nat × Nat
  | [] => (x, y, j)
  | q :: qs =>
    let qx := x + q % 2 * half
    let qy := y + q / 2 * half
    let cnt := clipTiles qx half n0 * clipTiles qy half n1
    if j < cnt then (qx, qy, j) else mortonPick n0 n1 x y half (j - cnt) qs

/-- Morton order from a square of side 2^b down. -/
def morton (n0 n1 : Nat) : Nat → Nat → Nat → Nat → Nat × Nat
  | 0, x, y, _ => (x, y)
  | b + 1, x, y, j =>
    let (x, y, j) := mortonPick n0 n1 x y (2 ^ b) j [0, 1, 2, 3]
    morton n0 n1 b x y j

/-- The smallest m with 2^m at least n. -/
def log2Up (n : Nat) : Nat := if n ≤ 1 then 0 else (n - 1).log2 + 1

/-- The coordinate of a tile index. -/
def LaunchRec.coord (r : LaunchRec) (i : Nat) : Nat × Nat × Nat :=
  let (n0, n1, _) := r.counts
  let plane := n0 * n1
  match r.order with
  | 0 => (i % n0, i / n0 % n1, i / plane)
  | 1 => (i / n1 % n0, i % n1, i / plane)
  | 2 =>
    let (x, y) := morton n0 n1 (log2Up (max n0 n1)) 0 0 (i % plane)
    (x, y, i / plane)
  | _ =>
    let row := i / n0
    (if row % 2 = 1 then n0 - 1 - i % n0 else i % n0, row % n1, row / n1)

/-- Effective priority (R238). -/
def Launch.priority (l : Launch) : Nat := min 3 (l.desc.prio + l.age)

namespace State

/-! ## Accesses of the device for a launch (R385) -/

/-- The pages of `n` bytes from a physical address on, an address of each. -/
def pagesAt (pa n : Nat) : List Nat := (List.range ((pa % 4096 + n + 4095) / 4096)).map fun i => pa / 4096 * 4096 + 4096 * i

/-- Physical addresses of HBM that the device accesses for itself: a change of one of their pages completes first, or holds the
access (R209, R210, R299). -/
def devReach (s : State) (pa n : Nat) : State :=
  let s := s.afterChange (pagesAt pa n)
  { s with devWaits := s.devWaits || (pagesAt pa n).any s.pageBusy }

/-- Bytes read by the device for itself, and whether any is poisoned: each line's tag is checked (R300). -/
def devLoad (s : State) (pa n : Nat) : List Byte × Bool × State :=
  let s := s.devReach pa n
  let s := (List.range ((pa % 64 + n + 63) / 64)).foldl (fun s i => s.verify (lineOf pa + 64 * i)) s
  let (bs, p) := s.readHomeBytes pa n
  (bs, p, s)

/-- Bytes written by the device for itself. -/
def devStore (s : State) (pa : Nat) (bs : List Byte) : State := (s.devReach pa bs.length).storeHomeBytes pa bs false

/-- `n` words of 8 bytes read by the device for itself. Lists of physical addresses and Runners are taken as they stand
(notes/assumptions/126.md). -/
def devWords (s : State) (pa n : Nat) : List Nat × State :=
  let (bs, _, s) := s.devLoad pa (8 * n)
  ((List.range n).map (recWord bs), s)

/-- Translation for the device: the physical address, if the access faults in no way. A change of the page that holds the
access completes first; a flip to device bias holds the event. -/
def devTranslate (s : State) (a : Accessor) (va : DWord) (k : AccessKind) : Option Nat × State :=
  match s.translate a va k with
  | (.ok (.mem pa), s) =>
    let s := s.devReach pa 1
    (if (s.keyFault a.kslot va (.mem pa)).isSome then none else some pa, s)
  | (.error none, s) => (none, { s with devWaits := true })
  | (_, s) => (none, s)

/-- What an event of the device leaves: nothing, where an access it made is held. -/
def orHeld (s t : State) : State := if t.devWaits then s else t

/-- Bytes of one page read for a launch; none where the access faults. Data that arrives poisoned counts as a fault of the
access (notes/assumptions/126.md). -/
def devReadPage (s : State) (a : Accessor) (va : DWord) (n : Nat) : Option (List Byte) × State :=
  match s.devTranslate a va .read with
  | (none, s) => (none, s)
  | (some pa, s) =>
    let (bs, pois, s) := s.devLoad pa n
    (if pois then none else some bs, s)

/-- Bytes read for a launch, each part in its own page: `n` is at most a page. -/
def devRead (s : State) (a : Accessor) (va : DWord) (n : Nat) : Option (List Byte) × State :=
  let here := min n (4096 - va.toNat % 4096)
  match s.devReadPage a va here with
  | (none, s) => (none, s)
  | (some bs, s) =>
    if here = n then (some bs, s)
    else match s.devReadPage a (va + BitVec.ofNat 64 here) (n - here) with
      | (none, s) => (none, s)
      | (some bs', s) => (some (bs ++ bs'), s)

/-- Bytes of one page written for a launch. -/
def devWrite (s : State) (a : Accessor) (va : DWord) (bs : List Byte) : Bool × State :=
  match s.devTranslate a va .write with
  | (some pa, s) => (true, s.storeHomeBytes pa bs false)
  | (none, s) => (false, s)

/-- A context-table entry (R292). -/
def ctxWord (s : State) (n i : Nat) : Nat := s.ctxTable.nat (32 * n + 8 * i) 8

def ctxValid (s : State) (n : Nat) : Bool := (s.ctxWord n 0).testBit 63

/-- The values a task takes from its context-table entry. -/
def context (s : State) (n : Nat) : Context :=
  { ctxn := n, kslot := BitVec.ofNat 8 (bits (s.ctxWord n 0) 16 8), asid := BitVec.ofNat 16 (s.ctxWord n 0)
    ptroot := BitVec.ofNat 64 (s.ctxWord n 1), callring := BitVec.ofNat 64 (s.ctxWord n 2)
    sigvec := BitVec.ofNat 64 (s.ctxWord n 3) }

/-- The accessor of a launch. -/
def launchAccessor (l : Launch) : Accessor := contextAccessor 0 l.asid l.ptroot l.kslot

def launch? (s : State) (no : Nat) : Option Launch := s.launches.find? fun l => l.no == no

def modLaunch (s : State) (no : Nat) (f : Launch → Launch) : State :=
  { s with launches := s.launches.map fun l => if l.no == no then f l else l }

def dropLaunch (s : State) (no : Nat) : State := { s with launches := s.launches.filter fun l => l.no != no }

/-! ## Dependences and completion (R235 to R237) -/

/-- ARG of a health event of KIND 9 (R364). -/
def completionArg (lid : Word) (step index : Nat) : Nat := lid.toNat + step * 2 ^ 32 + min index 16383 * 2 ^ 34

/-- The completion word of a launch written with a status and sub-kind (R236, R239); a fault is reported (R237). -/
def writeCompletion (s : State) (a : Accessor) (r : LaunchRec) (status sub : Nat) : State :=
  if r.completion = 0 || r.completion.toNat % 8 != 0 then s
  else
    let (ok, s) := s.devWrite a r.completion (leBytes 8 (status + sub * 256 + r.lid.toNat * 2 ^ 32))
    if ok then s else s.healthEvent 9 (completionArg r.lid 1 0)

/-- A submitted launch becomes ready (R235). -/
def makeReady (s : State) (no : Nat) : State :=
  { s.modLaunch no fun l => { l with state := .ready, order := s.launchNo, age := 0 } with launchNo := s.launchNo + 1 }

/-- PRED of a successor's record decremented at its home (R235); false where the word is poisoned, which is a fault. -/
def decrement (s : State) (pa : Nat) : Bool × State :=
  let (bs, pois, s) := s.devLoad (pa + 56) 4
  let p := leNat bs
  if pois then (false, s)
  else if p = 0 then (true, s)
  else
    let s := s.devStore (pa + 56) (leBytes 4 (p - 1))
    (true, if p = 1 then
      match s.launches.find? fun l => l.pa == pa && l.state == .submitted with
      | some l => s.makeReady l.no
      | none => s
    else s)

/-- The successors of a launch, in list order (R236 step 3, R237), each decremented. -/
def decrementAll (s : State) (a : Accessor) (r : LaunchRec) : Nat → Nat → State
  | 0, _ => s
  | n + 1, i =>
    match s.devRead a (r.succptr + BitVec.ofNat 64 (8 * i)) 8 with
    | (none, s) => s.healthEvent 9 (completionArg r.lid 2 0)
    | (some bs, s) =>
      let va : DWord := BitVec.ofNat 64 (leNat bs)
      let (ok, s) := match s.devTranslate a (va + 56) .atomic with
        | (none, s) => (false, s)
        | (some pa, s) => s.decrement (pa - 56)
      (if ok then s else s.healthEvent 9 (completionArg r.lid 3 i)).decrementAll a r n (i + 1)

/-- The successors of a failed launch aborted, and theirs in turn (R236): `work` holds the addresses of lists still
to be gone through, each with the context of its launch and the entry it has come to; each is an aborted or failed
launch's. An aborted record that was submitted is handled in the context of its own submission (R385) and kept as aborted, so
that another list that names it finds it done. One that was not submitted yet is handled in that of the launch that failed
and kept, so that its submission is ignored (notes/assumptions/10.md). -/
def abortAll (s : State) : Nat → List (Accessor × LaunchRec × Nat) → State
  | 0, _ | _, [] => s
  | fuel + 1, (a, r, i) :: work =>
    if r.nsucc ≤ i then s.abortAll fuel work
    else
      match s.devRead a (r.succptr + BitVec.ofNat 64 (8 * i)) 8 with
      | (none, s) => (s.healthEvent 9 (completionArg r.lid 2 0)).abortAll fuel work
      | (some bs, s) =>
        let va : DWord := BitVec.ofNat 64 (leNat bs)
        let (rec, s) : Option (Nat × List Byte) × State := match s.devTranslate a (va + 56) .atomic with
          | (none, s) => (none, s)
          | (some p, s) =>
            let (bs, pois, s) := s.devLoad (p - 56) 128
            (if pois then none else some (p - 56, bs), s)
        match rec with
        | none => (s.healthEvent 9 (completionArg r.lid 3 i)).abortAll fuel ((a, r, i + 1) :: work)
        | some (pa, bs) =>
          let q := parseRec bs
          match s.launches.find? fun l => l.pa == pa with
          | some l =>
            if l.state == .submitted then
              let own := launchAccessor l
              ((s.writeCompletion own q 3 0).modLaunch l.no fun l => { l with state := .aborted }).abortAll fuel
                ((own, q, 0) :: (a, r, i + 1) :: work)
            else s.abortAll fuel ((a, r, i + 1) :: work)
          | none =>
            let s := s.writeCompletion a q 3 0
            let l : Launch :=
              { no := s.launchNo, pa, va, ctxn := 0, asid := a.asid, ptroot := a.ptroot, kslot := a.kslot
                queue := none, desc := q, state := .failed, age := 0, order := 0, runners := [], live := 0
                shells := [], frozen := false }
            let s := { s with launches := s.launches ++ [l], launchNo := s.launchNo + 1 }
            s.abortAll fuel ((a, q, 0) :: (a, r, i + 1) :: work)

/-- Status 0x02 for a launch that fails a check, and its successors aborted (R234, R236). -/
def failLaunch (s : State) (a : Accessor) (r : LaunchRec) (sub : Nat) : State :=
  (s.writeCompletion a r 2 sub).abortAll (2 ^ 24) [(a, r, 0)]

/-- The interrupt of a queue's launch (R231). -/
def queueIrq (s : State) (q : Nat) : State :=
  let w := fun i => s.queueTable.nat (32 * q + 8 * i) 8
  if (w 0).testBit 63 && w 2 != 0 then
    s.send (.hostWrite (BitVec.ofNat 64 (w 2)) (BitVec.ofNat 64 (bits (w 3) 0 32)) 4)
  else s

/-- The steps of R236 when the last task of a launch has retired. -/
def completeLaunch (s : State) (l : Launch) : State :=
  let a := launchAccessor l
  let s := s.dropLaunch l.no
  let s := s.writeCompletion a l.desc 1 0
  let s := match l.queue with
    | some q => if l.desc.irq then s.queueIrq q else s
    | none => s
  s.decrementAll a l.desc l.desc.nsucc 0

/-- Whether every task of a dispatched launch has retired: none is left on a core or saved, nor a Runner, nor a shell; then it
completes. -/
def launchDone (s : State) (no : Nat) : State :=
  match s.launch? no with
  | some l =>
    if l.state == .dispatched && l.live = 0 && l.runners.isEmpty && l.shells.isEmpty && l.saved.isEmpty
    then s.completeLaunch l else s
  | none => s

/-! ## Submission (R230, R233, R235) -/

/-- A record submitted in a context. A resumption takes the context of its own submission (R385). -/
def submit (s : State) (a : Accessor) (ctxn : Nat) (queue : Option Nat) (va : DWord) (pa : Nat) (bs : List Byte) : State :=
  let r := parseRec bs
  let s : State := { s with launches := s.launches.filter fun l => !(l.pa == pa && l.state == .aborted) }
  match s.launches.find? fun l => l.pa == pa with
  | some l =>
    if l.state == .failed then s.modLaunch l.no fun l => { l with state := .aborted }
    else if l.state == .suspended then
      match recFault s.part bs with
      | some sub => (s.dropLaunch l.no).failLaunch a r sub.toNat
      | none =>
        (s.modLaunch l.no fun l =>
          { l with va, ctxn, asid := a.asid, ptroot := a.ptroot, kslot := a.kslot, queue, desc := r }).makeReady l.no
    else s
  | none =>
    match recFault s.part bs with
    | some sub => s.failLaunch a r sub.toNat
    | none =>
      let no := s.launchNo
      let l : Launch :=
        { no, pa, va, ctxn, asid := a.asid, ptroot := a.ptroot, kslot := a.kslot, queue, desc := r
          state := .submitted, age := 0, order := 0, runners := [], live := 0, shells := [], frozen := false }
      let s := { s with launches := s.launches ++ [l], launchNo := no + 1 }
      if r.pred = 0 then s.makeReady no else s

/-- ARG of a health event of KIND 10 (R364). -/
def queueArg (q step idx : Nat) : Nat := q + step * 2 ^ 10 + idx % 2 ^ 16 * 2 ^ 12

/-- A record read at its consumption, with its physical address: PRED too must be within reach, for an atomic (R385). -/
def readRecord (s : State) (a : Accessor) (va : DWord) : Option (Nat × List Byte) × State :=
  match s.devTranslate a (va + 56) .atomic with
  | (none, s) => (none, s)
  | (some p, s) =>
    let (bs, s) := s.devRead a va 128
    (bs.map fun bs => (p - 56, bs), s)

/-- The entries of a queue consumed from HEAD on, `n` of them (R230). -/
def consume (s : State) (a : Accessor) (q ctxn : Nat) (desc ring : DWord) (logcap : Nat) : Nat → Nat → State
  | 0, _ => s
  | n + 1, head =>
    let slot := head % 2 ^ logcap
    match s.devRead a (ring + BitVec.ofNat 64 (8 * slot)) 8 with
    | (none, s) => s.healthEvent 10 (queueArg q 2 slot)
    | (some bs, s) =>
      let va : DWord := BitVec.ofNat 64 (leNat bs)
      let (_, s) := s.devWrite a (desc + 24) (leBytes 4 ((head + 1) % 2 ^ 32))
      let s :=
        if va.toNat % 128 != 0 then s.healthEvent 10 (queueArg q 3 slot)
        else match s.readRecord a va with
          | (none, s) => s.healthEvent 10 (queueArg q 3 slot)
          | (some (pa, bs), s) => s.submit a ctxn (some q) va pa bs
      s.consume a q ctxn desc ring logcap n (head + 1)

/-- A doorbell write of a queue (R230, R231); queues are consumed from boot stage 7 on (R378), and not by a device
that has failed (R356). -/
def doorbell (s : State) (q : Nat) : State :=
  let w := fun i => s.queueTable.nat (32 * q + 8 * i) 8
  let desc : DWord := BitVec.ofNat 64 (w 1)
  if s.stage != 7 || s.health.failed || 1024 ≤ q || !(w 0).testBit 63 || bits (w 0) 10 53 != 0 ||
      bits (w 3) 32 32 != 0 || desc.toNat % 64 != 0 then s
  else
    let ctxn := bits (w 0) 0 10
    let ctx := s.context ctxn
    let a := contextAccessor 0 ctx.asid ctx.ptroot ctx.kslot
    match s.devRead a desc 64 with
    | (none, s) => s.healthEvent 10 (queueArg q 1 0)
    | (some bs, s) =>
      let d := recWord bs
      if bits (d 0) 0 8 != 2 || bits (d 0) 13 51 != 0 || bits (d 0) 8 5 = 0 || 16 < bits (d 0) 8 5 ||
          bits (d 2) 32 32 != 0 || bits (d 3) 32 32 != 0 || d 4 != 0 || d 5 != 0 || d 6 != 0 || d 7 != 0 then s
      else
        match s.devTranslate a (desc + 24) .write with
        | (none, s) => s.healthEvent 10 (queueArg q 1 0)
        | (some _, s) =>
          let head := bits (d 3) 0 32
          s.consume a q ctxn desc (BitVec.ofNat 64 (d 1)) (bits (d 0) 8 5) ((bits (d 2) 0 32 + 2 ^ 32 - head) % 2 ^ 32) head

/-- A doorbell served, or held until the flip that holds its accesses is complete (R210). -/
def ringBell (s : State) (q : Nat) : State :=
  let t := s.doorbell q
  if t.devWaits then { s with hostWaits := s.hostWaits ++ [.bell q] } else t

/-- The doorbells that were held served again. -/
def serveBells (s : State) : State :=
  let isBell : HostReq → Bool
    | .bell _ => true
    | _ => false
  s.hostWaits.foldl (fun s q => match q with
    | .bell q => s.ringBell q
    | _ => s) { s with hostWaits := s.hostWaits.filter fun q => !isBell q }

/-! ## Dispatch of a launch (R238, R241, R248) -/

/-- The launch that goes first of a list: highest effective priority, then earliest. -/
def firstLaunch (ls : List Launch) : Option Launch :=
  ls.foldl (fun best l => match best with
    | none => some l
    | some b => if b.priority < l.priority || (b.priority == l.priority && l.order < b.order) then some l else best) none

/-- Whether a core takes new tasks. -/
def dispatchable (s : State) (n : Nat) : Bool :=
  ((s.core? n).map fun c => c.service == .running && !c.bays.isEmpty).getD false

/-- The pieces of a launch: origin cores in increasing number (R241). -/
def pieces (s : State) (r : LaunchRec) : List Nat :=
  (List.range s.part.cores).filter fun n =>
    let x := n % 16
    let y := n / 16
    r.x0 ≤ x && x < r.x0 + 2 ^ r.logw && r.y0 ≤ y && y < r.y0 + 2 ^ r.logh &&
      (x - r.x0) % 2 ^ r.clw == 0 && (y - r.y0) % 2 ^ r.clh == 0 &&
      (List.range r.clusterCores).all fun k => s.dispatchable (n + k % 2 ^ r.clw + 16 * (k / 2 ^ r.clw))

/-- The Runners of a fresh launch over its pieces (R241), the empty ones freed. -/
def freshRunners (r : LaunchRec) (ps : List Nat) (made : Nat) : List Runner :=
  let c := r.clusterCores
  let units := ceilDiv r.total c
  (ps.zipIdx.map fun (o, k) =>
    { lo := c * (k * units / ps.length), hi := min r.total (c * ((k + 1) * units / ps.length)), owner := o, made := made + k }
    : List Runner).filter fun q => q.lo < q.hi

/-- The saved Runners of a resumed launch (R248 step 3). -/
def savedRunners (s : State) (r : LaunchRec) (ps : List Nat) (made : Nat) : List Runner × State :=
  let (ws, s) := s.devWords r.runptr (2 * r.nrun)
  (((List.range r.nrun).map fun j =>
    { lo := ws.getD (2 * j) 0, hi := ws.getD (2 * j + 1) 0, owner := ps.getD (j % ps.length) 0, made := made + j }
    : List Runner).filter fun q => q.lo < q.hi, s)

/-- The shells of a resumed launch placed on cores (R248 step 2): shell address and receiving core. The unit of a
cluster is found from TILE in the shell's header. -/
def placeShells (s : State) (r : LaunchRec) (ps : List Nat) : List (Nat × Nat) × State :=
  let (shells, s) := s.devWords r.shellptr r.nshell
  let c := r.clusterCores
  if c = 1 then (shells.zipIdx.map fun (pa, i) => (pa, ps.getD (i % ps.length) 0), s)
  else
    let (tiled, s) := shells.foldl (fun (l, s) pa =>
      let (bs, _, s) := State.devLoad s (pa + 0x2C) 4
      (l ++ [(pa, leNat bs)], s)) (([] : List (Nat × Nat)), s)
    let units := (tiled.map fun x => x.2 / c).eraseDups
    (tiled.map fun (pa, tile) =>
      let k := tile % c
      (pa, ps.getD (units.idxOf (tile / c) % ps.length) 0 + k % 2 ^ r.clw + 16 * (k / 2 ^ r.clw)), s)

/-- Runners in the table of 4,096. -/
def runnerCount (s : State) : Nat := (s.launches.map fun l => l.runners.length).foldl (· + ·) 0

/-- NRUN and NSHELL become 0 in a record (R248 step 4). -/
def shellsGone (s : State) (pa : Nat) : State :=
  (s.devStore (pa + 80) (leBytes 4 0)).devStore (pa + 96) (leBytes 4 0)

/-- The first ready launch dispatched, if it is number `no` and its Runners fit (R238). -/
def dispatchLaunch (s : State) (no : Nat) : State :=
  match firstLaunch (s.launches.filter fun l => l.state == .ready) with
  | none => s
  | some l =>
    if l.no != no || s.stage != 7 then s
    else
      let r := l.desc
      let ps := s.pieces r
      if ps.isEmpty then (s.dropLaunch no).failLaunch (launchAccessor l) r 0x09
      else if !s.ctxValid l.ctxn then (s.dropLaunch no).failLaunch (launchAccessor l) r 0x0B
      else
        let resumed := r.nrun != 0 || r.nshell != 0
        let n := if resumed then r.nrun else ps.length
        if 4096 < s.runnerCount + n then s
        else
          let (runners, s) := if resumed then s.savedRunners r ps s.launchNo else (freshRunners r ps s.launchNo, s)
          let (shells, s) := if resumed then s.placeShells r ps else ([], s)
          let s := { s with launchNo := s.launchNo + n + 1 }
          let s := s.modLaunch no fun l =>
            { l with state := .dispatched, runners, shells, order := s.launchNo, age := 0, frozen := false }
          let s := if resumed && shells.isEmpty then s.shellsGone l.pa else s
          { s with cores := s.cores.zipIdx.map fun (c, k) =>
              { c with reqs := c.reqs ++ (shells.filter fun p => p.2 == k).map fun p => CasterReq.place p.1 no } }

/-- A shell of a launch loaded, that of the task of a tile: when the last one is, NRUN and NSHELL become 0 in the record (R248
step 4). -/
def shellLoaded (s : State) (no pa tile : Nat) : State :=
  match s.launch? no with
  | none => s
  | some l =>
    let shells := l.shells.filter fun p => p.1 != pa
    let s := s.modLaunch no fun l => { l with shells, live := l.live + 1, saved := l.saved.erase tile }
    if shells.isEmpty && !l.shells.isEmpty then s.shellsGone l.pa else s

/-! ## Tasks (R239, R243, R244) -/

/-- Whether the footprint of a launch includes a core. -/
def inFootprint (r : LaunchRec) (n : Nat) : Bool :=
  r.x0 ≤ n % 16 && n % 16 < r.x0 + 2 ^ r.logw && r.y0 ≤ n / 16 && n / 16 < r.y0 + 2 ^ r.logh

/-- The origin core of the cluster position that holds a core. -/
def originOf (r : LaunchRec) (n : Nat) : Nat :=
  n % 16 - (n % 16 - r.x0) % 2 ^ r.clw + 16 * (n / 16 - (n / 16 - r.y0) % 2 ^ r.clh)

/-- The cores of a cluster position, by peer number (R147). -/
def positionCores (r : LaunchRec) (o : Nat) : List Nat :=
  (List.range r.clusterCores).map fun k => o + k % 2 ^ r.clw + 16 * (k / 2 ^ r.clw)

/-- A take by an owner (R243): its indices and the Runners after. -/
def takeFrom (r : LaunchRec) (rs : List Runner) (q : Runner) : Nat × Nat × List Runner :=
  let hi := min q.hi (q.lo + r.clusterCores)
  (q.lo, hi, (rs.map fun x => if x.made = q.made then { x with lo := hi } else x).filter fun x => x.lo < x.hi)

/-- The indices an owner gets from a launch: from its own earliest Runner, or by a split (R243, R244). The answer
holds the range taken, the Runners after, and whether a number of creation was used. -/
def takeIndex (l : Launch) (owner room made : Nat) : Option (Nat × Nat × List Runner) :=
  let r := l.desc
  let c := r.clusterCores
  let own := l.runners.filter fun q => q.owner == owner
  match own.foldl (fun b q => match b with
      | none => some q
      | some x => if q.made < x.made then some q else b) (none : Option Runner) with
  | some q => some (takeFrom r l.runners q)
  | none =>
    if r.nosplit || room = 0 then none
    else
      match l.runners.foldl (fun b q => match b with
          | none => some q
          | some x => if x.hi - x.lo < q.hi - q.lo || (x.hi - x.lo = q.hi - q.lo && q.owner < x.owner)
              then some q else b) (none : Option Runner) with
      | none => none
      | some v =>
        if v.hi - v.lo < (if c = 1 then 2 else c + 1) then none
        else
          let cut := v.lo + c * ceilDiv (v.hi - v.lo) (2 * c)
          let new : Runner := { lo := cut, hi := v.hi, owner, made }
          some (takeFrom r ((l.runners.map fun x => if x.made = v.made then { x with hi := cut } else x) ++ [new]) new)

/-- A task of a launch at its start (R15, R16, R239). -/
def newTask (s : State) (c : Core) (l : Launch) (idx pick : Nat) (cluster : Option ClusterPos) : Task :=
  let r := l.desc
  let (c0, c1, c2) := r.coord idx
  { threads := List.replicate r.threads { Thread.create r.entry with starting := true }
    reqw := 2 ^ r.logwid, setw := none, grant := grantFor s.part c (2 ^ r.logwid), segw := 0, lid := r.lid
    coord := (BitVec.ofNat 32 c0, BitVec.ofNat 32 c1, BitVec.ofNat 32 c2), tile := idx, recpa := l.pa, launch := l.no
    ctx := s.context l.ctxn, scratch := r.scratch
    base := c.baseFor r.scratch pick, bytes := [], empties := [], spois := [], gwait := []
    accslots := r.accslots, accs := [], insts := [], arrived := [], ended := none, watch0 := {}, watch1 := {}
    cluster, planes := [], stopped := false }

/-- A task put into the lowest free place of a core, whose generation rises (R316). -/
def addTask (s : State) (n : Nat) (t : Task) : Option (Nat × State) :=
  match (s.core? n).bind Core.freePlace? with
  | none => none
  | some p =>
    some (p, s.modCore n fun c => { c with tasks := insertKey c.tasks p t
                                           gens := c.gens.modify p (· + 1) })

/-- The launch a core takes its next task from (R239): dispatched, not frozen, with no shell waiting for the piece,
which is wholly in service, and with an index for it. -/
def nextLaunch (s : State) (n : Nat) : Option (Launch × Nat × Nat × Nat × List Runner) :=
  let cands := s.launches.filterMap fun l =>
    if l.state == .dispatched && !l.frozen && inFootprint l.desc n then
      let o := originOf l.desc n
      if (l.shells.any fun p => originOf l.desc p.2 == o) || !(positionCores l.desc o).all s.dispatchable then none
      else (takeIndex l o (4096 - s.runnerCount) s.launchNo).map fun t => (l, o, t)
    else none
  match firstLaunch (cands.map Prod.fst) with
  | none => none
  | some l => cands.find? (fun x => x.1.no == l.no)

/-- The next task of a core, or of its cluster position, started if it fits: the threads that start (R239). -/
def dispatchTask (s : State) (n : Nat) : List (Nat × Nat) × State :=
  match s.nextLaunch n with
  | none => ([], s)
  | some (l, o, lo, hi, rs) =>
    let r := l.desc
    let cs := positionCores r o
    let fit (k : Nat) := s.dispatchable k &&
      ((s.core? k).map fun c => c.fits r.threads r.scratch r.accslots).getD false
    if s.stage != 7 || !s.ctxValid l.ctxn || !cs.all fit then ([], s)
    else
      let s := { s.modLaunch l.no fun l => { l with runners := rs, live := l.live + (hi - lo) } with
                 launchNo := s.launchNo + 1, free := s.free + (hi - lo) }
      (List.range (hi - lo)).foldl (fun (ts, s) k =>
        let core := cs.getD k n
        match s.core? core with
        | none => (ts, s)
        | some c =>
          let pos : Option ClusterPos :=
            if r.clusterCores = 1 then none else some { origin := o, clw := r.clw, clh := r.clh, peer := k }
          match s.addTask core (s.newTask c l (lo + k) (s.free - (hi - lo) + k) pos) with
          | none => (ts, s)
          | some (p, s) => (ts ++ [(core, p)], s.dropClean core)) ([], s)

/-- The Runners of a core that leaves pass to the in-service owner with the lowest core number (R241). -/
def passRunners (s : State) (n : Nat) : State :=
  { s with launches := s.launches.map fun l =>
      if inFootprint l.desc n then
        let o := originOf l.desc n
        let heir := ((s.pieces l.desc).filter fun p => p != o).headD o
        { l with runners := l.runners.map fun q => if q.owner = o then { q with owner := heir } else q }
      else l }

/-! ## Retirement (R147, R215) -/

/-- Whether every thread of a task has exited and every copy they issued is complete. -/
def retirable (c : Core) (place : Nat) (t : Task) : Bool :=
  t.threads.all (·.exited) && !(c.copies.any fun k => k.place == place)

/-- The tasks of a task's cluster: core and place of each. -/
def clusterTasks (s : State) (t : Task) : List (Nat × Nat × Task) :=
  match t.cluster with
  | none => []
  | some pos =>
    (List.range (2 ^ (pos.clw + pos.clh))).flatMap fun k =>
      let n := pos.origin + k % 2 ^ pos.clw + 16 * (k / 2 ^ pos.clw)
      match s.core? n with
      | none => []
      | some c => (c.tasks.filter fun (p : Nat × Task) =>
          p.2.launch == t.launch && p.2.cluster.any fun q => q.origin == pos.origin &&
            p.2.tile / 2 ^ (pos.clw + pos.clh) == t.tile / 2 ^ (pos.clw + pos.clh)).map fun p => (n, p.1, p.2)

/-- The Runner table's freeze of a pre-empted launch, with the slots it gives (R247 step 1). -/
def startPreempt (s : State) (value : DWord) : State :=
  let pa := bits value.toNat 7 49 * 128
  let s := { s with regs := { s.regs with lpreempt := value &&& 0x00FFFFFFFFFFFF80 } }
  if !value.getLsbD 0 then s
  else
    let refuse := { s with regs := { s.regs with lpErr := true } }
    match s.launches.find? fun l => l.pa == pa && l.state == .dispatched with
    | none => refuse
    | some l =>
      let (bs, _, s) := s.devLoad pa 128
      let d := parseRec bs
      let hbm := s.part.hbmBytes
      if s.preempt.isSome || d.shcap < 32 * 2 ^ (l.desc.logw + l.desc.logh) || hbm ≤ d.runptr || hbm ≤ d.shellptr ||
          d.runptr % 16 != 0 || d.shellptr % 8 != 0 then refuse
      else
        let (slots, s) := s.devWords d.shellptr d.shcap
        let s := s.modLaunch l.no fun l =>
          { l with frozen := true, desc := { l.desc with runptr := d.runptr, shellptr := d.shellptr, shcap := d.shcap } }
        let s := { s with preempt := some { launch := l.no, slots, kept := l.shells.map Prod.fst, given := [], written := [] } }
        -- every resident task of the launch gets a request for its core's Caster group; placements are withdrawn
        { s with cores := s.cores.map fun c =>
          { c with reqs := (c.reqs.filter fun q => match q with
                      | .place _ no => no != l.no
                      | .save .. => true) ++
                    (c.tasks.filter fun p => p.2.launch == l.no).map fun p => .save p.1 (c.gen p.1) } }

end State

end Sys2Proof.Machine
end

