-- ==== Sys2Proof/Machine/Sprue.lean ====
section
/-!
DEFINITION. The Sprue: allowances, the parking queues, and the requests sent to peer devices
(spec/15_allowances.md R272 to R276, R279; spec/11_ladle_host_fabric.md R199, R211).
-/

namespace Sys2Proof.Machine

/-- Flits of one class a destination can hold (R272). -/
def allowanceCap : Nat := 1024

namespace State

def dest (s : State) (d : Nat) : Dest := s.dests.getD d Dest.reset

def modDest (s : State) (d : Nat) (f : Dest → Dest) : State := { s with dests := s.dests.modify d f }

/-- The allowance word of a destination and class (R273). -/
def allowanceWord (s : State) (d : Nat) (rsp : Bool) : Word :=
  if d = s.dev then 0x00FFFFFF
  else
    let e := s.dest d
    BitVec.ofNat 32 ((if e.unreach then 2 ^ 31 else 0) + (if e.held then 2 ^ 30 else 0) +
      (if e.unreach then 0 else if rsp then e.rsp else e.req))

/-- Stores toward a destination that have passed step 10 and wait in a store queue. -/
def storesToward (s : State) (d : Nat) : Nat :=
  let mine (q : QStore) : Bool := q.sent.isNone && match q.target with
    | .peer d' _ => d' == d
    | _ => false
  let ths := s.cores.flatMap fun c => (c.tasks.flatMap fun p => p.2.threads) ++ c.casters.map Caster.thr
  (ths.map fun t => (t.queue.filter mine).length).foldl (· + ·) 0

/-- Whether fewer requests than the bound of R211 are outstanding toward a destination, with those that will still be sent: of
threads woken with a reservation, and of stores that have passed step 10. -/
def room (s : State) (d : Nat) : Bool :=
  (s.reqs.filter fun q => q.dev == d).length + (s.dest d).woken.length + s.storesToward d < allowanceCap

/-- A thread no longer among those woken with a reservation toward a destination. -/
def forgetWoken (s : State) (d : Nat) (r : ThreadRef) : State :=
  s.modDest d fun e => { e with woken := e.woken.filter fun p => p.thread != r }

/-- A parked thread becomes runnable, with the flits reserved for it (R274). -/
def wakeReserved (s : State) (d : Nat) (p : Parked) : State :=
  (s.modDest d fun e => { e with woken := e.woken ++ [p] }).modThread p.thread fun t => { t with state := .runnable, wait := 0, reserved := some (d, p.req, p.rsp) }

/-- The queue of a destination served from its head, as far as the allowances go. -/
def serveParked (s : State) (d : Nat) : List Parked → State
  | [] => s.modDest d fun e => { e with parked := [] }
  | p :: ps =>
    let e := s.dest d
    if p.req ≤ e.req && p.rsp ≤ e.rsp && s.room d then
      let s := s.modDest d fun e => { e with req := e.req - p.req, rsp := e.rsp - p.rsp }
      (s.wakeReserved d p).serveParked d ps
    else s.modDest d fun e => { e with parked := p :: ps }

/-- Whether an allowance word grants `n` flits. -/
def wordGrants (w : Word) (n : Nat) : Bool := !w.getLsbD 31 && !w.getLsbD 30 && n ≤ bits w.toNat 0 24

/-- The threads at `alwwait` on a destination that have enough flits reissue, and all of them where it is UNREACH, to trap
(R228, R283). -/
def wakeAlwwait (s : State) (d : Nat) : State :=
  let enough (x : Bool × Nat) : Bool :=
    let w := s.allowanceWord d x.1
    w.getLsbD 31 || wordGrants w x.2
  let wake (t : Thread) : Thread :=
    match t.state with
    | .allowance d' _ (some x) => if d' = d && enough x then { t with state := .runnable } else t
    | _ => t
  { s with cores := s.cores.map fun c =>
      { c with tasks := c.tasks.map fun p => (p.1, { p.2 with threads := p.2.threads.map wake })
               casters := c.casters.map fun k => { k with thr := wake k.thr } } }

/-- The queue of a destination considered after its allowance changed (R274, R275). -/
def wakeDest (s : State) (d : Nat) : State :=
  let e := s.dest d
  (if e.held || e.unreach then s else s.serveParked d e.parked).wakeAlwwait d

/-- What a thread finds at step 10 of R175. -/
inductive Allowed where
  | pass (s : State)
  /-- Holds at the instruction: woken with a reservation, and HELD since (R275). -/
  | wait (s : State)
  | park (s : State)

/-- A reservation returned (R274). While HELD is set FLITS does not change: step 7 of R280 counts it afresh (R275). -/
def giveBack (s : State) (d req rsp : Nat) : State :=
  (s.modDest d fun e => if e.unreach || e.held then e else { e with req := e.req + req, rsp := e.rsp + rsp }).wakeDest d

/-- A thread's own reservation returned, if it holds one. -/
def dropReserved (s : State) (r : ThreadRef) : State :=
  match (s.thread? r).bind Thread.reserved with
  | none => s
  | some (d, q, p) => ((s.forgetWoken d r).modThread r fun t => { t with reserved := none }).giveBack d q p

/-- Flits spent on a destination: taken now, outstanding until credit and response return. -/
def spend (s : State) (d req rsp : Nat) : State :=
  s.modDest d fun e => { e with req := e.req - req, rsp := e.rsp - rsp, reqOut := e.reqOut + req
                                rspOut := e.rspOut + rsp }

/-- The flits of a store that fails before its flit is sent: they are outstanding no longer. -/
def unspend (s : State) (d : Nat) : State := s.modDest d fun e => { e with reqOut := e.reqOut - 1, rspOut := e.rspOut - 1 }

/-- A thread without a reservation toward `d` at step 10. -/
def allowFresh (s : State) (r : ThreadRef) (d req rsp : Nat) (va : DWord) : Allowed :=
  let e := s.dest d
  if !e.held && e.parked.isEmpty && req ≤ e.req && rsp ≤ e.rsp && s.room d then .pass (s.spend d req rsp)
  else .park (s.modDest d fun e => { e with parked := e.parked ++ [{ thread := r, req, rsp, va }] })

/-- Step 10 of R175 for a remote access that needs `req` and `rsp` flits toward `d` (R274, R275): a reservation serves the
access that it covers, and what it holds beyond goes back. -/
def allow (s : State) (r : ThreadRef) (d req rsp : Nat) (va : DWord) : Allowed :=
  match (s.thread? r).bind Thread.reserved with
  | some (d', q, p) =>
    if d' = d then
      if (s.dest d).held then .wait s
      else if req ≤ q && rsp ≤ p then
        let s := (s.forgetWoken d r).modThread r fun t => { t with reserved := none }
        let s := s.modDest d fun e => { e with req := e.req + q, rsp := e.rsp + p }
        .pass ((s.spend d req rsp).wakeDest d)
      else (s.dropReserved r).allowFresh r d req rsp va
    else (s.dropReserved r).allowFresh r d req rsp va
  | none => s.allowFresh r d req rsp va

/-- A destination cut off: FLITS 0 and every reservation toward it returned, of threads and of copies (R276). The threads
of its queue trap by `Ops`; while HELD was set, those woken with a reservation are still at its head (R275). -/
def cutOff (s : State) (d : Nat) : State :=
  let drop (t : Thread) : Thread :=
    match t.reserved with
    | some (d', _, _) => if d' = d then { t with reserved := none } else t
    | none => t
  let kept := s.cores.map fun c => (c.copies.map fun k => if k.resDev = d then k.flits else 0).foldl (· + ·) 0
  let s : State := { s with cores := s.cores.map fun c =>
      { c with tasks := c.tasks.map fun p => (p.1, { p.2 with threads := p.2.threads.map drop })
               casters := c.casters.map fun k => { k with thr := drop k.thr }
               copies := c.copies.map fun k => if k.resDev = d then { k with flits := 0 } else k } }
  (s.modDest d fun e =>
    { e with unreach := true, req := 0, rsp := 0, reqOut := e.reqOut - kept.foldl (· + ·) 0
             parked := (if e.held then e.woken else []) ++ e.parked, woken := [] }).wakeAlwwait d

/-- The flits of both classes that woken threads hold reserved toward a destination. -/
def reservedTo (s : State) (d : Nat) : Nat × Nat :=
  let ths := s.cores.flatMap fun c => (c.tasks.flatMap fun p => p.2.threads) ++ c.casters.map Caster.thr
  ths.foldl (fun (q, p) t => match t.reserved with
    | some (d', a, b) => if d' = d then (q + a, p + b) else (q, p)
    | none => (q, p)) (0, 0)

/-- A destination reached again: FLITS 1,024 less what is outstanding or reserved, HELD 0, and the queue resumes (R280
step 7). -/
def restoreDest (s : State) (d : Nat) : State :=
  let (q, p) := s.reservedTo d
  (s.modDest d fun e => { e with unreach := false, held := false, req := allowanceCap - e.reqOut - q
                                 rsp := allowanceCap - e.rspOut - p }).wakeDest d

/-- A request's credit returned (R272). -/
def creditBack (s : State) (d : Nat) : State :=
  if (s.dest d).reqOut = 0 then s
  else (s.modDest d fun e => { e with reqOut := e.reqOut - 1, req := if e.unreach then 0 else e.req + 1 }).wakeDest d

/-- The space of a delivered response free again (R272). -/
def responseBack (s : State) (d : Nat) : State :=
  if (s.dest d).rspOut = 0 then s
  else (s.modDest d fun e => { e with rspOut := e.rspOut - 1, rsp := if e.unreach then 0 else e.rsp + 1 }).wakeDest d

/-! ## Requests (R211, R279) -/

/-- Insertion in rising order. -/
def insertRising (x : Nat) : List Nat → List Nat
  | [] => [x]
  | y :: l => if x ≤ y then x :: y :: l else y :: insertRising x l

/-- The locked lanes toward a destination, in increasing order of plane and slot (R279). A changing lane takes no further
flit after its drain marker until step 6 (R280 step 2). -/
def lanesTo (s : State) (d : Nat) : List Nat :=
  let all := (s.lockedOut.filter fun l => l.dev == d).map fun l => l.plane * 8 + l.slot
  (all.filter fun l => !s.commit.any fun c => c.late.isNone && c.changing.contains l).foldl (fun l x => insertRising x l) []

/-- Whether a flit that has passed step 10 finds no lane yet: every lane toward its destination is changing (R280). -/
def lanesOff (s : State) (d : Nat) : Bool := s.commit.any (fun c => c.affected.contains d) && (s.lanesTo d).isEmpty

/-- The lane that is free next of those locked toward a destination: the spec leaves open which (notes/assumptions/5.md). -/
def nextLane (s : State) (d k : Nat) : Option Nat :=
  let lanes := s.lanesTo d
  lanes[Config.lanePick k % lanes.length]?

/-- The sequence state of a peer and hash lane, from 0 on where it has none yet. -/
def laneSeq (s : State) (d h : Nat) : LaneSeq :=
  (s.seqs.find? fun e => e.dev == d && e.lane == h).getD { dev := d, lane := h, sent := 0, next := 0, held := [] }

def putSeq (s : State) (e : LaneSeq) : State :=
  { s with seqs := e :: s.seqs.filter fun x => !(x.dev == e.dev && x.lane == e.lane) }

/-- A flit stamped for a destination (R279). A flit sent on a lane is another than the one that was resent there (R352;
notes/assumptions/66.md). -/
def stampFlit (s : State) (d off : Nat) : Stamp × State :=
  let e := s.laneSeq d (hashLane off)
  let lane := s.nextLane d s.reqNo
  let s := { s.putSeq { e with sent := e.sent + 1 } with reqNo := s.reqNo + 1 }
  let s := match lane with
    | some l => { s with health := { s.health with resends := eraseKey s.health.resends l } }
    | none => s
  ({ lane, hash := e.lane, seq := e.sent }, s)

/-- The record of a request to a peer, its tag, and the stamp of its flit. -/
def openPeer (s : State) (d off : Nat) (owner : ReqOwner) (va : DWord) (kind : PendKind) (dst : Reg)
    (issue : Nat := s.issueNo) : State × Nat × Stamp :=
  let tag := s.reqNo
  let (x, s) := s.stampFlit d off
  let q : PeerReq := { tag, dev := d, off, owner, va, kind, dst, lane := x.lane, issue }
  ({ s with reqs := s.reqs ++ [q], count := { s.count with sent := bump s.count.sent d } }, tag, x)

/-- A request sent to a peer. -/
def sendPeer (s : State) (d off : Nat) (owner : ReqOwner) (va : DWord) (kind : PendKind) (dst : Reg)
    (bytes : List Byte) (write : Bool) (ops : List Rmw) (size : Nat) (marks : BitVec 4 := 0)
    (issue : Nat := s.issueNo) : State × Nat :=
  let (s, tag, x) := s.openPeer d off owner va kind dst issue
  (s.send (.peerRequest tag d off bytes write ops size marks x), tag)

/-- The response to a peer's request (R212), a flit of the hash lane of the request's line. -/
def respond (s : State) (d off : Nat) (a : PeerAnswer) : State :=
  let (x, s) := s.stampFlit d off
  s.send (.peerResponse d a x)

/-- A barrier operation sent to a peer (R266); none for `barwait`, with its phase. -/
def sendBarrier (s : State) (d off : Nat) (r : ThreadRef) (va : DWord) (kind : PendKind) (dst : Reg)
    (op : Option BarOp) (phase : Bool) : State × Nat :=
  let (s, tag, x) := s.openPeer d off (if op.isNone then .wait r else .thread r) va kind dst
  (s.send (.peerBarrier tag d off op phase x), tag)

/-- A further lane of one issue joins the request of its combination (R165, R190): its operation goes with the
message. -/
def joinPeer (s : State) (tag : Nat) (m : Rmw) : State :=
  { s with outbox := s.outbox.map fun o => match o with
      | .peerRequest t d off bs w ops n p x => if t = tag then .peerRequest t d off bs w (ops ++ [m]) n p x else o
      | o => o }

/-- A thread no longer waits for the phase of a peer's word: the answer to its request only returns what was reserved. -/
def dropWait (s : State) (r : ThreadRef) : State :=
  { s with reqs := s.reqs.map fun q => if q.owner == .wait r then { q with owner := .gone } else q }

/-- Whether a thread has a request to a peer that is not answered; a wait in `barwait` is none, as it ends only with the
phase (R228). -/
def peerOpen (s : State) (r : ThreadRef) : Bool :=
  (s.reqs.any fun q => q.owner == .thread r || q.owner == .sub r) ||
    ((s.thread? r).map fun t => t.pend.any fun p => p.tag.isSome).getD false

/-- Whether a write or an atomic of some thread of a core to a peer is not acknowledged: it may hb-precede what another thread
of the core does (R159). -/
def corePeerWrites (s : State) (core : Nat) : Bool :=
  s.reqs.any fun q => match q.owner with
    | .thread t => t.core == core && q.kind != .load
    | _ => false

/-- Whether nothing of a thread is on its way to a peer, nor a write of another thread of its core: what a release at `.clu` or
wider waits for (R159, R160, R161 step 3). -/
def peersQuiet (s : State) (r : ThreadRef) : Bool := !s.peerOpen r && !s.corePeerWrites r.core

end State

end Sys2Proof.Machine
end

