-- ==== Sys2Proof/Machine/Pages.lean ====
section
/-!
DEFINITION. Reachability of peers and the failing of their requests (spec/15_allowances.md R276 to R281), requests for
flips of bias (spec/11_ladle_host_fabric.md R208) and page slots (spec/19_contexts_translation.md R299), held pages and
eviction (spec/22_traps_restart.md R351, R360), and invalidations (R296 to R298, R320).
-/

namespace Sys2Proof.Machine

namespace State

/-! ## Reachability (R277, R280 steps 6 and 7) -/

/-- Whether a lane of this device that a peer reports locked is the one the plan predicts: channel c of this device leaves at
port (DEV + c) mod 64. -/
def laneFits (s : State) (l : LaneRep) : Bool :=
  match lookup s.plan (l.plane * 8 + l.slot) with
  | some e => e.on && (s.dev + e.ch.toNat) % 64 == l.dev
  | none => false

/-- Whether the source an arriving lane reports is the one R277 predicts: channel c of device i arrives at (i + c) mod 64. -/
def laneTrue (s : State) (l : LaneRep) : Bool := (l.dev + l.ch.toNat) % 64 == s.dev

/-- Whether this device reaches another: a locked lane runs each way. -/
def reaches (s : State) (d : Nat) : Bool :=
  s.part.fab && d != s.dev && s.lockedOut.any (fun l => l.dev == d && s.laneFits l) &&
    s.lockedIn.any fun x => x.1.dev == d && s.laneTrue x.1

/-- A copy stopped with a fault (R197). It goes behind the copies that stopped before it (R340). -/
def stopCopy (s : State) (core id : Nat) (t : Option Trap) : State :=
  s.modCore core fun c =>
    let hit (k : Copy) : Bool := k.id == id && k.state == .running
    { c with copies := (c.copies.filter fun k => !hit k) ++ (c.copies.filter hit).map fun k =>
        { k with state := .stopped (t.map fun t => { t with prog := k.prog, what := 1, val := id }), told := false
                 dstPage := none, srcPage := none, fail := none } }

/-- The copy of an id. -/
def copy? (s : State) (core id : Nat) : Option Copy := (s.core? core).bind fun c => c.copies.find? fun k => k.id == id

def modCopy (s : State) (core id : Nat) (f : Copy → Copy) : State :=
  s.modCore core fun c => { c with copies := c.copies.map fun k => if k.id == id then f k else k }

/-- The request of a copy that is on its way to a peer. -/
def copyAsks (s : State) (core id : Nat) : Bool :=
  ((s.copy? core id).bind Copy.asked).any fun tag => s.reqs.any fun q => q.tag == tag

/-- A fault of a copy's source beyond the bytes that it has read: those are written first, but under DIG, where the copy stops at
the last whole block (R197). -/
def failCopy (s : State) (core id : Nat) (t : Trap) : State :=
  match s.copy? core id with
  | some c =>
    if c.dig || c.buf.isEmpty then s.stopCopy core id (some t)
    else s.modCopy core id fun k => { k with fail := some t, srcPage := none }
  | none => s

/-- The sub-kind of a failure after issue (R177). -/
def failSub (kind : PendKind) (dst : Reg) : Byte :=
  match kind with
  | .load => 0x40 ||| dst.zeroExtend 8
  | .atomic => 0x80 ||| dst.zeroExtend 8
  | .noReturn | .cpq => 0xC0

/-- A request that fails: a thread's destination stays empty and the failure waits for its report; a copy stops; a
subscription goes, and its failure waits for its report too. -/
def failRequest (s : State) (q : PeerReq) (t : Trap) : State :=
  let s := { s with reqs := s.reqs.filter fun r => r.tag != q.tag }
  match q.owner with
  | .thread r =>
    let lane (th : Thread) : Thread :=
      (th.pend.filter fun p => p.tag == some q.tag).foldl
        (fun th p => th.addFail p.issue (if t.kind == .unreach then t else { t with sub := failSub p.kind p.dst, addr := p.va }))
        { th with pend := th.pend.filter fun p => p.tag != some q.tag }
    let lanes := (s.thread? r).any fun th => th.pend.any fun p => p.tag == some q.tag
    if lanes then
      s.modCore r.core fun c =>
        { c with tasks := c.tasks.map fun p => (p.1, { p.2 with threads := p.2.threads.map lane })
                 casters := c.casters.map fun k => { k with thr := lane k.thr } }
    else s.modThread r fun th =>
      ({ th with queue := th.queue.filter fun w => w.sent != some q.tag } : Thread).addFail q.issue t
  | .wait r => s.modThread r fun th => th.addFail q.issue t
  | .gone => s
  | .copy core id =>
    if ((s.copy? core id).bind Copy.asked) != some q.tag then s
    else if q.kind = .load then s.failCopy core id t
    else s.stopCopy core id (some t)
  | .sub r =>
    (s.modCore r.core fun c => { c with subs := c.subs.filter fun u => u.target != .peer q.dev (lineOf q.off) }).modThread r
      fun th => th.addFail q.issue t
  | .line core =>
    s.modCore core fun c =>
      { c with icache := { pa := peerPa q.dev q.off, bytes := [], state := .refused } ::
                 c.icache.filter fun l => l.pa != peerPa q.dev q.off }

/-- Whether a response flit was reserved for a request: all but the writes of copies (R199). -/
def responseKept (q : PeerReq) : Bool :=
  match q.owner with
  | .copy .. => q.kind == .load
  | _ => true

/-- Requests failed with UNREACH (R281): no response is awaited any more. -/
def failUnreach (s : State) (qs : List PeerReq) : State :=
  qs.foldl (fun s q =>
    (s.failRequest q { kind := .unreach, sub := BitVec.ofNat 8 q.dev, addr := q.va }).modDest q.dev fun e =>
      { e with rspOut := if responseKept q then e.rspOut - 1 else e.rspOut }) s

/-- Every request toward a destination failed with UNREACH (R281). -/
def failToward (s : State) (d : Nat) : State := s.failUnreach (s.reqs.filter fun q => q.dev == d)

/-- Copies with a side at a destination stopped with UNREACH (R197): of a source, at the first byte that the copy lacks. -/
def stopCopiesToward (s : State) (d : Nat) : State :=
  (s.cores.zipIdx).foldl (fun s (c, n) => c.copies.foldl (fun s k =>
    let at_ (p : Option CopyPage) := p.any fun p => match p.base with
      | .peer d' _ => d' == d
      | _ => false
    let gone (va : DWord) (o : Nat) : Trap := { kind := .unreach, sub := BitVec.ofNat 8 d, addr := va + BitVec.ofNat 64 o }
    if k.state != .running then s
    else if at_ k.dstPage then s.stopCopy n k.id (some (gone k.dst k.prog))
    else if at_ k.srcPage then s.failCopy n k.id (gone k.src (k.prog + 8 * k.buf.length))
    else s) s) s

/-- Step 7 of R280 for one destination. -/
def decideDest (s : State) (d : Nat) : State :=
  if s.reaches d then s.restoreDest d
  else (((s.failToward d).stopCopiesToward d).cutOff d).modDest d fun e => { e with held := false }

/-- Destinations decided at step 7, with the count of those that became UNREACH. -/
def decideList (s : State) (ds : List Nat) : Nat × State :=
  ds.foldl (fun (n, s) d =>
    let s' := s.decideDest d
    (if (s'.dest d).unreach && !(s.dest d).unreach then n + 1 else n, s')) (0, s)

/-- Whether a destination waits for the step 7 of a commit in progress (R280, R371). -/
def undecided (s : State) (d : Nat) : Bool := s.commit.any fun c => (c.late.getD c.affected).contains d

/-- Reachability recomputed for every destination that no commit has still to decide (R153, R280). -/
def decideAll (s : State) : State := (s.decideList ((List.range 64).filter fun d => !s.undecided d)).2

/-! ## Bias (R208) -/

/-- A write of BIASCTL (R208). -/
def writeBiasctl (s : State) (v : DWord) : State :=
  let page := bits v.toNat 12 27
  let s := { s with regs := { s.regs with biasctl := v &&& 0x0000007FFFFFF002 } }
  if !v.getLsbD 0 then s
  else if s.flips.any (·.byHost) || s.part.hbmBytes ≤ page * 4096 then { s with regs := { s.regs with biasErr := true } }
  else s.requestFlip { page, toHost := v.getLsbD 1, byHost := true, waiter := none, lines := [] }

/-! ## Page slots (R299) -/

/-- A write of PSLOTCTL. -/
def writePslotctl (s : State) (v : DWord) : State :=
  let page := bits v.toNat 12 27
  let s := { s with regs := { s.regs with pslotctl := v &&& 0xFF00007FFFFFF000 } }
  if !v.getLsbD 0 then s
  else if s.pslotBusy.isSome || s.part.hbmBytes ≤ page * 4096 then { s with regs := { s.regs with pslotErr := true } }
  else { s with pslotBusy := some (page, v.extractLsb' 56 8) }

/-! ## Held pages and eviction (R351, R360) -/

/-- The hold count of a page: the sides of running copies that work on it. -/
def holdCount (s : State) (page : Nat) : Nat :=
  let at_ (p : Option CopyPage) : Nat := match p with
    | some { base := .mem a, .. } => if a / 4096 = page then 1 else 0
    | _ => 0
  (s.cores.map fun c => (c.copies.map fun k => at_ k.dstPage + at_ k.srcPage).foldl (· + ·) 0).foldl (· + ·) 0

/-- A write of EVICTCTL: a mark or an unmark. -/
def writeEvictctl (s : State) (v : DWord) : State :=
  let page := bits v.toNat 12 27
  let s := { s with regs := { s.regs with evictctl := v &&& 0x0000007FFFFFF002 } }
  let refuse := { s with regs := { s.regs with evictErr := true } }
  if !v.getLsbD 0 then s
  else if s.evicting.isSome || s.part.hbmBytes ≤ page * 4096 then refuse
  else if v.getLsbD 1 then
    if s.health.retired.has page then refuse else { s with marked := s.marked.del page }
  else { s with marked := s.marked.add page, evicting := some page }

/-- The mark that waits completes when its page is held no longer; a page pending retirement is then retired. -/
def completeMark (s : State) : State :=
  match s.evicting with
  | none => s
  | some page =>
    if s.holdCount page != 0 then s
    else
      let s := { s with evicting := none }
      if s.health.pendingPages.has page then
        let s := { s with
          health := { s.health with pendingPages := s.health.pendingPages.del page, retired := s.health.retired.add page }
          record := { s.record with pages := s.record.pages.add page } }
        let s := s.healthEvent 4 page
        let channel := page * 4096 / (s.part.hbmBytes / (s.part.hbmStacks * 32))
        let n := countAt s.health.channels channel + 1
        let s := { s with health := { s.health with channels := insertKey s.health.channels channel n } }
        if s.thresholds.channel != 0 && n = s.thresholds.channel then (s.healthEvent 6 channel).replaceRequested else s
      else s

/-! ## Invalidations (R296 to R298, R320) -/

/-- Whether an invalidation selects a held translation (R320, R298). -/
def shootHits (k : Shoot) (e : TlbEntry) : Bool :=
  let global := e.pte.getLsbD 5
  let page := e.vpn == k.va.toNat / 2 ^ (12 + 9 * e.level)
  if k.direct then !global && bits e.ptroot.toNat 62 2 == 1
  else match k.tlbk.toNat with
    | 0 => true
    | 1 => e.asid == k.asid && !global
    | 2 => e.asid == k.asid && page && !global
    | _ => page

/-- Whether an invalidation may select the translation of an address of an address space. -/
def shootMay (k : Shoot) (asid : BitVec 16) (ptroot : DWord) (va : DWord) : Bool :=
  if k.direct then bits ptroot.toNat 62 2 == 1
  else match k.tlbk.toNat with
    | 0 => true
    | 1 => asid == k.asid
    | 2 => asid == k.asid && va.toNat / 2 ^ 39 == k.va.toNat / 2 ^ 39
    | _ => va.toNat / 2 ^ 39 == k.va.toNat / 2 ^ 39

/-- Whether a target was reached by translation. -/
def translated : Target → Bool
  | .scratch .. => false
  | _ => true

/-- Whether some access of a thread that used a translation the invalidation selects has not been performed (R297). -/
def threadUses (k : Shoot) (asid : BitVec 16) (ptroot : DWord) (t : Thread) : Bool :=
  t.queue.any (fun q => translated q.target && shootMay k asid ptroot q.va) ||
    t.pend.any fun p => (p.tag.isSome || p.op.any fun o => translated o.1) && shootMay k asid ptroot p.va

/-- Whether an invalidation may select the translation of an address, whatever its address space. -/
def shootAny (k : Shoot) (va : DWord) : Bool := k.direct || shootMay { k with direct := false } k.asid 0 va

/-- Whether some access of a Caster thread may have used a translation the invalidation selects: it issued in the context
its core had then (R314). -/
def casterUses (k : Shoot) (t : Thread) : Bool :=
  t.queue.any (fun q => translated q.target && shootAny k q.va) ||
    t.pend.any fun p => (p.tag.isSome || p.op.any fun o => translated o.1) && shootAny k p.va

/-- Whether a request to a peer used a translation that the invalidation may select. Those of a subscription, of an
instruction line, of a Caster thread, and those that nobody waits for any more belong to no one context. -/
def requestUses (s : State) (k : Shoot) (q : PeerReq) : Bool :=
  let of (r : ThreadRef) : Bool :=
    match s.taskOf? r with
    | some t => shootMay k t.ctx.asid t.ctx.ptroot q.va
    | none => shootAny k q.va
  match q.owner with
  | .thread r | .wait r => of r
  | .copy core id => ((s.core? core).bind fun c => c.copies.find? fun x => x.id == id).any fun x =>
      shootMay k x.acc.asid x.acc.ptroot q.va
  | .sub _ | .line _ | .gone => shootAny k q.va

/-- Whether an invalidation must still wait for accesses (R297). -/
def shootWaits (s : State) (k : Shoot) : Bool :=
  s.reqs.any (s.requestUses k) || s.cores.any fun c =>
    c.tasks.any (fun p => p.2.threads.any fun t => threadUses k p.2.ctx.asid p.2.ctx.ptroot t) ||
      c.casters.any fun x => casterUses k x.thr

/-- The translations an invalidation selects dropped; a copy that works on such a page translates it again (R351). -/
def invalidate (s : State) (k : Shoot) : State :=
  { s with
    tlb := s.tlb.filter fun e => !shootHits k e
    cores := s.cores.map fun c =>
      { c with copies := c.copies.map fun x =>
          let drop (p : Option CopyPage) :=
            p.filter fun p => !shootMay k x.acc.asid x.acc.ptroot (BitVec.ofNat 64 (p.vpage * 4096))
          { x with dstPage := drop x.dstPage, srcPage := drop x.srcPage } } }

/-- The invalidation at the head of the queue completed: DONE advances and the message to SDACK follows (R296). -/
def completeShoot (s : State) : State :=
  match s.shoots with
  | [] => s
  | k :: ks =>
    if s.shootWaits k then s
    else
      let s := s.invalidate k
      let s := { s with shoots := ks, regs := { s.regs with sdDone := s.regs.sdDone + 1 } }
      if s.regs.sdack = 0 then s else s.send (.hostWrite s.regs.sdack (s.regs.sdDone.zeroExtend 64) 4)

/-- An invalidation queued, unless the queue of 256 is full. -/
def postShoot (s : State) (k : Shoot) : Option State :=
  if 256 ≤ s.shoots.length then none
  else some { s with shoots := s.shoots ++ [k], regs := { s.regs with sdPosted := s.regs.sdPosted + 1 } }

/-- A write of SDCMD: none while the queue is full. -/
def writeSdcmd (s : State) (v : DWord) : Option State :=
  let s' := { s with regs := { s.regs with sdcmd := v &&& 0x3FFFF } }
  if v.getLsbD 18 then
    s'.postShoot { direct := false, tlbk := v.extractLsb' 16 2, asid := v.extractLsb' 0 16, va := s.regs.sdva }
  else some s'

/-- A write of an identity to the interrupt file (R298). -/
def imsicWrite (s : State) (identity : Nat) : Option State :=
  if identity = 1 then
    let first := s.shoots.isEmpty
    (s.postShoot { direct := true, tlbk := 0, asid := 0, va := 0 }).map fun s => if first then s.completeShoot else s
  else if identity = 2 then some ((List.range s.shoots.length).foldl (fun s _ => s.completeShoot) s)
  else some s

end State

end Sys2Proof.Machine
end

