-- ==== Sys2Proof/Machine/Lanes.lean ====
section
/-!
DEFINITION. The lanes of the optical fabric: which lock, which count as down, and what a re-plan does with them
(spec/15_allowances.md R277 to R281; spec/23_errors_degraded_checkpoint.md R362; spec/08_memory_spaces.md R153;
spec/25_prog_ring_split.md R371).
-/

namespace Sys2Proof.Machine

/-- The key of a lane among those that are down: transmit lanes below 512, receive lanes above. -/
def laneKey (plane slot : Nat) (receive : Bool) : Nat := (if receive then 512 else 0) + plane * 8 + slot

/-- The order in which a receiver takes the lanes that arrive on one plane: 64 b + c as their sources number them (R277). -/
def lockOrder (l : LaneRep) : Nat := 64 * l.band.toNat + l.ch.toNat

/-- A lane put into a list in the order of plane and lock. -/
def insertLane (x : LaneRep) : List LaneRep → List LaneRep
  | [] => [x]
  | y :: l =>
    if x.plane * 256 + lockOrder x ≤ y.plane * 256 + lockOrder y then x :: y :: l else y :: insertLane x l

/-- Lanes in the order of plane and lock. -/
def inLockOrder (l : List LaneRep) : List LaneRep := l.foldl (fun l x => insertLane x l) []

/-- Arriving lanes with the receiver slot that each takes: the n-th lane of a plane is its slot n (R277). -/
def slotsIn (l : List LaneRep) : List (LaneRep × Nat) :=
  let l := inLockOrder l
  l.zipIdx.map fun (x, i) => (x, ((l.take i).filter fun y => y.plane == x.plane).length)

/-- Whether two reports name one wavelength of one source. -/
def sameLane (x y : LaneRep) : Bool := x.plane == y.plane && x.dev == y.dev && x.band == y.band && x.ch == y.ch

namespace State

/-- The arriving lanes that lock at the end of a dark interval: at most eight of a plane, whose receivers are not down
(R277, R362). -/
def usableIn (s : State) (l : List LaneRep) : List (LaneRep × Nat) :=
  (slotsIn l).filter fun (x, n) => n < 8 && !s.health.lanesDown.has (laneKey x.plane n true)

/-- A lane that locks beside those which are locked: at the lowest receiver slot of its plane that is free and not down. -/
def lockNew (s : State) (l : List (LaneRep × Nat)) (x : LaneRep) : List (LaneRep × Nat) :=
  let free (n : Nat) : Bool :=
    !(l.any fun y => y.1.plane == x.plane && y.2 == n) && !s.health.lanesDown.has (laneKey x.plane n true)
  match (List.range 8).find? free with
  | some n => l ++ [(x, n)]
  | none => l

/-- The reported lanes of this device that are not down. -/
def usableOut (s : State) (l : List LaneRep) : List LaneRep :=
  l.filter fun x => !s.health.lanesDown.has (laneKey x.plane x.slot false)

/-- A destination that is no longer reached becomes UNREACH, unless a commit has still to decide it (R276, R280, R362). -/
def lostIf (s : State) (d : Nat) : State :=
  if s.reaches d || (s.dest d).unreach || s.undecided d then s else (s.stopCopiesToward d).cutOff d

/-- The health event and the record of a lane that leaves service (R362 to R364). -/
def laneRecord (s : State) (plane slot : Nat) (receive : Bool) : State :=
  let k := laneKey plane slot receive
  let s := { s with health := { s.health with lanesDown := s.health.lanesDown.add k }
                    record := { s.record with lanes := s.record.lanes.add k } }
  (s.healthEvent 5 (plane + slot * 64 + boolBit receive 9)).replaceRequested

/-- The destination and the stamp of a message that is a flit. -/
def flitOf : OutMsg → Option (Nat × Stamp)
  | .peerRequest _ d _ _ _ _ _ _ x => some (d, x)
  | .peerBarrier _ d _ _ _ x => some (d, x)
  | .peerResponse d _ x => some (d, x)
  | _ => none

/-- A message with its flit on another lane. -/
def onLane (lane : Nat) : OutMsg → OutMsg
  | .peerRequest t d o bs w ops n m x => .peerRequest t d o bs w ops n m { x with lane := some lane }
  | .peerBarrier t d o op ph x => .peerBarrier t d o op ph { x with lane := some lane }
  | .peerResponse d a x => .peerResponse d a { x with lane := some lane }
  | o => o

/-- Whether a message went on a lane and the link layer has not confirmed it: that of a request which is answered is
confirmed, and of the others nothing says which are (notes/assumptions/5.md). -/
def unconfirmed (s : State) (lane : Nat) (o : OutMsg) : Bool :=
  let answered : Bool := match o with
    | .peerRequest t .. => !s.reqs.any fun q => q.tag == t
    | .peerBarrier t .. => !s.reqs.any fun q => q.tag == t
    | _ => false
  !answered && (flitOf o).any fun (d, x) => x.lane == some lane && !Config.linkConfirmed d x.hash x.seq

/-- The flits of a lane that are not confirmed sent again toward their destination on the lanes that remain (R362). -/
def resendFlits (s : State) (lane d : Nat) : State :=
  let again (o : OutMsg) : Option Nat :=
    if s.unconfirmed lane o then (flitOf o).bind fun (d', x) => if d' = d then s.nextLane d x.seq else none else none
  let moved := s.outbox.map fun o => match again o with
    | some l => onLane l o
    | none => o
  let tagLane (t : Nat) : Option Nat := s.outbox.findSome? fun o => match o with
    | .peerRequest t' .. => if t' = t then again o else none
    | .peerBarrier t' .. => if t' = t then again o else none
    | _ => none
  { s with outbox := moved ++ (s.outbox.filterMap again).map .flitResent
           reqs := s.reqs.map fun q => match tagLane q.tag with
             | some l => { q with lane := some l }
             | none => q }

/-- A transmit lane counts as down: a drain marker goes on it, the flits not confirmed go again on the lanes that
remain. -/
def txDown (s : State) (plane slot : Nat) : State :=
  let lane := plane * 8 + slot
  let dst := (s.lockedOut.find? fun l => l.plane == plane && l.slot == slot).map LaneRep.dev
  let s := { s with lockedOut := s.lockedOut.filter fun l => !(l.plane == plane && l.slot == slot) }
  let s := if dst.isSome then s.send (.drainMarker lane) else s
  let s := s.laneRecord plane slot false
  match dst with
  | none => s
  | some d => (s.resendFlits lane d).lostIf d

/-- A receive lane counts as down. -/
def rxDown (s : State) (plane slot : Nat) : State :=
  let here (x : LaneRep × Nat) : Bool := x.1.plane == plane && x.2 == slot
  let l := s.lockedIn.find? here
  let s := ({ s with lockedIn := s.lockedIn.filter fun x => !here x } : State).laneRecord plane slot true
  match l with
  | some l => s.lostIf l.1.dev
  | none => s

/-- A lane counts as down, once. -/
def laneOut (s : State) (plane slot : Nat) (receive : Bool) : State :=
  if !s.part.fab || 64 ≤ plane || 8 ≤ slot || s.health.lanesDown.has (laneKey plane slot receive) then s
  else if receive then s.rxDown plane slot
  else s.txDown plane slot

/-- The lanes whose reported source or end differs from what R277 predicts count as down (R153, R362): lanes of this device
whose channel does not lead to the peer that locks them, and arriving lanes whose channel does not lead here from the
source they name. -/
def wrongLanes (s : State) : State :=
  let fits (l : LaneRep) : Bool := s.laneFits l || s.commit.any fun c => ({ s with plan := c.plan } : State).laneFits l
  let s := (s.lockedOut.filter fun l => !fits l).foldl (fun (s : State) l => s.laneOut l.plane l.slot false) s
  (s.lockedIn.filter fun x => !s.laneTrue x.1).foldl (fun (s : State) x => s.laneOut x.1.plane x.2 true) s

/-- The lanes between this device and a peer as a handshake reports them: those that lead to the peer, and those that
come from it. An arriving lane that stays locked keeps its receiver slot. -/
def takeReport (s : State) (peer : Nat) (locked : List LaneRep) : State :=
  let out := (locked.filter fun l => l.dev == s.dev).map fun l => { l with dev := peer }
  let back := locked.filter fun l => l.dev == peer
  let kept := s.lockedIn.filter fun x => x.1.dev != peer || back.any (sameLane x.1)
  let new := back.filter fun x => !kept.any fun y => sameLane x y.1
  ({ s with lockedOut := (s.lockedOut.filter fun l => l.dev != peer) ++ s.usableOut out
            lockedIn := (inLockOrder new).foldl s.lockNew kept } : State).wrongLanes

/-! ## Re-planning (R280, R371) -/

/-- The changing lanes go dark once every request sent on one of them is answered or failed (R280 steps 3 and 4). -/
def goDark (s : State) : State :=
  match s.commit with
  | none => s
  | some c =>
    if c.dark || s.reqs.any fun q => q.lane.any c.changing.contains then s
    else { s with commit := some { c with dark := true }
                  lockedOut := s.lockedOut.filter fun l => !c.changing.contains (l.plane * 8 + l.slot) }

/-- The lanes of a plan that a commit changed and that no peer has reported locked by the end of the dark interval count as
down (R280 step 6), but for those toward a peer whose own sequence has not passed step 6 (R371). -/
def unlockedOut (s : State) (p : Plan) (changing late : List Nat) : State :=
  p.foldl (fun (s : State) x =>
    let (plane, slot) := (x.1 / 8, x.1 % 8)
    if !changing.contains x.1 || late.contains ((s.dev + x.2.ch.toNat) % 64) || s.health.lanesDown.has (laneKey plane slot false) ||
        s.lockedOut.any fun l => l.plane == plane && l.slot == slot then s
    else s.laneRecord plane slot false) s

/-- The commit complete once no destination of it waits for its step 7: SEQ advances, and NUNR counts those that became
UNREACH (R280, R328, R371). -/
def endCommit (s : State) : State :=
  match s.commit with
  | some { late := some [], nunr, .. } =>
    { s with commit := none, planSeq := s.planSeq + 1, planNunr := BitVec.ofNat 8 (min nunr 255) }
  | _ => s

/-- Steps 6 and 7 of R280 at the end of the dark interval, with the arriving lanes `arriving`; the destinations `late` change
lanes in sequences of their own that have not passed step 6, and wait for theirs (R371). -/
def passStep6 (s : State) (c : Commit) (arriving : List LaneRep) (late : List Nat) : State :=
  let late := c.affected.filter late.contains
  let c := { c with late := some late }
  let s := { s with plan := c.plan, commit := some c, lockedIn := s.usableIn arriving }
  let s := (s.unlockedOut c.plan c.changing late).wrongLanes
  let s := s.send (.relockReport (s.lockedIn.map Prod.fst))
  let (n, s) := s.decideList ((List.range 64).filter fun d => !late.contains d)
  ({ s with commit := some { c with nunr := n } } : State).endCommit

/-- The step 7 of a destination that was late: its own sequence has passed step 6 (R371). -/
def decideLate (s : State) (d : Nat) : State :=
  let (n, s) := s.decideList [d]
  ({ s with commit := s.commit.map fun c =>
       { c with late := c.late.map fun l => l.filter fun x => x != d, nunr := c.nunr + n } } : State).endCommit

end State

end Sys2Proof.Machine
end

