-- ==== Sys2Proof/Machine/Mmio.lean ====
section
/-!
DEFINITION. The device registers, as the host reaches them through BAR0 and device code through the MMIO window
(R153, R208, R230, R231, R246, R292, R296, R298, R299, R350, R351, R364, R379, R382).
-/

namespace Sys2Proof.Machine

namespace State

/-- DEVCFG (R153): it reads 0 on a part without the fabric. -/
def devcfg (s : State) : DWord :=
  if s.part.fab then
    BitVec.ofNat 64 (s.regs.aperbase.toNat * 2 ^ 52 + boolBit s.regs.devLock 6 + s.regs.devNo.toNat)
  else 0

/-- A write of DEVCFG (R153): the lanes that the new number does not fit count as down, and reachability is decided anew. -/
def writeDevcfg (s : State) (v : DWord) : State :=
  if !s.part.fab || s.regs.devLock then s
  else
    let s := { s with regs := { s.regs with aperbase := v.extractLsb' 52 12, devNo := v.extractLsb' 0 6 } }
    s.wrongLanes.decideAll

/-- A write of CASTERLD: the first GO in stage 6 starts stage 7, and a GO in any other stage has no effect (R378, R379). The
windows of the cores lie one after the other from BASE on, in the image as the driver loaded it (notes/assumptions/70.md). -/
def writeCasterld (s : State) (v : DWord) : State :=
  let base := v &&& 0x00FFFFFFFFC00000
  let s' := { s with regs := { s.regs with casterld := base } }
  if !v.getLsbD 0 then s'
  else if s.stage != 6 then s
  else
    { s' with stage := 7
              image := (s.mem.filter fun c => base.toNat ≤ c.1 && c.1 < base.toNat + s.cores.length * 2 ^ 22).map fun c =>
                (c.1 - base.toNat, c.2)
              regs := { s'.regs with devLock := true }
              cores := s.cores.zipIdx.map fun (c, n) =>
                let w := base + BitVec.ofNat 64 (n * 2 ^ 22)
                { c with forebase := w, window := w } }

/-- MCSTAT (R350). -/
def mcstat (s : State) : DWord :=
  s.regs.mcSub ++ 0#8 ++ s.regs.mcCore ++ s.regs.mcCount ++ 0#15 ++ BitVec.ofBool s.regs.mcValid

/-- LPSTAT (R246). -/
def lpstat (s : State) : DWord :=
  BitVec.ofNat 64 (boolBit s.regs.lpErr 2 + boolBit s.regs.lpDone 1 + boolBit s.preempt.isSome 0)

/-- BIASSTAT (R208). -/
def biasstat (s : State) : DWord :=
  s.regs.biasSeq ++ 0#29 ++ BitVec.ofBool s.regs.biasErr ++ BitVec.ofBool (s.flips.any (·.byHost)) ++
    BitVec.ofBool (s.hostBias.has (bits s.regs.biasctl.toNat 12 27))

/-- PSLOTSTAT (R299). -/
def pslotstat (s : State) : DWord :=
  s.regs.pslotSeq ++ 0#30 ++ BitVec.ofBool s.regs.pslotErr ++ BitVec.ofBool s.pslotBusy.isSome

/-- EVICTSTAT (R351). -/
def evictstat (s : State) : DWord :=
  let page := bits s.regs.evictctl.toNat 12 27
  BitVec.ofNat 32 (s.holdCount page) ++ 0#29 ++ BitVec.ofBool s.regs.evictErr ++ BitVec.ofBool s.evicting.isSome ++
    BitVec.ofBool (s.marked.has page)

/-- A word of the context table as it is read: fields shown as zero read zero (R4, R152, R292). -/
def ctxTableWord (s : State) (o : Nat) : DWord :=
  let w : DWord := BitVec.ofNat 64 (s.ctxTable.nat o 8)
  if o % 32 = 0 then w &&& 0x8000000000FFFFFF else if o % 32 = 8 then w &&& 0xC0000FFFFFFFFFFF else w

/-- A word of the queue-binding table as it was written: a doorbell looks at the fields shown as zero too (R231). -/
def queueTableRaw (s : State) (o : Nat) : DWord := BitVec.ofNat 64 (s.queueTable.nat o 8)

/-- A word of the queue-binding table as it is read (R4, R231). -/
def queueTableWord (s : State) (o : Nat) : DWord :=
  let w := s.queueTableRaw o
  if o % 32 = 0 then w &&& 0x80000000000003FF else if o % 32 = 24 then w &&& 0xFFFFFFFF else w

/-- The value of the register at an 8-byte aligned offset, without the effect of a read; none where the spec names
no register. Nothing of the interrupt file reads other than zero (R298). -/
def regValue (s : State) (off : Nat) : Option DWord :=
  if 0x20000 ≤ off && off < 0x28000 then some (s.ctxTableWord (off - 0x20000))
  else if 0x30000 ≤ off && off < 0x38000 then some (s.queueTableWord (off - 0x30000))
  else if 0x5000 ≤ off && off < 0x6000 then some 0
  else match off with
    | 0x4000 => some s.regs.sdva
    | 0x4008 => some s.regs.sdcmd
    | 0x4010 => some (s.regs.sdDone ++ s.regs.sdPosted)
    | 0x4018 => some s.regs.sdack
    | 0x6000 => some s.regs.pslotctl
    | 0x6008 => some s.pslotstat
    | 0x7000 => some s.regs.evictctl
    | 0x7008 => some s.evictstat
    | 0x8000 => some s.mcstat
    | 0x8008 => some s.regs.mcmsg
    | 0x9000 => some (match s.health.events with
        | [] => BitVec.ofNat 64 (min s.health.lost 255 * 2 ^ 48)
        | e :: _ => hevtValue e s.health.lost)
    | 0x9008 => some s.regs.hmsg
    | 0xA000 => some (s.regs.cntNext.getD s.regs.cntctl)
    | 0xA008 => some (s.regs.prod ++ s.regs.cons)
    | 0xB000 => some s.bootstat
    | 0xB008 => some s.regs.casterld
    | 0xC000 => some s.regs.lpreempt
    | 0xC008 => some s.lpstat
    | 0xD000 => some s.devcfg
    | 0x10000 => some s.regs.biasctl
    | 0x10008 => some s.biasstat
    | _ => none

/-- The oldest health event removed by a read of HEVT (R364). -/
def readHevt (s : State) : State :=
  { s with health := { s.health with events := s.health.events.drop 1, lost := 0 } }

/-- A register read of 4 or 8 bytes. Where the spec names no register the value is free (notes/assumptions/11.md). -/
def regRead (s : State) (off size : Nat) : List Byte × State :=
  let base := off / 8 * 8
  let cut (v : DWord) := ((leBytes 8 v.toNat).drop (off - base)).take size
  match s.regValue base with
  | some v => (cut v, if base = 0x9000 then s.readHevt else s)
  | none => (cut (Config.mmioOpen off s.free), { s with free := s.free + 1 })

/-- A write of CNTCTL: a LOGK outside 10 to 24 leaves it unchanged; it takes effect at the next tick (R382). -/
def writeCntctl (s : State) (v : DWord) : State :=
  let k := bits v.toNat 0 5
  if 10 ≤ k && k ≤ 24 then { s with regs := { s.regs with cntNext := some (v &&& 0x00FFFFFFFFFFF11F) } } else s

/-- The write-one-to-clear registers: a half that is not written clears nothing. -/
def w1c (off : Nat) : Bool :=
  off == 0x6008 || off == 0x7008 || off == 0x8000 || off == 0xC008 || off == 0x10008

/-- A whole register written; none while the write cannot complete. -/
def regWrite8 (s : State) (off : Nat) (v : DWord) : Option State :=
  let r := s.regs
  if 0x20000 ≤ off && off < 0x28000 then
    some { s with ctxTable := s.ctxTable.write (off - 0x20000) (leBytes 8 v.toNat) }
  else if 0x30000 ≤ off && off < 0x38000 then
    some { s with queueTable := s.queueTable.write (off - 0x30000) (leBytes 8 v.toNat) }
  else if 0x2000 ≤ off && off < 0x4000 then some (s.ringBell ((off - 0x2000) / 8))
  else match off with
    | 0x4000 => some { s with regs := { r with sdva := v &&& 0xFFFFFFFFFFFFF000 } }
    | 0x4008 => s.writeSdcmd v
    | 0x4018 => some { s with regs := { r with sdack := v &&& ~~~3#64 } }
    | 0x6000 => some (s.writePslotctl v)
    | 0x6008 => some { s with regs := { r with pslotErr := r.pslotErr && !v.getLsbD 1 } }
    | 0x7000 => some (s.writeEvictctl v)
    | 0x7008 => some { s with regs := { r with evictErr := r.evictErr && !v.getLsbD 2 } }
    | 0x8000 => some { s with regs := { r with mcValid := r.mcValid && !v.getLsbD 0 } }
    | 0x8008 => some { s with regs := { r with mcmsg := v &&& ~~~3#64 } }
    | 0x9008 => some { s with regs := { r with hmsg := v &&& ~~~3#64 } }
    | 0xA000 => some (s.writeCntctl v)
    | 0xA008 => some { s with regs := { r with cons := v.extractLsb' 0 32 } }
    | 0xB008 => some (s.writeCasterld v)
    | 0xC000 =>
      let t := s.startPreempt v
      if t.devWaits then none else some t
    | 0xC008 => some { s with regs := { r with lpErr := r.lpErr && !v.getLsbD 2, lpDone := r.lpDone && !v.getLsbD 1 } }
    | 0xD000 => some (s.writeDevcfg v)
    | 0x10000 => some (s.writeBiasctl v)
    | 0x10008 => some { s with regs := { r with biasErr := r.biasErr && !v.getLsbD 2 } }
    | _ => some s

/-- A register write of 4 or 8 bytes: a half goes with the other half as it stands. The interrupt file takes 4-byte
identities, big-endian at +4 (R298). A write where the spec names no register has no effect. -/
def regWrite (s : State) (off : Nat) (bs : List Byte) : Option State :=
  let base := off / 8 * 8
  if base = 0x5000 then
    if bs.length = 8 then ((s.imsicWrite (leNat (bs.take 4))).bind fun s => s.imsicWrite (beNat (bs.drop 4)))
    else if off = 0x5000 then s.imsicWrite (leNat bs)
    else s.imsicWrite (beNat bs)
  else
    let old := if w1c base then 0
      else if 0x30000 ≤ base && base < 0x38000 then s.queueTableRaw (base - 0x30000)
      else (s.regValue base).getD 0
    let keep := (leBytes 8 old.toNat)
    let new := keep.take (off - base) ++ bs ++ keep.drop (off - base + bs.length)
    s.regWrite8 base (BitVec.ofNat 64 (leNat new))

end State

end Sys2Proof.Machine
end

