-- ==== Sys2Proof/Machine/Scratch.lean ====
section
/-!
DEFINITION. The scratchpad: swizzle, bytes, poison units, and full/empty granules with the lists of threads blocked
on them (spec/08_memory_spaces.md R142 to R147; spec/23_errors_degraded_checkpoint.md R352, R355).
-/

namespace Sys2Proof.Machine

/-- The swizzled offset (R143). -/
def swizzle (s : BitVec 3) (a : Nat) : Nat :=
  if s = 0 then a
  else a - bits a 4 6 * 16 + (bits a 4 6 ^^^ bits (bits a 10 10) (s.toNat - 1) 6) * 16

/-- Bytes of an access size. -/
def sizeBytes : Size → Nat
  | .b8 => 1 | .b16 => 2 | .b32 => 4 | .b64 => 8 | .b128 => 16

/-- Registers of an access size (R178). -/
def sizeWords : Size → Nat
  | .b64 => 2 | .b128 => 4 | _ => 1

/-- The register contents of bytes read (R178): a byte or half-word is sign- or zero-extended. -/
def loadedValue (size : Size) (sx : Bool) (bs : List Byte) : Quad :=
  let x := leNat bs
  match size, sx with
  | .b8, true => ((BitVec.ofNat 8 x).signExtend 32).zeroExtend 128
  | .b16, true => ((BitVec.ofNat 16 x).signExtend 32).zeroExtend 128
  | _, _ => BitVec.ofNat 128 x

/-- The marks of the registers of bytes read, from the marks of the bytes: a register is poisoned when one of its
bytes is (R354). -/
def loadedPoison (ps : List Bool) : BitVec 4 :=
  (List.range 4).foldl (fun m i => putBit m i (((ps.drop (4 * i)).take 4).any id)) 0

/-- Where the first byte of `b` lies, counted from the first byte of `a`, when both are in one memory. -/
def Target.delta (a b : Target) : Option Int :=
  match a, b with
  | .mem x, .mem y => some ((y : Int) - x)
  | .peer d x, .peer e y => if d = e then some ((y : Int) - x) else none
  | .scratch c p x _, .scratch c' p' y _ => if c = c' && p = p' then some ((y : Int) - x) else none
  | _, _ => none

/-- Bytes read at a target under the queued stores of the reading thread, oldest first (R158). -/
def forwarded (q : List QStore) (t : Target) (bs : List Byte) (ps : List Bool) : List Byte × List Bool :=
  q.foldl (fun (bs, ps) w =>
    match t.delta w.target with
    | none => (bs, ps)
    | some d =>
      let new := leBytes (sizeBytes w.size) w.data.toNat
      let pick (i : Nat) : Option Byte := if d ≤ i then new[((i : Int) - d).toNat]? else none
      (bs.zipIdx.map (fun (b, i) => (pick i).getD b), ps.zipIdx.map fun (p, i) => (pick i).isNone && p)) (bs, ps)

namespace State

/-- `n` bytes of a scratchpad allocation, and the mark of each. -/
def scratchRead (s : State) (core place off n : Nat) : List Byte × List Bool :=
  match s.task? core place with
  | none => (List.replicate n 0, List.replicate n false)
  | some t => (t.bytes.read off n, (List.range n).map fun i => t.spois.has ((off + i) / 8))

/-- Marks of the 8-byte units that `n` bytes from `off` on are written to (R355). -/
def scratchMarks (old : NatSet) (off n : Nat) (pois : Bool) : NatSet :=
  (List.range ((off + n + 7) / 8 - off / 8)).foldl (fun m i =>
    let u := off / 8 + i
    let whole := off ≤ 8 * u && 8 * u + 8 ≤ off + n
    if pois then m.add u else if whole then m.del u else m) old

/-- Bytes written to a scratchpad allocation; the full/empty bits stay. -/
def scratchWrite (s : State) (core place off : Nat) (bs : List Byte) (pois : Bool) : State :=
  (s.modTask core place fun t =>
    { t with bytes := t.bytes.write off bs, spois := scratchMarks t.spois off bs.length pois }).touch
      (.granule core place (off / 16))

/-- Whether a granule is full. -/
def granuleFull (s : State) (core place g : Nat) : Bool :=
  ((s.task? core place).map fun t => !t.empties.has g).getD true

/-- A granule's bit, without a look at its list. -/
def putGranule (s : State) (core place g : Nat) (full : Bool) : State :=
  s.modTask core place fun t => { t with empties := if full then t.empties.del g else t.empties.add g }

/-- A load performed at the scratchpad for a thread: the registers written at once in the own scratchpad, and from a
peer scratchpad empty until the data arrives (R178); `.take` empties the granule in the same step. A `.peek` brings
its predicate. -/
def scratchLoad (s : State) (r : ThreadRef) (core place off : Nat) (remote take : Bool) (dst : Reg) (size : Size)
    (sx : Bool) (peek : Option PredReg) : State :=
  let (bs, ps) := s.scratchRead core place off (sizeBytes size)
  let (bs, ps) := forwarded (((s.thread? r).map Thread.queue).getD []) (.scratch core place off remote) bs ps
  let pred := peek.map fun q => (q, s.granuleFull core place (off / 16))
  let got : Arrived := { value := loadedValue size sx bs, poison := loadedPoison ps, pred }
  let s := if take then s.putGranule core place (off / 16) false else s
  if remote then
    s.modThread r fun t =>
      { t.setEmpty dst (sizeWords size) with
        pend := t.pend ++ [{ kind := .load, dst, words := sizeWords size, va := 0, op := none, acq := false, rel := false
                             scope := .thr, issue := 0, tag := none, size, sx, pred := peek, got := some got }] }
  else
    s.modThread r fun t =>
      let t := t.setRegs dst (sizeWords size) got.value.toNat got.poison
      match pred with
      | some (q, b) => t.setPred q b
      | none => t

/-- The oldest store of a thread's queue removed. -/
def popStore (s : State) (r : ThreadRef) : State := s.modThread r fun t => { t with queue := t.queue.drop 1 }

/-- A `.fillw` store performed on its empty granule: bytes and bit in one step (R145). -/
def fillwStore (s : State) (core place off : Nat) (bs : List Byte) : State :=
  (s.scratchWrite core place off bs false).putGranule core place (off / 16) true

/-- Whether an entry of a granule list can succeed with the bit as it stands (R145). -/
def canServe (s : State) (core place g : Nat) (r : ThreadRef) : Bool :=
  match (s.thread? r).map Thread.state with
  | some (.granule c p off op) =>
    let loads : Bool := match op with
      | .load .. => true
      | .store _ => false
    c == core && p == place && off / 16 == g && s.granuleFull core place g == loads
  | _ => false

/-- One entry of a granule list performed, which completes its instruction. -/
def serveOne (s : State) (core place : Nat) (r : ThreadRef) : State :=
  let s := s.modTask core place fun t => { t with gwait := t.gwait.erase r }
  match (s.thread? r).map Thread.state with
  | some (.granule _ _ off (.load remote take dst size sx acq scope)) =>
    let s := s.scratchLoad r core place off remote take dst size sx none
    (if remote || (acq && wideScope scope) then s.dropClean r.core else s).passBlocked r
  | some (.granule _ _ off (.store bs)) => (s.fillwStore core place off bs).passBlocked r
  | _ => s

/-- The list of a granule served from its head until no entry can succeed; each turn serves one entry (R145). -/
def serveGranule (s : State) (core place g : Nat) : Nat → State
  | 0 => s
  | n + 1 =>
    match ((s.task? core place).map Task.gwait).getD [] |>.find? (s.canServe core place g) with
    | none => s
    | some r => (s.serveOne core place r).serveGranule core place g n

/-- A granule's bit set or cleared, and its list served (R145). -/
def setGranule (s : State) (core place g : Nat) (full : Bool) : State :=
  let s := s.putGranule core place g full
  s.serveGranule core place g (((s.task? core place).map fun t => t.gwait.length).getD 0)

/-- A thread put at the end of a granule list. -/
def joinGranule (s : State) (core place : Nat) (r : ThreadRef) : State :=
  s.modTask core place fun t => if t.gwait.contains r then t else { t with gwait := t.gwait ++ [r] }

/-- A thread taken out of every granule list, as it leaves a blocked state. -/
def leaveGranules (s : State) (r : ThreadRef) : State :=
  { s with cores := s.cores.map fun c =>
      { c with tasks := c.tasks.map fun p => (p.1, { p.2 with gwait := p.2.gwait.filter (· != r) }) } }

end State

end Sys2Proof.Machine
end

