-- ==== Sys2Proof/Machine/Queue.lean ====
section
/-!
DEFINITION. What happens to an access after its issue: stores leaving the queue, atomics, barrier and deque operations
performed at their target, results delivered (spec/09_ordering_rules.md R158 to R165; spec/10_memory_isa.md R176 to
R179, R187 to R190; spec/14_progress_isa.md R266 to R269).
-/

namespace Sys2Proof.Machine

/-! ## Read-modify-write (R96, R187, R188) -/

/-- `fmin` and `fmax` on encodings, without flags (R96). -/
def minMaxBits (f : Format) (isMax : Bool) (a b : Nat) : Nat :=
  let (x, _) := f.val a
  let (y, _) := f.val b
  match x, y with
  | .nan, .nan => (f.round .nan .rne false).1
  | .nan, _ => b
  | _, .nan => a
  | x, y => if (if isMax then x.lt y else y.lt x) then b else a

/-- The new value of an operation on an old value (R187). -/
def atomNew (o : AtomOp) (ty : Ty) (old b : Nat) : Nat :=
  let w := ty.width
  match o with
  | .add =>
    if ty = .f32 then (fmtF32.round (exactSum [(fmtF32.val old).1, (fmtF32.val b).1] .rne).1 .rne false).1
    else (old + b) % 2 ^ w
  | .min =>
    if ty = .f32 then minMaxBits (.ieee fmtF32) false old b else if readInt ty b < readInt ty old then b else old
  | .max =>
    if ty = .f32 then minMaxBits (.ieee fmtF32) true old b else if readInt ty old < readInt ty b then b else old
  | .and => old &&& b
  | .or => old ||| b
  | .xor => old ^^^ b
  | .exch => b

/-- The new value of a read-modify-write; none where `cas` fails and writes nothing. -/
def Rmw.new (m : Rmw) (old : Nat) : Option Nat :=
  match m with
  | .op o ty b => some (atomNew o ty old (b.toNat % 2 ^ ty.width))
  | .cas ty e n => if old = e.toNat % 2 ^ ty.width then some (n.toNat % 2 ^ ty.width) else none

def Rmw.ty : Rmw → Ty
  | .op _ ty _ => ty
  | .cas ty _ _ => ty

/-- Bytes of the target of a read-modify-write. -/
def Rmw.bytes (m : Rmw) : Nat := m.ty.width / 8

/-- Whether two lanes of one issue combine: the same operation and type (R165). -/
def Rmw.like : Rmw → Rmw → Bool
  | .op o ty _, .op o' ty' _ => o == o' && ty == ty'
  | .cas ty _ _, .cas ty' _ _ => ty == ty'
  | _, _ => false

/-- A float sum over lanes: the operands so far, oldest first (R165). -/
def floatSum (old : Nat) (cs : List Nat) : Nat :=
  (fmtF32.round (exactSum ((old :: cs).map fun x => (fmtF32.val x).1) .rne).1 .rne false).1

/-- The combined lanes applied in ascending order: what each receives, and the value after; `seen` holds the operands
of a float add so far. -/
def combine (old cur : Nat) (seen : List Nat) : List Rmw → List Nat × Nat
  | [] => ([], cur)
  | m :: ms =>
    match m with
    | .op .add .f32 b =>
      let seen' := seen ++ [b.toNat % 2 ^ 32]
      let (rs, fin) := combine old (floatSum old seen') seen' ms
      (cur :: rs, fin)
    | m =>
      let (rs, fin) := combine old ((m.new cur).getD cur) seen ms
      (cur :: rs, fin)

namespace State

/-! ## Bytes at a target, read and written in one step -/

/-- Whether accesses to a target wait: its page is flipping or its slot is changing (R171, R299). -/
def busy (s : State) (t : Target) : Bool :=
  match t with
  | .mem pa => s.pageBusy pa
  | _ => false

/-- The bytes an operation of core `n` finds at its target, and whether one is poisoned: at the home, in the core's
copy for a narrow scope, or at the scratchpad bank (R163, R164). -/
def opRead (s : State) (n : Nat) (wide : Bool) (t : Target) (k : Nat) : List Byte × Bool × State :=
  match t with
  | .mem pa =>
    if wide then
      let s := s.homeReady (some n) (lineOf pa)
      let (bs, p) := s.readHome pa k
      (bs, p, s)
    else s.loadLine n pa k false
  | .scratch c p off _ =>
    let (bs, ps) := s.scratchRead c p off k
    (bs, ps.any id, s)
  | _ => (List.replicate k 0, false, s)

/-- The bytes an operation writes: an update at the home; into the core's copy without ownership, of which every byte then
replaces the home's at its write-back (R164); at the bank. -/
def opWrite (s : State) (n : Nat) (wide : Bool) (t : Target) (bs : List Byte) : State :=
  match t with
  | .mem pa =>
    if wide || s.subscribed n (.mem (lineOf pa)) then s.storeHomeBy (some n) pa bs 0
    else
      let (l, s) := s.l1Fetch n (lineOf pa)
      let l' := writeL1 l (pa - lineOf pa) bs 0
      (s.putL1 n (if l.owned then l' else { l' with dirty := BitVec.allOnes 64 })).touch (.own n (lineOf pa))
  | .scratch c p off _ => s.scratchWrite c p off bs false
  | _ => s

/-! ## Results -/

/-- The outstanding item `k` of a thread replaced, or removed. -/
def setPend (s : State) (r : ThreadRef) (k : Nat) (p : Option Pend) : State :=
  s.modThread r fun t => { t with pend := match p with
    | some p => t.pend.set k p
    | none => t.pend.eraseIdx k }

/-- An outstanding item fails: its destination stays empty, and the failure waits for its report (R177). -/
def failPend (s : State) (r : ThreadRef) (k : Nat) (t : Trap) : State :=
  let n := (((s.thread? r).bind fun th => th.pend[k]?).map Pend.issue).getD 0
  (s.setPend r k none).modThread r fun th => th.addFail n t

/-- The result of an operation performed: on its way to the registers, or gone where nothing returns. -/
def answerPend (s : State) (r : ThreadRef) (k : Nat) (p : Pend) (x : Nat) (pois : BitVec 4) (q : Option Bool) : State :=
  if p.words = 0 && p.pred.isNone then s.setPend r k none
  else
    let pred := match p.pred, q with
      | some r, some b => some (r, b)
      | _, _ => none
    s.setPend r k (some { p with op := none, got := some { value := BitVec.ofNat 128 x, poison := pois, pred } })

/-- A value that has arrived written to its registers, which become full; a thread that waits on one of them goes on
(R146, R178). -/
def deliver (s : State) (r : ThreadRef) (k : Nat) : State :=
  match (s.thread? r).bind fun t => t.pend[k]? with
  | some p =>
    match p.got with
    | some a =>
      (s.setPend r k none).modThread r fun t =>
        let t := t.setRegs p.dst p.words a.value.toNat a.poison
        let t := match a.pred with
          | some (q, b) => t.setPred q b
          | none => t
        match t.state with
        | .emptyReg v => if t.isFull v then { t with state := .runnable } else t
        | _ => t
    | none => s
  | none => s

/-! ## Barrier words (R266, R267) -/

/-- The word after an arrival, its old phase, and whether a phase completed. -/
def arriveWord (w : Nat) : Nat × Bool × Bool :=
  let phase := w.testBit 63
  let expect := bits w 28 28
  let n := bits w 0 28
  if expect ≤ n + 1 then ((if phase then 0 else 2 ^ 63) + expect * 2 ^ 28, phase, true)
  else ((if phase then 2 ^ 63 else 0) + expect * 2 ^ 28 + (n + 1), phase, false)

/-- Open cross-lane instances of a task undone: those that had arrived are runnable again (R220, R226). -/
def undoArrivals (t : Task) : Task :=
  let who := t.insts.flatMap fun i => i.arrivals.map Arrival.tidx
  { t with insts := []
           threads := t.threads.zipIdx.map fun (th, n) =>
             if who.contains n && th.state == .xlane then { th with state := .runnable } else th }

/-- A task regrouped under a new grant (R220). -/
def reslice (t : Task) (grant : Nat) : Task := { undoArrivals t with grant, slicing := none }

/-- Whether a result is still on its way to a thread of a task (R146). -/
def producing (t : Task) : Bool := t.threads.any fun th => !th.pend.isEmpty

/-- A re-slicing begins: issue stops until every result on its way has been delivered (R220 steps 1 and 2). -/
def startSlice (t : Task) (grant : Nat) : Task :=
  if producing t then { t with slicing := some grant } else reslice t grant

/-- A re-slicing that waited for results goes on when there is none left (R220 steps 3 to 5). -/
def endSlice (t : Task) : Task :=
  match t.slicing with
  | some g => if producing t then t else reslice t g
  | none => t

/-- Whether a phase of the barrier word at `off` of a task's own scratchpad, completed by an arrival, is the point of R219 and
R258: a width is pending, every thread of the task that has not exited has arrived in the phase, and each but the one
that completes it, `me`, waits at the word. -/
def setwDue (s : State) (core place off : Nat) (me : Option Nat) : Bool :=
  match s.task? core place with
  | none => false
  | some t =>
    let waits (th : Thread) : Bool := match th.state with
      | .barrier (.scratch c' p' o' _) _ _ => c' == core && p' == place && o' == off
      | _ => false
    t.setw.isSome && t.threads.zipIdx.all fun (th, n) =>
      th.exited || me == some n || (waits th && (t.arrived.contains (off, n) || t.ended.any fun l => !l.contains off))

/-- A pending width takes effect (R219): the task is re-sliced. The arrival that completes the phase waited until no other
result was on its way (`arriveHolds`). -/
def setwPoint (s : State) (core place : Nat) : State :=
  match s.core? core, (s.task? core place).bind Task.setw with
  | some c, some w => s.modTask core place fun t => { reslice t (grantFor s.part c w) with reqw := w, setw := none }
  | _, _ => s

/-- The peers that wait at a barrier word of this device are answered (R267). -/
def releasePeers (s : State) (w : Target) : State :=
  match w with
  | .mem pa =>
    let s' : State := { s with barPeers := s.barPeers.filter fun x => x.2 != pa }
    (s.barPeers.filter fun x => x.2 == pa).foldl (fun (s : State) x => s.respond x.1 pa (.ok [] 0)) s'
  | _ => s

/-- The threads that wait at a barrier word continue, each with the acquire of its scope (R267). -/
def releaseBarrier (s : State) (w : Target) : State :=
  let here (t : Thread) : Option Scope := match t.state with
    | .barrier v sc _ => if v.delta w = some 0 then some sc else none
    | _ => none
  let go (t : Thread) : Thread :=
    if (here t).isSome then { t with state := .runnable, pc := nextPC t.pc, wait := 0 } else t
  (s.cores.zipIdx).foldl (fun s (c, n) =>
    let ths := (c.tasks.flatMap fun p => p.2.threads) ++ c.casters.map Caster.thr
    let hit := ths.any fun t => (here t).isSome
    let wide := ths.any fun t => (here t).any wideScope
    let on := BitVec.ofNat 64 (ths.filter fun t => (here t).isSome).length
    let s := if hit then s.modCore n fun c =>
        { c with tasks := c.tasks.map fun p => (p.1, { p.2 with threads := p.2.threads.map go })
                 casters := c.casters.map fun k => { k with thr := go k.thr }
                 count := { c.count with issued := c.count.issued + on } } else s
    if wide then s.dropClean n else s) (s.releasePeers w)

/-- A phase of a word of a task's own scratchpad ends: nobody has arrived in the next one. -/
def phaseEnds (t : Task) (off : Nat) : Task :=
  { t with arrived := t.arrived.filter fun e => e.1 != off
           ended := t.ended.map fun l => if l.contains off then l else off :: l }

/-- A barrier word initialised: EXPECT given, no arrival, phase 0 (R267). -/
def barinitAt (s : State) (core : Nat) (wide : Bool) (t : Target) (n : Nat) : State :=
  let s := s.opWrite core wide t (leBytes 8 (n % 2 ^ 28 * 2 ^ 28))
  match t with
  | .scratch c p off _ => s.modTask c p fun k => phaseEnds k off
  | _ => s

/-- The thread of the task of a scratchpad word that an arrival is by, where it is one of that task. -/
def arriver? (r : ThreadRef) (core place : Nat) : Option Nat :=
  match r.who with
  | .user p tidx => if r.core = core && p = place then some tidx else none
  | .caster _ => none

/-- An arrival at a barrier word of thread `r`: the old phase, and the state with the word written and, where the
phase completes, the waiters released (R267). -/
def arriveAt (s : State) (r : ThreadRef) (wide : Bool) (t : Target) : Nat × Bool × State :=
  let (bs, pois, s) := s.opRead r.core wide t 8
  if pois then (0, true, s)
  else
    let (w, phase, done) := arriveWord (leNat bs)
    let s := s.opWrite r.core wide t (leBytes 8 w)
    let s := match t with
      | .scratch c p off _ =>
        let me := arriver? r c p
        if done then
          let s := if s.setwDue c p off me then s.setwPoint c p else s
          s.modTask c p fun k => phaseEnds k off
        else match me with
          | some n => s.modTask c p fun k => { k with arrived := (off, n) :: k.arrived.filter (· != (off, n)) }
          | none => s
      | _ => s
    (phase.toNat, false, if done then s.releaseBarrier t else s)

/-! ## Deques (R268, R269) -/

/-- A well-formed descriptor as its 64 bytes: LOGCAP, BUF, TOP, BOTTOM. -/
def dequeOf? (bs : List Byte) : Option (Nat × Nat × Nat × Nat) :=
  let w := recWord bs
  let cap := bits (w 0) 8 5
  let top := bits (w 2) 0 32
  let bottom := bits (w 3) 0 32
  if bits (w 0) 0 8 != 3 || bits (w 0) 13 51 != 0 || cap = 0 || 24 < cap || bits (w 2) 32 32 != 0 ||
      bits (w 3) 32 32 != 0 || w 4 != 0 || w 5 != 0 || w 6 != 0 || w 7 != 0 ||
      2 ^ cap < (bottom + 2 ^ 32 - top) % 2 ^ 32 then none
  else some (cap, w 1, top, bottom)

/-- What a deque operation comes to at the home of its descriptor. -/
inductive DqEnd where
  /-- The value, the predicate, and the mark of the value. -/
  | done (x : Nat) (q pois : Bool)
  | fail (t : Trap)
  /-- The page of its entry is busy (R171, R299). -/
  | wait

/-- The place of an entry of a deque: translated in the context of the issue (R314); a target that is no memory of this
device or its host counts as a malformed descriptor, the one at `desc` (notes/assumptions/12.md). -/
def dequeEntry (s : State) (a : Accessor) (desc va : DWord) (k : AccessKind) : Except DqEnd Nat × State :=
  match s.translate a va k with
  | (.error none, s) => (.error .wait, s)
  | (.error (some t), s) => (.error (.fail t), s)
  | (.ok t, s) =>
    match s.keyFault a.kslot va t with
    | some f => (.error (.fail f), s)
    | none =>
      match t with
      | .mem pa => (if s.pageBusy pa then .error .wait else .ok pa, s)
      | _ => (.error (.fail { kind := .dequeBad, sub := 0x03, addr := desc }), s)

/-- The entry at `va` taken by a pop or a steal, and the descriptor's word at `off` written. -/
def dequeTake (s : State) (a : Accessor) (pa off new : Nat) (desc va : DWord) : DqEnd × State :=
  match s.dequeEntry a desc va .read with
  | (.error e, s) => (e, s)
  | (.ok e, s) =>
    let s := s.homeReady (some a.core) (lineOf e)
    let (x, p) := s.readHomeBytes e 8
    (.done (leNat x) true p, s.storeHomeBy (some a.core) (pa + off) (leBytes 4 new) 0)

/-- A deque operation performed at the home of its descriptor at `pa` (R269). -/
def dequeStep (s : State) (a : Accessor) (pa : Nat) (va : DWord) (o : DqOp) : DqEnd × State :=
  let s := s.homeReady (some a.core) pa
  let (bs, pois) := s.readHome pa 64
  let entryVa (buf n cap : Nat) : DWord := BitVec.ofNat 64 (buf + 8 * (n % 2 ^ cap))
  match o with
  | .init buf cap =>
    (.done 0 true false, s.storeHomeBy (some a.core) pa (leBytes 8 (3 + cap * 256) ++ leBytes 8 buf.toNat ++ List.replicate 48 0) 0)
  | o =>
    if pois then (.fail { kind := .poison, sub := 0, addr := va }, s)
    else match dequeOf? bs with
      | none => (.fail { kind := .dequeBad, sub := 0x03, addr := va }, s)
      | some (cap, buf, top, bottom) =>
        match o with
        | .push x =>
          if (bottom + 2 ^ 32 - top) % 2 ^ 32 = 2 ^ cap then (.done 0 false false, s)
          else match s.dequeEntry a va (entryVa buf bottom cap) .write with
            | (.error e, s) => (e, s)
            | (.ok e, s) =>
              (.done 0 true false, (s.storeHomeBytesBy (some a.core) e (leBytes 8 x.toNat) false).storeHomeBy (some a.core)
                (pa + 24) (leBytes 4 ((bottom + 1) % 2 ^ 32)) 0)
        | .pop =>
          if bottom = top then (.done 0 false false, s)
          else
            let n := (bottom + 2 ^ 32 - 1) % 2 ^ 32
            s.dequeTake a pa 24 n va (entryVa buf n cap)
        | _ =>
          if bottom = top then (.done 0 false false, s)
          else s.dequeTake a pa 16 ((top + 1) % 2 ^ 32) va (entryVa buf top cap)

/-! ## Operations performed (R163, R165, R190) -/

/-- The acquire of an operation performed, at its scope (R161). -/
def opAcquire (s : State) (r : ThreadRef) (p : Pend) : State :=
  if p.acq && wideScope p.scope then s.dropClean r.core else s

/-- The lanes that combine with an operation of a thread: the thread itself, and the threads of its task, or of the Caster
group, whose operation belongs to the same issue, at the same address (R165), by ascending TIDX; each with the place of
the operation among its outstanding items. -/
def lanesOf (s : State) (r : ThreadRef) (p : Pend) : List (ThreadRef × Nat × Pend) :=
  let same (q : Pend) : Bool :=
    match p.op, q.op with
    | some (t, .rmw m), some (t', .rmw m') => q.issue == p.issue && t == t' && m.like m'
    | some (t, .dq ..), some (t', .dq ..) => q.issue == p.issue && t == t'
    | _, _ => false
  let (place, _) := keyOf r.who
  let ths := if place = casterPlace then ((s.core? r.core).map fun c => c.casters.map Caster.thr).getD []
    else ((s.task? r.core place).map Task.threads).getD []
  let all := ths.zipIdx.filterMap fun (t, n) =>
    (t.pend.zipIdx.find? fun (q, _) => same q).map fun (q, k) =>
      (({ core := r.core, who := whoOf place n } : ThreadRef), k, q)
  if all.isEmpty then ((s.thread? r).bind fun t => t.pend.findIdx? (· == p)).toList.map fun k => (r, k, p) else all

/-- A read-modify-write performed for all of its lanes, or failed for all of them. -/
def performRmw (s : State) (r : ThreadRef) (p : Pend) (t : Target) (m : Rmw) : State :=
  let wide := wideScope p.scope
  let lanes := s.lanesOf r p
  let ms := lanes.filterMap fun l => match l.2.2.op with
    | some (_, .rmw m) => some m
    | _ => none
  let (bs, pois, s) := s.opRead r.core wide t m.bytes
  if pois then
    lanes.foldl (fun s (l, k, q) => s.failPend l k { kind := .poison, sub := failSub q.kind q.dst, addr := q.va }) s
  else
    let old := leNat bs
    let (rs, fin) := combine old old [] ms
    let written := (combine old old [] ms).2 != old || ms.any fun m => (m.new old).isSome
    let s := if written then s.opWrite r.core wide t (leBytes m.bytes fin) else s
    (lanes.zip rs).foldl (fun s ((l, k, q), x) => (s.answerPend l k q x 0 none).opAcquire l q) s

/-- A deque operation of one lane of an issue performed; none where it waits. -/
def dequeLane (pa : Nat) (s : Option State) (x : ThreadRef × Nat × Pend) : Option State :=
  match s, x.2.2.op with
  | some s, some (_, .dq o _ acc) =>
    match s.dequeStep acc pa x.2.2.va o with
    | (.wait, _) => none
    | (.fail t, s) =>
      some (s.failPend x.1 x.2.1 (if t.kind == .poison then { t with sub := failSub x.2.2.kind x.2.2.dst } else t))
    | (.done v b pois, s) =>
      let s := s.answerPend x.1 x.2.1 x.2.2 v (if pois then 0x3 else 0) (some b)
      some (if b then s.opAcquire x.1 x.2.2 else s)
  | s, _ => s

/-- A deque operation performed for the lanes of its issue, one after the other (R269); all wait while the entry of one
lies in a busy page. -/
def performDeque (s : State) (r : ThreadRef) (p : Pend) (pa : Nat) : State :=
  ((s.lanesOf r p).foldl (dequeLane pa) (some s)).getD s

/-- The word of an arrival completes its phase. -/
def arrivalCompletes (s : State) (r : ThreadRef) (t : Target) : Bool :=
  (arriveWord (leNat (s.opRead r.core true t 8).1)).2.2

/-- Whether an arrival waits: it completes a phase at which its word's task is to be re-sliced, and a result of one of the
task's threads is still on its way (R220 step 2, R146). -/
def arriveHolds (s : State) (r : ThreadRef) (t : Target) : Bool :=
  match t with
  | .scratch c p off _ =>
    s.setwDue c p off (arriver? r c p) && s.arrivalCompletes r t &&
      (((s.task? c p).map Task.threads).getD []).zipIdx.any fun (th, n) =>
        th.pend.any fun q => !(q.op == some (t, .bar .arrive) && arriver? r c p == some n)
  | _ => false

/-- The oldest operation of a thread that is not performed yet, performed at its target (R163); nothing happens while
its page is busy. -/
def performOp (s : State) (r : ThreadRef) : State :=
  match (s.thread? r).bind fun t => (t.pend.zipIdx.find? fun (p, _) => p.op.isSome) with
  | none => s
  | some (p, k) =>
    match p.op with
    | none => s
    | some (t, o) =>
      if s.busy t then s
      else match o, t with
        | .rmw m, t => s.performRmw r p t m
        | .dq .., .mem pa => s.performDeque r p pa
        | .dq .., _ => s.failPend r k { kind := .dequeBad, sub := 0x04, addr := p.va }
        | .bar (.init n), t => (s.barinitAt r.core true t n).setPend r k none
        | .bar .arrive, t =>
          if s.arriveHolds r t then s else
          let (x, pois, s') := s.arriveAt r true t
          if pois then s'.failPend r k { kind := .poison, sub := failSub p.kind p.dst, addr := p.va }
          else s'.answerPend r k p x 0 none

/-! ## Stores (R158, R161, R179) -/

/-- Whether nothing stands in the way of a release of thread `r` at a scope: its queue is empty and its operations
performed; at `.clu` or wider the core has no dirty line and no write-back on its way, and what it has sent to peers is
answered, the thread's loads among it, which its release must not go before (R159, R160); at `.sys` the writes to host memory are complete (R161). -/
def releaseReady (s : State) (r : ThreadRef) (sc : Scope) : Bool :=
  match s.thread? r, s.core? r.core with
  | some t, some c =>
    t.queue.isEmpty && !(t.pend.any fun p => p.op.isSome) &&
      (!wideScope sc || (c.l1.all (fun l => l.dirty == 0) && c.wbacks.isEmpty && s.peersQuiet r)) &&
      (sc != .sys || c.hwrites.isEmpty)
  | _, _ => true

/-- The dirty lines of a core start their way home for a release that waits (R161 step 2). -/
def releaseStart (s : State) (r : ThreadRef) (sc : Scope) : State :=
  let queued := ((s.thread? r).map fun t => !t.queue.isEmpty).getD false
  if wideScope sc && !queued then s.startWriteBacks r.core else s

/-- The oldest store of a thread performed, if nothing holds it: whether it left the queue, and the state (R158). -/
def performStore (s : State) (r : ThreadRef) : Bool × State :=
  match (s.thread? r).bind fun t => t.queue.head? with
  | none => (false, s)
  | some q =>
    let bs := leBytes (sizeBytes q.size) q.data.toNat
    match q.target with
    | .mem pa => if s.pageBusy pa then (false, s) else (true, (s.popStore r).storeLine r.core pa bs 0)
    | .scratch c p off _ =>
      let s := (s.popStore r).scratchWrite c p off bs false
      (true, if q.feq = .plain then s else s.setGranule c p (off / 16) true)
    | .mmio off =>
      match (s.popStore r).regWrite off bs with
      | some s => (true, s)
      | none => (false, s)
    | .peer d off =>
      if q.sent.isSome then
        if (s.reqs.any fun x => some x.tag == q.sent) || (!q.pushed && s.subscribed r.core (.peer d (lineOf off))) then (false, s)
        else (true, s.popStore r)
      else if s.unreach d then
        (true, ((s.popStore r).modThread r fun t =>
            t.addFail q.issue { kind := .unreach, sub := BitVec.ofNat 8 d, addr := q.va }).unspend d)
      else if s.lanesOff d then (false, s)
      else
        let (s, tag) := s.sendPeer d off (.thread r) q.va .noReturn 0 bs true [] bs.length (issue := q.issue)
        if s.subscribed r.core (.peer d (lineOf off)) then
          (false, s.modThread r fun t => { t with queue := t.queue.modifyHead fun q => { q with sent := some tag } })
        else (true, s.popStore r)

/-- Whether a thread's oldest store may leave: no operation issued before it is still to be performed (R158). -/
def storeMayLeave (s : State) (r : ThreadRef) : Bool :=
  ((s.thread? r).map fun t => !t.queue.isEmpty && !(t.pend.any fun p => p.op.isSome)).getD false

/-! ## Draining a thread (R176, R338) -/

/-- Whether a thread has no access that has not been performed, delivered, acknowledged or failed. -/
def drained (s : State) (r : ThreadRef) : Bool :=
  ((s.thread? r).map fun t => t.pend.isEmpty && t.queue.isEmpty).getD true && !s.peerOpen r

/-- One step of a thread's outstanding work: a result delivered, an operation performed, or a store. -/
def drainStep (s : State) (r : ThreadRef) : State :=
  match s.thread? r with
  | none => s
  | some t =>
    match t.pend.findIdx? fun p => p.got.isSome with
    | some k => s.deliver r k
    | none => if t.pend.any fun p => p.op.isSome then s.performOp r else (s.performStore r).2

/-- `n` steps of a thread's outstanding work. -/
def drainSteps (s : State) (r : ThreadRef) : Nat → State
  | 0 => s
  | n + 1 => if s.drained r then s else (s.drainStep r).drainSteps r n

/-- A thread's outstanding work done, as far as it does not wait for another party. -/
def drain (s : State) (r : ThreadRef) : State :=
  s.drainSteps r (((s.thread? r).map fun t => 2 * t.pend.length + t.queue.length).getD 0)

end State

end Sys2Proof.Machine
end

