-- ==== Sys2Proof/Machine/Tile.lean ====
section
/-!
DEFINITION. The Crucible: accumulator entries and Merge, planes, holding and chains, tile images and their trailers
(spec/06_crucible_model.md R107 to R120; spec/07_crucible_isa.md R124 to R139; spec/04_numbers.md R78 to R80).
-/

namespace Sys2Proof.Machine

/-! ## Accumulator entries (R78, R115 to R117) -/

/-- AccVal (R78). -/
def AccEntry.val (e : AccEntry) : XVal :=
  if e.oow then .nan
  else match e.spec with
    | .nan => .nan
    | .pinf => .inf false
    | .ninf => .inf true
    | .fin => if e.v = 0 then .zero e.nz else XVal.ofDyadic (e.v.toInt < 0) e.v.toInt.natAbs (-312)

/-- The state `mzero` writes (R134). -/
def AccEntry.zero : AccEntry := { nz := true }

/-- Join (R115). -/
def specJoin (a : Spec) (c : Option Spec) : Spec :=
  match c with
  | none => a
  | some c => if a = .fin then c else if a = c then a else .nan

/-- The special part of a list of terms (R115). -/
def termSpec (t : List XVal) : Option Spec :=
  if t.any XVal.isNan then some .nan
  else if t.contains (.inf false) && t.contains (.inf true) then some .nan
  else if t.contains (.inf false) then some .pinf
  else if t.contains (.inf true) then some .ninf
  else none

/-- s · 2^g as a multiple of 2^-312, rounded toward −∞, and whether it is one. -/
def windowUnits (s g : Int) : Int × Bool :=
  if -312 ≤ g then (s * 2 ^ (g + 312).toNat, true)
  else
    let d : Int := 2 ^ (-312 - g).toNat
    (s / d, s % d == 0)

/-- Add (R116): the contribution s · 2^g. -/
def AccEntry.add (e : AccEntry) (s g : Int) : AccEntry :=
  let (u, whole) := windowUnits s g
  let t := e.v.toInt + u
  { e with v := BitVec.ofInt 624 t
           oow := e.oow || !whole || t < -(2 ^ 623) || 2 ^ 623 ≤ t }

/-- Merge (R115). -/
def AccEntry.merge (e : AccEntry) (t : List XVal) : AccEntry :=
  let fin := t.filter fun x => !x.isNan && !x.isInf
  { e.add (sumUnits fin) (minExp fin) with
    spec := specJoin e.spec (termSpec t), nz := e.nz && fin.all (· == .zero true) }

/-- The entry `minit` makes of an f32 encoding (R135). -/
def AccEntry.ofF32 (x : Nat) : AccEntry :=
  match (fmtF32.val x).1 with
  | .nan => { spec := .nan }
  | .inf n => { spec := if n then .ninf else .pinf }
  | .zero n => { nz := n }
  | .fin n m e _ => ({} : AccEntry).add (if n then -(m : Int) else m) e

/-- An entry of a slot of a task. -/
def Task.acc (t : Task) (slot e : Nat) : AccEntry := (lookup t.accs (slot * 256 + e)).getD {}

/-- An entry written; the one of allocation is not listed. -/
def Task.putAcc (t : Task) (slot e : Nat) (a : AccEntry) : Task :=
  { t with accs := if a = {} then eraseKey t.accs (slot * 256 + e) else insertKey t.accs (slot * 256 + e) a }

/-- Every entry of a slot written. -/
def Task.putSlot (t : Task) (slot : Nat) (f : Nat → AccEntry) : Task :=
  (List.range 256).foldl (fun t e => t.putAcc slot e (f e)) t

/-- Whether an entry of a slot is poisoned. -/
def Task.slotPois (t : Task) (slot : Nat) : Bool :=
  t.accs.any fun p => p.1 / 256 == slot && p.2.pois

/-! ## Elements and layouts (R79, R128) -/

/-- Element `j` of a row of `w`-bit elements. -/
def elemOf (w : Nat) (row : List Byte) (j : Nat) : Nat := bits (leNat row) (w * j) w

/-- Bytes of `n` elements. -/
def fmtBytes (f : Fmt) (n : Nat) : Nat := n * f.format.width / 8

/-- Row `i` of rows of `rb` bytes. -/
def rowOf (bs : List Byte) (rb i : Nat) : List Byte := (bs.drop (rb * i)).take rb

/-- The bytes of a row of `w`-bit codes. -/
def packRow (w : Nat) (codes : List Nat) : List Byte :=
  leBytes (codes.length * w / 8) ((codes.zipIdx.map fun (c, j) => c * 2 ^ (w * j)).foldl (· + ·) 0)

/-- Bytes of an image of K columns (R79): rows, scales of K/2 bytes and a trailer, whatever the format
(notes/assumptions/130.md). -/
def imageBytes (f : Fmt) (k : Nat) : Nat := 16 * fmtBytes f k + k / 2 + 16

/-- Bytes an `mload` or `mstream` reads. -/
def operandBytes (f : Fmt) (k : Nat) (qt : Bool) : Nat := if qt then imageBytes f k else 16 * fmtBytes f k

/-- The format code of an image, as FMT has it. -/
def imageFormat : Fmt → Nat
  | .bf16 => 0 | .f16 => 1 | .ta8 => 2 | .ta6 => 3

/-- The format word of an image. -/
def formatWord (f : Fmt) (k : Nat) : Nat := 0x5154 * 2 ^ 16 + k / 32 * 2 ^ 8 + imageFormat f

/-- The CRC of an image without its last 16 bytes, with its trailer bytes 0 to 7 and 12 to 15 (R80). -/
def imageCrc (body t8 word : List Byte) : Nat := (crc32c (body ++ t8 ++ word)).toNat

/-- The trailer fault of an image (R119): an image names TA8 or TA6 and no other format (R79). -/
def imageFault (f : Fmt) (k : Nat) (bs : List Byte) : Option Byte :=
  let n := 16 * fmtBytes f k + k / 2
  let t := bs.drop n
  if imageCrc (bs.take n) (t.take 8) (t.drop 12) != leNat ((t.drop 8).take 4) then some 0x01
  else if imageFormat f < 2 || leNat (t.drop 12) != formatWord f k then some 0x02
  else none

/-- The plane rows an `mload` writes, row after row (R129). -/
def planeRows (f : Fmt) (k : Nat) (qt : Bool) (bs : List Byte) : List Byte :=
  let w := f.format.width
  if qt then
    ((List.range k).map fun r =>
      packRow w ((List.range 16).map fun j => elemOf w (rowOf bs (fmtBytes f k) j) r)).flatten
  else bs

/-! ## The k-step (R115, R132) -/

/-- The terms of element (i, j) of a k-step. -/
def KStepJob.terms (q : KStepJob) (i j : Nat) : List XVal :=
  let f := q.fmt.format
  let w := f.width
  let act := rowOf q.act (fmtBytes q.fmt q.k) i
  (List.range q.k).map fun k =>
    (prod (f.val (elemOf w act k)).1 (f.val (elemOf w (rowOf q.rows (fmtBytes q.fmt 16) k) j)).1).1

/-- A k-step applied to its slot. A poisoned entry stays so. -/
def KStepJob.apply (q : KStepJob) (t : Task) : Task :=
  t.putSlot q.slot fun e => (t.acc q.slot e).merge (q.terms (e / 16) (e % 16))

/-! ## Tile conversion (R139) -/

/-- The largest finite magnitude of a list, by its exact value; zero when there is none. -/
def largest (xs : List XVal) : XVal :=
  xs.foldl (fun m x => match x with
    | .fin _ a e _ => if m.lt (.fin false a e false) then .fin false a e false else m
    | _ => m) (.zero false)

/-- The scale of a block. -/
def blockScale (xs : List XVal) : Int :=
  match largest xs with
  | .fin _ m e _ => max (-127) (min 127 (e + m.log2))
  | _ => 0

/-- A row of K values as its codes and its block scales. -/
def quantRow (f : Fmt) (k : Nat) (xs : List XVal) : List Nat × List Nat :=
  let blocks := chunks 32 (k / 32) xs
  ((blocks.map fun b => b.map fun x => (f.format.round (x.scale (-(blockScale b))) .rne true).1).flatten,
    blocks.map fun b => (blockScale b % 256).toNat)

/-- The quantised image of 16 rows of K f32 encodings. -/
def quantImage (f : Fmt) (k : Nat) (xs : List Nat) : List Byte :=
  let vals := xs.map fun x => (fmtF32.val x).1
  let rows := (chunks k 16 vals).map (quantRow f k)
  let body := (rows.map fun r => packRow f.format.width r.1).flatten ++
    (rows.map fun r => r.2.map fun s => BitVec.ofNat 8 s).flatten
  let top : Nat :=
    if vals.any XVal.isNan then fmtF32.nanCode
    else if vals.any XVal.isInf then fmtF32.infCode
    else (fmtF32.round (largest vals) .rne false).1
  let t8 := leBytes 4 top ++ leBytes 4 (vals.filter XVal.isInf).length
  let word := leBytes 4 (formatWord f k)
  body ++ t8 ++ leBytes 4 (imageCrc body t8 word) ++ word

/-! ## Drains (R136) and the summary word (R138) -/

/-- The output format of a drain. -/
def ofmtTy : OFmt → FFmt
  | .f32 => fmtF32
  | .bf16 => fmtBf16
  | .f16 => fmtF16

/-- The bytes `mdrain` writes. -/
def drainBytes (t : Task) (slot : Nat) (o : OFmt) (rm : Rm) (sat : Bool) : List Byte :=
  let f := ofmtTy o
  ((List.range 256).map fun e => leBytes (f.w / 8) (f.round (t.acc slot e).val rm sat).1).flatten

/-- The word `mstat` writes. -/
def slotSummary (t : Task) (slot : Nat) : Nat :=
  let es := (List.range 256).map (t.acc slot)
  let b (p : AccEntry → Bool) (n : Nat) : Nat := boolBit (es.any p) n
  let finite (e : AccEntry) : Bool := match e.val with
    | .fin .. => true
    | _ => false
  (es.filter fun e => e.oow || e.spec != .fin).length * 2 ^ 16 + b (fun e => e.val == .zero true) 5 + b finite 4 +
    b (fun e => !e.oow && e.spec == .ninf) 3 + b (fun e => !e.oow && e.spec == .pinf) 2 +
    b (fun e => e.spec == .nan) 1 + b (fun e => e.oow) 0

/-- The contribution of `mscale` to an entry (R137). -/
def scaledTerm (src : AccEntry) (sa sb : Byte) : XVal :=
  if sa = 0x80 || sb = 0x80 then .nan else src.val.scale (sa.toInt + sb.toInt)

/-! ## Holding (R108 to R111) -/

def Core.cru? (c : Core) (n : Nat) : Option Crucible := c.crus[n]?

/-- The open chain a thread has on a Crucible: one it has not closed. -/
def Crucible.openBy (k : Crucible) (place tidx : Nat) : Option Chain :=
  if k.holder = some (place, tidx) then k.chain.filter fun c => !c.closed else none

/-- The wait of R113 for thread `tidx` on a slot: a chain of another thread targets it, open or closed and not
complete, or a chain of its own with k-steps still to be applied. Chains of a loaded shell that is not restored yet
count (R111, R114). -/
def Core.chainHolds (c : Core) (place tidx slot : Nat) : Bool :=
  (c.crus.any fun k => (k.chain.any fun x => x.slot == slot) &&
    k.holder.any fun h => h.1 == place && (h.2 != tidx || !k.jobs.isEmpty)) ||
  ((c.task? place).any fun t => t.planes.any fun p => p.holder != tidx && p.chain.any fun x => x.1 == slot)

namespace State

def modCru (s : State) (core n : Nat) (f : Crucible → Crucible) : State :=
  s.modCore core fun c => { c with crus := c.crus.modify n f }

/-- A thread taken off every list of threads that wait for a Crucible (R108). -/
def leaveCrus (s : State) (r : ThreadRef) : State :=
  s.modCore r.core fun c =>
    { c with crus := c.crus.map fun k => { k with waiters := k.waiters.filter (· != keyOf r.who) } }

/-- The state of a Crucible a thread of a task takes hold of: its planes read zero when another task held it last
(R109). A task loaded from a shell is taken as another task than the one that was saved, as far as planes left in a Crucible
it did not hold at save go (DESIGN CHOICE, notes/assumptions/115.md). -/
def takenBy (k : Crucible) (place tidx : Nat) (gen : BitVec 6) : Crucible :=
  let k := if k.last = some (place, gen) then k else { k with active := [], shadow := [], apois := [], spois := [] }
  { k with holder := some (place, tidx), chain := none, last := some (place, gen)
           waiters := k.waiters.filter (· != (place, tidx)) }

/-- The saved planes and chain of a loaded shell for a thread and a Crucible (R111). -/
def savedPlane? (s : State) (core place tidx n : Nat) : Option SavedPlane :=
  (s.task? core place).bind fun t => t.planes.find? fun p => p.cru == n && p.holder == tidx

/-- The claim of R108: the state in which the thread holds the Crucible, with what its shell saved restored (R111), or
none with the thread among those that wait. A thread whose own chain there is closed and not complete waits behind those
that waited before it (DESIGN CHOICE, notes/assumptions/116.md). -/
def claim (s : State) (core place tidx n : Nat) : Bool × State :=
  match (s.core? core).bind fun c => c.cru? n with
  | none => (false, s)
  | some k =>
    let mine := k.holder == some (place, tidx) && (k.chain.all fun c => !c.closed)
    if mine then (true, s)
    else if k.holder.isNone && (k.waiters.isEmpty || k.waiters.head? == some (place, tidx)) then
      let gen := ((s.core? core).map fun c => c.gen place).getD 0
      let s' := s.modCru core n fun k => takenBy k place tidx gen
      match s.savedPlane? core place tidx n with
      | none => (true, s')
      | some p =>
        let s' := s'.modCru core n fun k =>
          { k with active := p.active, shadow := p.shadow, apois := p.apois, spois := p.spois
                   chain := p.chain.map fun x => { slot := x.1, fmt := x.2, closed := false } }
        (true, s'.modTask core place fun t => { t with planes := t.planes.erase p })
    else
      (false, s.modCru core n fun k =>
        if k.waiters.contains (place, tidx) then k else { k with waiters := k.waiters ++ [(place, tidx)] })

/-- A Crucible becomes Free. -/
def freeCru (s : State) (core n : Nat) : State := s.modCru core n fun k => { k with holder := none, chain := none }

/-- The oldest k-step of a Crucible applied; the last one of a closed chain frees the Crucible (R133). -/
def completeKstep (s : State) (core n : Nat) : State :=
  match (s.core? core).bind fun c => c.cru? n with
  | none => s
  | some k =>
    match k.jobs with
    | [] => s
    | q :: js =>
      let s := s.modTask core q.place q.apply
      let s := s.modCru core n fun k => { k with jobs := js }
      let s := s.modCore core fun c => { c with count := { c.count with ksteps := c.count.ksteps + 1 } }
      if js.isEmpty && k.chain.any Chain.closed then s.freeCru core n else s

/-- `m` k-steps of a Crucible applied. -/
def completeKsteps (s : State) (core n : Nat) : Nat → State
  | 0 => s
  | m + 1 => (s.completeKstep core n).completeKsteps core n m

/-- The chain of a Crucible closed (R133): Free at once when no k-step is left. -/
def closeChain (s : State) (core n : Nat) : State :=
  match (s.core? core).bind fun c => c.cru? n with
  | none => s
  | some k =>
    if k.jobs.isEmpty then s.freeCru core n
    else s.modCru core n fun k => { k with chain := k.chain.map fun c => { c with closed := true } }

/-- The full bits of finished work set, granule by granule (R127). -/
def setFills (s : State) (core place : Nat) : List Nat → State
  | [] => s
  | g :: gs => (s.setGranule core place g true).setFills core place gs

/-- The oldest piece of Crucible work of a core that meets a test completed. -/
def completeWork (s : State) (core : Nat) (p : CruWork → Bool) : State :=
  match (s.core? core).bind fun c => c.work.find? p with
  | none => s
  | some w => (s.modCore core fun c => { c with work := c.work.erase w }).setFills core w.place w.fills

/-- Every Crucible-class instruction of a thread completed (R126, R338): its k-steps and its fills. -/
def finishCrus (s : State) (r : ThreadRef) : State :=
  let s := (List.range s.part.crucibles).foldl (fun s n =>
    match (s.core? r.core).bind fun c => c.cru? n with
    | some k => if k.holder == some (keyOf r.who) then s.completeKsteps r.core n k.jobs.length else s
    | none => s) s
  let mine (w : CruWork) : Bool := (w.place, w.tidx) == keyOf r.who
  let n := ((s.core? r.core).map fun c => (c.work.filter mine).length).getD 0
  (List.range n).foldl (fun s _ => s.completeWork r.core mine) s

/-- A holder that exits: an implicit `mend`, and Free (R108). -/
def exitCrus (s : State) (core place tidx : Nat) : State :=
  (List.range s.part.crucibles).foldl (fun s n =>
    match (s.core? core).bind fun c => c.cru? n with
    | some k => if k.holder == some (place, tidx) then (s.completeKsteps core n k.jobs.length).freeCru core n else s
    | none => s) (s.modTask core place fun t => { t with planes := t.planes.filter fun p => p.holder != tidx })

/-! ## Scratchpad operands (R124, R125) -/

/-- Alignment and bounds of an operand of `n` bytes in an allocation of `size`. -/
def operandFault (size a n : Nat) : Option Trap :=
  if a % 16 != 0 then some { kind := .align, sub := 0x01, addr := BitVec.ofNat 64 a }
  else if size < a + n then some { kind := .bounds, sub := 0x02, addr := BitVec.ofNat 64 a }
  else none

/-- The bytes of an operand under the thread's queued stores, and the trap of the first poisoned granule. -/
def operandRead (s : State) (r : ThreadRef) (place a n : Nat) : List Byte × Option Trap :=
  let (bs, ps) := s.scratchRead r.core place a n
  let (bs, ps) := forwarded (((s.thread? r).map Thread.queue).getD []) (.scratch r.core place a false) bs ps
  (bs, (ps.findIdx? id).map fun i => { kind := .poison, sub := 0x01, addr := BitVec.ofNat 64 ((a + i) / 16 * 16) })

/-- Whether an atomic of a thread on its own scratchpad is not performed yet: what the class reads and writes there comes
after it (R127). -/
def scratchOpWaits (s : State) (r : ThreadRef) : Bool :=
  (((s.thread? r).map Thread.pend).getD []).any fun p => p.op.any fun o => match o.1 with
    | .scratch c place _ _ => c == r.core && place == (keyOf r.who).1
    | _ => false

/-- A Crucible holds nothing of a task any more that leaves its place (R109). -/
def forgetPlanes (s : State) (core place : Nat) : State :=
  s.modCore core fun c =>
    { c with crus := c.crus.map fun k => if k.last.any fun x => x.1 == place then { k with last := none } else k }

/-- Whether a queued store of a thread to its scratchpad meets the bytes of a write. -/
def storesMeet (s : State) (r : ThreadRef) (place a n : Nat) : Bool :=
  ((s.thread? r).map Thread.queue).getD [] |>.any fun q => match q.target with
    | .scratch c p off _ => c == r.core && p == place && off < a + n && a < off + sizeBytes q.size
    | _ => false

end State

end Sys2Proof.Machine
end

