-- ==== Sys2Proof/Machine/Health.lean ====
section
/-!
DEFINITION. Health counts and what reaching a threshold does: bays and cores that leave service
(spec/23_errors_degraded_checkpoint.md R352 to R363; spec/20_system_isa.md R319), and the record and report of a machine
check (spec/22_traps_restart.md R350).
-/

namespace Sys2Proof.Machine

/-- The machine-check record's offset in the pinned window (R349). -/
def mcRecordOff : Nat := 0x3000

/-- The codes of the trap kinds (R335). -/
def TrapKind.code : TrapKind → Nat
  | .illegal => 0x01 | .illpair => 0x02 | .cfi => 0x03 | .priv => 0x04 | .unitAbsent => 0x05 | .fptrap => 0x06
  | .uninit => 0x07 | .emptyreg => 0x08 | .align => 0x09 | .pageNp => 0x0A | .pagePerm => 0x0B | .bounds => 0x0C
  | .trailer => 0x0D | .poison => 0x0E | .unreach => 0x0F | .remoteFault => 0x10 | .sys => 0x11 | .brk => 0x12
  | .watch => 0x13 | .trap => 0x14 | .signal => 0x15 | .key => 0x16 | .peerFault => 0x17 | .illegalLine => 0x18
  | .launchBad => 0x19 | .dequeBad => 0x1A | .machineCheck => 0x1B
  | .other c => c.toNat

/-- Word w0 of a fault record. -/
def FaultRec.w0 (f : FaultRec) : Nat :=
  f.tidx * 2 ^ 32 + f.core % 2 ^ 16 * 2 ^ 16 + f.trap.sub.toNat * 2 ^ 8 + f.trap.kind.code

/-- The 64 bytes of a fault record (R336). -/
def FaultRec.bytes (f : FaultRec) : List Byte :=
  leBytes 8 f.w0 ++ leBytes 8 f.pc.toNat ++ leBytes 8 f.trap.addr.toNat ++ leBytes 8 f.trap.prog ++
    leBytes 8 (f.handle.toNat * 2 ^ 32 + f.lid.toNat) ++ leBytes 8 (f.trap.what * 2 ^ 16 + f.trap.val % 2 ^ 16) ++
    leBytes 8 f.time.toNat ++ leBytes 8 0

namespace State

/-! ## Cores leave (R319, R359) -/

/-- The threads of a core, of its tasks and of its Caster group. -/
def threadsOf (s : State) (n : Nat) : List ThreadRef :=
  match s.core? n with
  | none => []
  | some c =>
    (c.tasks.flatMap fun p => (List.range p.2.threads.length).map fun i => ThreadRef.mk n (.user p.1 i)) ++
      (List.range c.casters.length).map fun i => ThreadRef.mk n (.caster i)

/-- The threads of a core out of every parking queue, and their reservations returned (R274). -/
def leaveSprue (s : State) (n : Nat) : State :=
  let s : State := { s with dests := s.dests.map fun e => { e with parked := e.parked.filter fun p => p.thread.core != n } }
  (List.range 64).foldl wakeDest ((s.threadsOf n).foldl dropReserved s)

/-- A core out of service (R319 steps 1, 2 and 4): its Runners pass on, its tasks are lost, its Caster threads idle. -/
def takeOut (s : State) (n : Nat) : State :=
  ((s.leaveSprue n).passRunners n).modCore n fun c =>
    { c with service := .out, tasks := [], copies := [], riser := [], stalled := [], popped := [], calls := []
             unposted := [], reqs := [], mcheck := [], insts := [], work := []
             crus := c.crus.map fun _ => Crucible.reset
             casters := c.casters.map fun k => { k with thr := { k.thr with state := .idle }, cause := 0, call := none } }

/-- A core leaves dispatch (R359): it takes no new task, its Runners pass on, and without a task it leaves service. -/
def leaveDispatch (s : State) (n : Nat) : State :=
  match s.core? n with
  | none => s
  | some c =>
    if c.service != .running then s
    else
      let s := if c.tasks.isEmpty then s.takeOut n else (s.passRunners n).modCore n fun c => { c with service := .leaving }
      let s := { s with record := { s.record with cores := s.record.cores.add n } }
      (s.healthEvent 2 n).replaceRequested

/-- A core that has left dispatch leaves service when its last task has gone (R359). -/
def lastTaskGone (s : State) (n : Nat) : State :=
  if (s.core? n).any fun c => c.service == .leaving && c.tasks.isEmpty then s.takeOut n else s

/-- The record, the register and the message of a machine check (R350). -/
def reportMcheck (s : State) (n : Nat) (sub : Byte) (tidx : Nat) (w1 w2 : DWord) (handle lid : Word) : State :=
  match s.core? n with
  | none => s
  | some c =>
    let f : FaultRec := { tidx, core := n, trap := { kind := .machineCheck, sub, addr := w2 }, pc := w1, handle, lid
                          time := s.cycle }
    let s := s.storeHomeBytesBy (some n) (c.window.toNat + mcRecordOff) f.bytes false
    let s := { s with regs := { s.regs with mcSub := sub, mcCore := BitVec.ofNat 16 n
                                            mcCount := s.regs.mcCount + 1, mcValid := true } }
    if s.regs.mcmsg = 0 then s else s.send (.hostWrite s.regs.mcmsg (s.mcstat >>> 16) 8)

/-- A core halts (R319), with the machine check it reports. -/
def haltCore (s : State) (n : Nat) (sub : Byte) (tidx : Nat) (w1 w2 : DWord) : State :=
  ((s.takeOut n).reportMcheck n sub tidx w1 w2 0 0).replaceRequested

/-- A device that has failed (R356): it accepts nothing until reset. -/
def deviceFailed (s : State) : State :=
  let s := ({ s with health := { s.health with failed := true } }.healthEvent 8 0).replaceRequested
  s.send (.mctpReport s.bootstat)

/-! ## Bays (R357, R358) -/

/-- A bay leaves service: tasks whose grant the others cannot hold are re-sliced. -/
def bayOut (s : State) (n bay : Nat) : State :=
  match s.core? n with
  | none => s
  | some c =>
    if !c.bays.contains bay then s
    else if c.bays.length = 1 then s.leaveDispatch n
    else
      let c' := { c with bays := c.bays.filter (· != bay) }
      let s := s.modCore n fun c =>
        { c with bays := c'.bays
                 tasks := c.tasks.map fun p =>
                   (p.1, if c'.baysHold p.2.grant then p.2 else startSlice p.2 (grantFor s.part c' p.2.reqw)) }
      let s := { s with record := { s.record with bays := s.record.bays ++ [(n, bay)] } }
      (s.healthEvent 1 (n + bay * 2 ^ 16)).replaceRequested

def modHealth (s : State) (n : Nat) (f : CoreHealth → CoreHealth) : State :=
  s.modCore n fun c => { c with health := f c.health }

/-- Corrected errors counted on the device (R383). -/
def countCorrected (s : State) : State := { s with count := { s.count with corrected := s.count.corrected + 1 } }

/-- Whether a count has just reached a threshold; 0 disables the action. -/
def reached (count threshold : Nat) : Bool := threshold != 0 && count == threshold

/-- A corrected error in a lane column (R357). -/
def laneError (s : State) (n bay lane : Nat) : State :=
  let s := (s.countCorrected).modHealth n fun h =>
    { h with lanes := bump h.lanes (bay * 32 + lane), bays := bump h.bays bay }
  match s.core? n with
  | none => s
  | some c =>
    if reached (countAt c.health.lanes (bay * 32 + lane)) s.thresholds.lane ||
        reached (countAt c.health.bays bay) s.thresholds.bay then s.bayOut n bay else s

/-- A corrected error in the storage of a core. -/
def coreCorrected (s : State) (n : Nat) : State :=
  let s := (s.countCorrected).modHealth n fun h => { h with corrected := h.corrected + 1 }
  match s.core? n with
  | none => s
  | some c => if reached c.health.corrected s.thresholds.coreCorrected then s.leaveDispatch n else s

/-- An uncorrectable error in the storage of a core. -/
def coreUncorrectable (s : State) (n : Nat) : State :=
  let s := { s with count := { s.count with uncorrectable := s.count.uncorrectable + 1 } }.modHealth n fun h =>
    { h with uncorrectable := h.uncorrectable + 1 }
  match s.core? n with
  | none => s
  | some c => if reached c.health.uncorrectable s.thresholds.coreUncorrectable then s.leaveDispatch n else s

/-! ## HBM pages (R357, R360) -/

/-- A page pending retirement. -/
def pagePending (s : State) (page : Nat) : State :=
  if s.health.pendingPages.has page || s.health.retired.has page then s
  else { s with health := { s.health with pendingPages := s.health.pendingPages.add page } }.healthEvent 3 page

/-- A corrected error in an HBM line. -/
def hbmCorrected (s : State) (pa : Nat) : State :=
  let page := pa / 4096
  let n := countAt s.health.pages page + 1
  let s := { s.countCorrected with health := { s.health with pages := insertKey s.health.pages page n } }
  if reached n s.thresholds.pageCorrected then s.pagePending page else s

/-- An uncorrectable error in an HBM unit: the unit is poisoned. -/
def hbmUncorrectable (s : State) (pa : Nat) : State :=
  let page := pa / 4096
  let n := countAt s.health.pagesBad page + 1
  let s := { s with mpois := s.mpois.add (pa / 16)
                    count := { s.count with uncorrectable := s.count.uncorrectable + 1 }
                    health := { s.health with pagesBad := insertKey s.health.pagesBad page n } }
  if reached n s.thresholds.pageUncorrectable then s.pagePending page else s

end State

end Sys2Proof.Machine
end

