-- ==== Sys2Proof/Machine/Line.lean ====
section
/-!
DEFINITION. Fetch lines: their layout and checks, and the L1 instruction cache (spec/02_encoding.md R21 to R27).
-/

namespace Sys2Proof.Machine

/-! ## The line (R21 to R24) -/

/-- The word of slot k (R21). -/
def slotWord (bs : List Byte) (k : Nat) : InstrWord := BitVec.ofNat 96 (leNat ((bs.drop (12 * k)).take 12))

/-- The line word. -/
def lineWord (bs : List Byte) : Nat := leNat (bs.drop 60)

/-- TGT[k] (R22). -/
def lineTgt (bs : List Byte) (k : Nat) : Bool := (lineWord bs).testBit k

/-- PAIR[k]. -/
def linePair (bs : List Byte) (k : Nat) : Bool := k < 4 && (lineWord bs).testBit (5 + k)

/-- Exclusive OR of the bits of a number. -/
def parityOf (x : Nat) : Bool := (List.range 16).foldl (fun p i => p != x.testBit i) false

/-- PAR[i] as R23 computes it. -/
def parBit (bs : List Byte) (i : Nat) : Bool :=
  ((bs.take 60).zipIdx.foldl (fun p (b, j) => if j % 8 = i then p != parityOf b.toNat else p)
    (i == 0 && parityOf (lineWord bs % 2 ^ 16)))

/-- The PAR field of a line's bytes. -/
def lineParity (bs : List Byte) : Nat := (List.range 8).foldl (fun n i => n + boolBit (parBit bs i) i) 0

/-- Whether every PAR bit is as R23 has it. -/
def parityOk (bs : List Byte) : Bool := bits (lineWord bs) 16 8 == lineParity bs

/-- The checks of R24 after parity and poison: the sub-kind of ILLEGAL_LINE. -/
def lineCheck (bs : List Byte) : Option Byte :=
  let w := lineWord bs
  if bits w 24 8 != 1 then some 0x01
  else if bits w 9 7 != 0 then some 0x02
  else if (List.range 3).any fun k => linePair bs k && linePair bs (k + 1) then some 0x03
  else if (List.range 4).any fun k => linePair bs k && lineTgt bs (k + 1) then some 0x04
  else none

/-- What the core knows of a line that has arrived. -/
def lineState (bs : List Byte) (pois : Bool) : LineState :=
  if pois then .poisoned
  else match lineCheck bs with
    | some sub => .bad sub
    | none => .good

namespace State

/-! ## The L1 instruction cache -/

def iline? (s : State) (n pa : Nat) : Option ILine := (s.core? n).bind fun c => c.icache.find? fun l => l.pa == pa

/-- A line of the instruction cache replaced, or dropped. -/
def putLine (s : State) (n pa : Nat) (l : Option ILine) : State :=
  s.modCore n fun c => { c with icache := l.toList ++ c.icache.filter fun k => k.pa != pa }

/-- A line that arrives (R24): a parity failure counts one corrected error and the line is fetched again; the second
in a row is a machine check, for which the answer is true. -/
def lineArrives (s : State) (n pa : Nat) : Bool × State :=
  let s := s.verify pa
  let (bs, p) := s.homeRead pa
  if parityOk bs then (false, s.putLine n pa (some { pa, bytes := bs, state := lineState bs (p != 0) }))
  else if (s.iline? n pa).any fun l => l.state == .parityOnce then (true, s.putLine n pa none)
  else (false, (s.coreCorrected n).putLine n pa (some { pa, bytes := bs, state := .parityOnce }))

/-- The line of an issue or a transfer, fetched where the cache has none that is checked: none with true for a machine
check, and with false while the page is busy. -/
def lineAt (s : State) (n pa : Nat) : Option ILine × Bool × State :=
  if s.pageBusy pa then (none, false, s)
  else
    let s := if (s.iline? n pa).isSome then s else (s.lineArrives n pa).2
    match s.iline? n pa with
    | some l =>
      if l.state != .parityOnce then (some l, false, s)
      else
        let (bad, s) := s.lineArrives n pa
        (if bad then none else s.iline? n pa, bad, s)
    | none => (none, false, s)

/-- What a thread finds at a line address. -/
inductive Fetched where
  | line (bs : List Byte)
  | trap (t : Trap)
  /-- The line failed parity twice in a row. -/
  | check
  /-- The page is busy, or the line is on its way from a peer. -/
  | wait

/-- What a line of the cache is to a thread that needs it at `va` (R24, R27). -/
def ofLine (l : ILine) (va : DWord) : Fetched :=
  match l.state with
  | .poisoned => .trap { kind := .poison, sub := 0, addr := va }
  | .bad sub => .trap { kind := .illegalLine, sub, addr := va }
  | _ => .line l.bytes

/-- The line of a peer's memory that a core waits for, and whether it is asked for already. -/
def lineAsked (s : State) (n d off : Nat) : Bool := s.reqs.any fun q => q.owner == .line n && q.dev == d && q.off == off

/-- A line of a peer's memory as a core fetches it (R140): a Read of 64 bytes goes to the peer (R211), with one flit of each
class, for which the thread holds at its instruction while the destination is HELD or grants too few
(notes/assumptions/109.md). An error answer is REMOTE_FAULT where the line was needed. -/
def peerLineAt (s : State) (n d off : Nat) (va w2 : DWord) : Fetched × State :=
  let pa := peerPa d off
  let ask : Fetched × State :=
    let e := s.dest d
    if s.lineAsked n d off || e.held || !e.parked.isEmpty || e.req = 0 || e.rsp = 0 || !s.room d then (.wait, s)
    else (.wait, ((s.spend d 1 1).sendPeer d off (.line n) va .load 0 [] false [] 64).1)
  match s.iline? n pa with
  | none => ask
  | some l =>
    match l.state with
    | .refused => (.trap { kind := .remoteFault, sub := 0x40, addr := w2 }, s.putLine n pa none)
    | .parityOnce => ask
    | _ => (ofLine l va, s)

/-- A line of a peer that arrives, checked as any line (R24). -/
def peerLineArrives (s : State) (n d off : Nat) (bs : List Byte) (marks : BitVec 4) : State :=
  let pa := peerPa d off
  if parityOk bs then s.putLine n pa (some { pa, bytes := bs, state := lineState bs (marks != 0) })
  else if (s.iline? n pa).any fun l => l.state == .parityOnce then s.putLine n pa (some { pa, bytes := bs, state := .parityTwice })
  else (s.coreCorrected n).putLine n pa (some { pa, bytes := bs, state := .parityOnce })

/-- The line of a virtual line address for a thread, with what R24, R25 and R27 give in its place; `w2` is the address
reported for a fetch that faults. The fetch of a Caster thread is physical (R313). A line in device MMIO is an access of 64
bytes there, which R149 refuses. -/
def fetch (s : State) (r : ThreadRef) (va w2 : DWord) : Fetched × State :=
  let a := s.accessor r
  let (res, s) : Translated × State :=
    if a.user then s.translate a va .fetch else (s.physical va, s)
  match res with
  | .error none => (.wait, s)
  | .error (some t) => (.trap { t with addr := w2 }, s)
  | .ok t =>
    match s.targetFault a w2 64 false t, t with
    | some x, _ => (.trap x, s)
    | none, .mem pa =>
      match s.lineAt r.core pa with
      | (some l, _, s) => (ofLine l va, s)
      | (none, bad, s) => (if bad then .check else .wait, s)
    | none, .peer d off =>
      if (s.iline? r.core (peerPa d off)).any fun l => l.state == .parityTwice then (.check, s.putLine r.core (peerPa d off) none)
      else s.peerLineAt r.core d off va w2
    | none, _ => (.wait, s)

/-- The outcome of the check of a control transfer (R27). -/
inductive Transfer where
  | ok
  | trap (t : Trap)
  /-- The target line failed parity twice in a row: machine check 0x02. -/
  | check
  | wait

/-- The check of a control transfer to `target` (R27). A line that fails R24 traps at the transferring instruction, as R24
and R27 have it (notes/assumptions/110.md). -/
def checkTarget (s : State) (r : ThreadRef) (target : DWord) : Transfer × State :=
  if pcBad target then (.trap { kind := .cfi, sub := 0x02, addr := target }, s)
  else
    match s.fetch r (pcLine target) target with
    | (.trap t, s) => (.trap t, s)
    | (.check, s) => (.check, s)
    | (.wait, s) => (.wait, s)
    | (.line bs, s) =>
      (if lineTgt bs (pcSlot target) then .ok else .trap { kind := .cfi, sub := 0x01, addr := target }, s)

end State

end Sys2Proof.Machine
end

