-- ==== Sys2Proof/Machine/Placing.lean ====
section
/-!
DEFINITION. The placing of one instruction where the next step fetches it (notes/assumptions/30.md): its line in HBM, page
tables that map it, and a thread that stands at it.
-/

namespace Sys2Proof.Machine

/-- Address of the line that holds the placed instruction, virtual and physical. -/
def placedLine : Nat := 0x40000000

/-- The 64 bytes of a line with the word in slot 0 and `nop` in the others. -/
def placedBytes (w : Nat) : List Byte :=
  let bs := leBytes 12 (w % 2 ^ 96) ++ List.replicate 48 (0 : Byte) ++ leBytes 4 (2 ^ 24)
  bs.take 60 ++ leBytes 4 (2 ^ 24 + lineParity bs * 2 ^ 16)

/-- Page tables in mirror mode: one 1 GiB leaf, user, with every permission, for the address of the line. -/
def placedTables (m : Memory) : Memory :=
  ((m.write (placedLine + 0x1000) (leBytes 8 ((placedLine + 0x2000) / 4096 * 1024 + 1))).write (placedLine + 0x2000)
    (leBytes 8 ((placedLine + 0x3000) / 4096 * 1024 + 1))).write (placedLine + 0x3008)
    (leBytes 8 (placedLine / 4096 * 1024 + 0xDF))

/-- PTROOT of those tables: mirror mode. -/
def placedRoot : DWord := BitVec.ofNat 64 (2 ^ 63 + (placedLine + 0x1000) / 4096)

/-- A task of one thread at the line. -/
def placedTask : Task where
  threads := [Thread.create (BitVec.ofNat 64 placedLine)]
  reqw := 8
  setw := none
  grant := 8
  segw := 0
  lid := 0
  coord := (0, 0, 0)
  tile := 0
  recpa := 0
  launch := 0
  ctx := { ctxn := 0, kslot := 0, asid := 0, ptroot := placedRoot, callring := 0, sigvec := 0 }
  scratch := 1024
  bytes := []
  empties := []
  spois := []
  gwait := []
  accslots := 1
  accs := []
  insts := []
  arrived := []
  ended := none
  watch0 := {}
  watch1 := {}
  cluster := none
  planes := []
  stopped := false

/-- Whether a word's major is one of the privileged class. -/
def placedPrivileged (w : Nat) : Bool := 0x88 ≤ bits w 88 8 && bits w 88 8 ≤ 0x94

/-- The thread that runs a placed word: thread 0 of place 0 of core 0, or Caster thread 0 for the privileged roots. -/
def placedThread (w : Nat) : ThreadRef :=
  { core := 0, who := if placedPrivileged w then .caster 0 else .user 0 0 }

/-- The core with that thread ready to run. -/
def placedCore (w : Nat) (c : Core) : Core :=
  let c := { c with icache := [], service := .running }
  if placedPrivileged w then
    c.modCaster 0 fun k => { k with thr := Thread.create (BitVec.ofNat 64 placedLine), cause := 1, arg := 0, saved := false }
  else { c with tasks := [(0, placedTask)] }

end Sys2Proof.Machine
end

