-- ==== Sys2Proof/Machine/Ops.lean ====
section
/-!
DEFINITION. What every instruction shares: the checks of steps 7 and 8 of R42, the ways an instruction ends, parking,
taking a trap and the way it reaches the Riser (spec/22_traps_restart.md R334 to R342), machine checks and the start of
Caster threads (R350; spec/20_system_isa.md R312, R313), the return from a trap (R326, R318).
-/

namespace Sys2Proof.Machine

namespace State

/-! ## Cross-lane arrivals (R226) -/

/-- The open cross-lane instances of a task, or of the Caster group. -/
def insts (s : State) (core place : Nat) : List Instance :=
  if place = casterPlace then ((s.core? core).map Core.insts).getD []
  else ((s.task? core place).map Task.insts).getD []

def modInsts (s : State) (core place : Nat) (f : List Instance → List Instance) : State :=
  if place = casterPlace then s.modCore core fun c => { c with insts := f c.insts }
  else s.modTask core place fun t => { t with insts := f t.insts }

/-- A thread's arrival undone; an instance without arrivals is no longer open. -/
def leaveInsts (s : State) (r : ThreadRef) : State :=
  let (place, tidx) := keyOf r.who
  s.modInsts r.core place fun l =>
    (l.map fun i => { i with arrivals := i.arrivals.filter (·.tidx != tidx) }).filter fun i => !i.arrivals.isEmpty

/-! ## Leaving a blocked state (R228) -/

/-- A blocked thread taken out of every list it waits in; its restart point stays the blocked instruction. -/
def unblock (s : State) (r : ThreadRef) : State :=
  match (s.thread? r).map Thread.state with
  | none => s
  | some st =>
    let s := match st with
      | .granule .. => s.leaveGranules r
      | .xlane => s.leaveInsts r
      | .barrier .. => s.dropWait r
      | .allowance d _ _ => 
        (s.modDest d fun e => { e with parked := e.parked.filter fun p => p.thread != r }).wakeDest d
      | _ => s
    s.modThread r fun t => { t with state := .runnable, wait := 0 }

/-- A spurious wake-up counted on a core (R270). -/
def countSpurious (s : State) (core : Nat) : State :=
  s.modCore core fun c => { c with count := { c.count with spurious := c.count.spurious + 1 } }

/-- A `waitaddr` that a signal ends counts as a spurious wake-up, and ends as one when it is issued again (R228, R327,
R341). -/
def signalWakes (s : State) (r : ThreadRef) : State :=
  match s.thread? r with
  | some { state := .waitaddr _, pc, .. } => (s.countSpurious r.core).modThread r fun t => { t with woken := some pc }
  | _ => s

/-! ## Caster starts and machine checks (R312, R350) -/

/-- The entry PC of a cause (R312). -/
def casterEntry (c : Core) (cause : Nat) : DWord := c.forebase + BitVec.ofNat 64 (0x40 * cause)

/-- w2 of a machine check for a trap: KIND | SUB · 256. -/
def trapWord (t : Trap) : DWord := BitVec.ofNat 64 (t.kind.code + t.sub.toNat * 256)

/-- A Caster thread set going for a cause, without the check of its entry. -/
def putStart (s : State) (core n cause : Nat) (arg : Word) (call : Option Nat) : State :=
  s.modCore core fun c =>
    { (c.modCaster n fun k =>
        { k with thr := { k.thr with pc := casterEntry c cause, state := .runnable, wait := 0, yielded := false }
                 cause := BitVec.ofNat 4 cause, arg, start := c.startNo, call, stopping := false }) with startNo := c.startNo + 1, window := c.forebase }

/-- What a Caster thread was serving passes to another start: a call is no longer taken, a signal request is pending
again. -/
def unserve (s : State) (core n : Nat) : State :=
  match (s.core? core).bind fun c => c.casters[n]? with
  | none => s
  | some k =>
    s.modCore core fun c =>
      { c with calls := c.calls.map fun e => if k.cause = 2 && k.call == some e.1 then (e.1, { e.2 with taken := false }) else e
               sigReq := c.sigReq || k.cause == 3 }

/-- The threads of a task that wait in `barwait` issue it again. -/
def rewait (s : State) (core place : Nat) (t : Task) : State :=
  (List.range t.threads.length).foldl (fun s n =>
    let r : ThreadRef := { core, who := .user place n }
    match (s.thread? r).map Thread.state with
    | some (.barrier ..) => s.unblock r
    | _ => s) s

/-- A `ctxsave` that is not completed: the tasks it stopped run on. -/
def dropSave (s : State) (core n : Nat) : State :=
  match (s.core? core).bind fun c => c.tasks.find? fun p => p.2.saver == some n with
  | none => s
  | some (place, t) =>
    let s := s.rewait core place t
    (s.clusterTasks t).foldl (fun s (m, p, _) => s.modTask m p fun k => { k with stopped := false })
      (s.modTask core place fun k => { k with stopped := false, saver := none })

/-- A Caster thread stopped without its state being kept. -/
def stopCaster (s : State) (core n : Nat) : State :=
  let r : ThreadRef := { core, who := .caster n }
  ((((s.unserve core n).dropSave core n).unblock r).leaveCrus r).modCore core fun c =>
    c.modCaster n fun k => { k with thr := { k.thr with state := .idle }, cause := 0, call := none, stopping := false }

/-- The bytes of a machine-check save area (R349). -/
def saveArea (k : Caster) : List Byte :=
  let t := k.thr
  leBytes 8 t.pc.toNat ++ leBytes 8 (k.arg.toNat * 2 ^ 32 + k.cause.toNat * 16 + 1) ++ leBytes 4 t.fpctl.toNat ++
    leBytes 1 t.preds.toNat ++ leBytes 3 0 ++ leBytes 8 t.full.toNat ++ leBytes 8 t.poison.toNat ++
    List.replicate 24 0 ++ (t.regs.toList.map fun x => leBytes 4 x.toNat).flatten ++ List.replicate 192 0

/-- Where the save area of a Caster thread lies (R349). -/
def saveAreaAt (c : Core) (n : Nat) : Nat := c.window.toNat + 0x3FF000 + 512 * n

/-- A Caster thread stopped for a machine check, with its state in its save area (R312 step 1). -/
def saveCaster (s : State) (core n : Nat) : State :=
  let r : ThreadRef := { core, who := .caster n }
  let s := ((s.drain r).unblock r).leaveCrus r
  match s.core? core with
  | none => s
  | some c =>
    match c.casters[n]? with
    | none => s
    | some k => (s.storeHomeBytesBy (some core) (saveAreaAt c n) (saveArea k) false).modCore core fun c =>
        c.modCaster n fun k => { k with saved := true, kept := k.cause }

/-- A save area read back (R312 step 3). -/
def restoreCaster (s : State) (core n : Nat) : State :=
  match s.core? core with
  | none => s
  | some c =>
    let bs := (s.readHomeBytes (saveAreaAt c n) 512).1
    let w (o k : Nat) : Nat := leNat ((bs.drop o).take k)
    s.modCore core fun c => c.modCaster n fun k =>
      let t := (List.range 64).foldl (fun (t : Thread) i =>
        t.setReg (BitVec.ofNat 6 i) (BitVec.ofNat 32 (w (0x40 + 4 * i) 4))) k.thr
      { k with
        thr := { t with pc := BitVec.ofNat 64 (w 0 8), fpctl := BitVec.ofNat 32 (w 0x10 4)
                        preds := BitVec.ofNat 8 (w 0x14 1), full := BitVec.ofNat 64 (w 0x18 8)
                        poison := BitVec.ofNat 64 (w 0x20 8), state := .runnable, wait := 0 }
        cause := BitVec.ofNat 4 (bits (w 8 8) 4 4), arg := BitVec.ofNat 32 (bits (w 8 8) 32 32), saved := false, kept := 0 }

/-- The lowest idle Caster thread. -/
def idleCaster? (c : Core) : Option Nat := c.casters.findIdx? fun k => k.thr.state == .idle

/-- Whether a Caster thread of a core serves a cause, if only after the machine check that interrupted it. -/
def serving (c : Core) (cause : Nat) : Bool :=
  c.casters.any fun k => k.thr.state != .idle && (k.cause.toNat == cause || (k.saved && k.kept.toNat == cause))

/-- The Caster thread whose start is the youngest. -/
def youngest? (c : Core) : Option Nat :=
  c.casters.zipIdx.foldl (fun b (k, n) => match b with
    | none => some n
    | some m => if ((c.casters[m]?.map Caster.start).getD 0) < k.start then some n else b) none

/-- A start for CAUSE 5 on thread `n`: a transfer to its entry (R27). An entry that R27 refuses takes the core out of service
(R312, R350 0x04); `later` is the state where the start cannot be made yet, since the line of the entry has not come, or
has failed its parity twice, which is a machine check of its own (R24). -/
def startFive (s : State) (core n : Nat) (sub : Byte) (later : State) : State :=
  match s.core? core with
  | none => later
  | some c =>
    let entry := casterEntry c 5
    let s := s.putStart core n 5 (sub.zeroExtend 32) ((c.casters[n]?).bind Caster.call)
    match s.checkTarget { core, who := .caster n } entry with
    | (.ok, s) => s
    | (.trap t, s) => s.haltCore core 0x04 n entry (trapWord t)
    | (.wait, _) => later
    | (.check, _) =>
      (later.reportMcheck core 0x02 n entry (pcLine entry) 0 0).modCore core fun c =>
        { c with mcheck := if c.mcheck.contains 0x02 then c.mcheck else c.mcheck ++ [0x02] }

/-- Whether a Caster thread holds in a privileged instruction in progress, which it completes before it stops: a `biasset`
whose flip is not complete, or a `ctxsave` that has stopped its task. The others that hold have done nothing yet. -/
def inProgress (s : State) (core n : Nat) : Bool :=
  (s.flips.any fun f => f.waiter.any fun w => w.1 == { core, who := .caster n }) ||
    (s.core? core).any fun c => c.tasks.any fun p => p.2.saver == some n

/-- A Caster thread that a machine check stops issues no more, but for a privileged instruction in progress (R312). -/
def isStopping (s : State) (r : ThreadRef) : Bool :=
  match r.who with
  | .user .. => false
  | .caster n => (((s.core? r.core).bind fun c => c.casters[n]?).any Caster.stopping) && !s.inProgress r.core n

/-- Which Caster threads of a core a machine check is to stop: one, or none. -/
def markStopping (s : State) (core : Nat) (n : Option Nat) : State :=
  s.modCore core fun c => { c with casters := c.casters.zipIdx.map fun (k, i) => { k with stopping := n == some i } }

/-- The oldest machine check that waits starts a Caster thread, an idle one or else the youngest, unless one serves
CAUSE 5; the youngest stops at its boundary, and is waited for until its results have been delivered (R312). -/
def serveMcheck (s : State) (core : Nat) : State :=
  match s.core? core with
  | none => s
  | some c =>
    match c.mcheck with
    | [] => s
    | sub :: rest =>
      if serving c 5 || !c.inService then s
      else
        let served (s : State) : State := s.modCore core fun c => { c with mcheck := rest }
        match idleCaster? c with
        | some n => ((served s).markStopping core none).startFive core n sub s
        | none =>
          match (c.casters.findIdx? Caster.stopping).or (youngest? c) with
          | none => s
          | some n =>
            let r : ThreadRef := { core, who := .caster n }
            let s := (s.markStopping core (some n)).drain r
            if s.inProgress core n || (s.thread? r).any fun t => !t.pend.isEmpty then s
            else ((served s).saveCaster core n).startFive core n sub s

/-- A machine check of a core that starts a Caster thread for CAUSE 5 (R350 0x02, 0x03). -/
def raiseMcheck (s : State) (core : Nat) (sub : Byte) (tidx : Nat) (w1 w2 : DWord) (handle lid : Word) : State :=
  let s := s.reportMcheck core sub tidx w1 w2 handle lid
  (s.modCore core fun c => { c with mcheck := c.mcheck ++ [sub] }).serveMcheck core

/-- A trap of a Caster thread (R313, R350 0x01 and 0x04): the thread is stopped and started again for CAUSE 5; a trap
while it serves CAUSE 5 takes the core out of service. -/
def casterTrap (s : State) (core n : Nat) (t : Trap) : State :=
  let r : ThreadRef := { core, who := .caster n }
  match (s.core? core).bind fun c => c.casters[n]? with
  | none => s
  | some k =>
    let pc := k.thr.pc
    if k.cause = 5 then s.haltCore core 0x04 n pc (trapWord t)
    else
      let s := ((s.dropReserved r).drain r).stopCaster core n
      let s := s.reportMcheck core 0x01 n pc (trapWord t) 0 0
      match s.core? core with
      | none => s
      | some c =>
        let later := s.modCore core fun c => { c with mcheck := c.mcheck ++ [0x01] }
        if serving c 5 then later else s.startFive core n 0x01 later

/-- Machine check 0x02 of a fetch by a thread (R24): the thread stays where it is. -/
def fetchCheck (s : State) (r : ThreadRef) (line : DWord) : State :=
  match s.thread? r with
  | none => s
  | some t =>
    let (handle, lid) : Word × Word := match r.who with
      | .user place tidx => (s.handle r.core place tidx, ((s.taskOf? r).map Task.lid).getD 0)
      | .caster _ => (0, 0)
    s.raiseMcheck r.core 0x02 (keyOf r.who).2 t.pc line handle lid

/-! ## Fault records and the Riser (R336, R338, R339, R342) -/

/-- Entries of a Riser (R339). -/
def riserSize : Nat := 64

/-- The kinds that stop the other threads of a cluster (R342). -/
def fatalKind : TrapKind → Bool
  | .illegal | .illpair | .cfi | .priv | .unitAbsent | .illegalLine | .bounds | .poison | .key => true
  | _ => false

/-- A record put into a Riser, or among those that wait for an entry. -/
def enterRiser (s : State) (core : Nat) (f : FaultRec) : State :=
  s.modCore core fun c =>
    let c := { c with count := { c.count with riser := c.count.riser + 1 } }
    if c.riser.length < riserSize then { c with riser := c.riser ++ [f] } else { c with stalled := c.stalled ++ [f] }

/-- The watchpoint that matched is disarmed, with HIT set (R348). -/
def disarm (s : State) (core place : Nat) (t : Trap) : State :=
  if t.kind != .watch then s
  else
    let hit (w : WatchReg) : WatchReg := { w with ctl := (w.ctl &&& ~~~1#32) ||| 0x8000 }
    s.modTask core place fun k =>
      if t.sub.getLsbD 0 then { k with watch1 := hit k.watch1 } else { k with watch0 := hit k.watch0 }

/-- The fault of the copy that a trap names has been told to its thread (R198). -/
def copyTold (s : State) (core : Nat) (t : Trap) : State :=
  if t.what != 1 then s
  else s.modCore core fun c =>
    { c with copies := c.copies.map fun d => if d.id = t.val then { d with told := true } else d }

/-- The threads of a cluster stop at their next boundary for a fatal trap of one of them (R342). -/
def stopFellows (s : State) (core place tidx : Nat) (t : Trap) (handle : Word) : State :=
  match s.task? core place with
  | none => s
  | some k =>
    match k.cluster with
    | none => s
    | some pos =>
      if !fatalKind t.kind then s
      else
        let stop : Trap := { kind := .peerFault, sub := BitVec.ofNat 8 pos.peer, addr := handle.zeroExtend 64 }
        (s.clusterTasks k).foldl (fun s (n, p, _) =>
          s.modTask n p fun q => { q with threads := q.threads.zipIdx.map fun (th, i) =>
            if th.exited || (n == core && p == place && i == tidx) || th.stop.isSome then th
            else { th with stop := some stop } }) s

/-- The record of a trap of a thread, at this moment. -/
def recordOf (s : State) (core place tidx : Nat) (th : Thread) (k : Task) (t : Trap) (shown : Bool) : FaultRec :=
  { tidx, core, trap := t, pc := th.pc, handle := s.handle core place tidx, lid := k.lid, time := s.cycle, shown }

/-- What a trap leaves beside its record: its watchpoint disarmed, its copy's fault told, its cluster stopped (R198, R342,
R348). -/
def trapSides (s : State) (core place tidx : Nat) (t : Trap) : State :=
  ((s.disarm core place t).copyTold core t).stopFellows core place tidx t (s.handle core place tidx)

/-- A thread parked in the Riser with its fault record, which is shown once the thread's older work is done (R336, R338,
R339). -/
def writeRecord (s : State) (core place tidx : Nat) (t : Trap) (shown : Bool := true) : State :=
  let r : ThreadRef := { core, who := .user place tidx }
  match s.thread? r, s.task? core place with
  | some th, some k =>
    let s' := s.modThread r fun th =>
      { th with state := .riser, trapping := !shown, stop := if t.kind == .peerFault then none else th.stop
                wait := 0, yielded := false }
    (s'.enterRiser core (s.recordOf core place tidx th k t shown)).trapSides core place tidx t
  | _, _ => s

/-- A report that came with a shell is made (R322 step 3): its record as it was saved, for the thread's handle and core of
now. -/
def writeLater (s : State) (core place tidx : Nat) (th : Thread) (f : FaultRec) : State :=
  let r : ThreadRef := { core, who := .user place tidx }
  let s := s.modThread r fun th =>
    { th with later := th.later.drop 1, state := .riser, trapping := false, wait := 0, yielded := false }
  (s.enterRiser core { f with core, handle := s.handle core place tidx, pc := th.pc }).stopFellows core place tidx f.trap
    (s.handle core place tidx)

/-- A trap that a failure of older work goes before, where the instruction would not raise it again: a watchpoint's, which is
disarmed, and one for an empty register, which a load may since have filled. It is reported at the next boundary
(R177, R338; notes/assumptions/20.md). -/
def postpones : TrapKind → Bool
  | .watch | .emptyreg => true
  | _ => false

/-- The oldest failure of a thread gone, and the trap `f` it goes before kept where it must be. -/
def dropFailure (s : State) (r : ThreadRef) (f : FaultRec) : State :=
  s.modThread r fun th =>
    { th with fails := th.fails.drop 1
              later := if postpones f.trap.kind then th.later ++ [{ f with shown := true }] else th.later }

/-- The trap a thread reports whose outstanding work is done: a report that came with its shell, and then a failure after
issue, goes before every kind but a cluster stop (R177, R322, R338, R340). -/
def recordOldest (s : State) (core place tidx : Nat) (t : Trap) : State :=
  let r : ThreadRef := { core, who := .user place tidx }
  match s.thread? r, s.task? core place with
  | some th, some k =>
    if th.stop.isSome && t.kind == .peerFault then s.writeRecord core place tidx t
    else match th.later, th.fails with
      | f :: _, _ => s.writeLater core place tidx th f
      | [], f :: _ =>
        ((s.dropFailure r (s.recordOf core place tidx th k t true)).disarm core place t).writeRecord core place tidx f.2
      | [], [] => s.writeRecord core place tidx t
  | _, _ => s

/-- A user thread out of every list it waits in, with its older work done as far as it does not wait for a peer (R338). -/
def withdraw (s : State) (r : ThreadRef) : State :=
  ((((s.unblock r).finishCrus r).leaveCrus r).dropReserved r).drain r

/-- TAKING A TRAP. A Caster thread's is a machine check (R313). A user thread leaves the lists it waits in, its older
work completes (R338), and its record enters the Riser; while a peer has not answered the record is not shown. -/
def takeTrap (s : State) (r : ThreadRef) (t : Trap) : State :=
  match r.who with
  | .caster n => s.casterTrap r.core n t
  | .user place tidx =>
    let s := s.withdraw r
    if s.drained r then s.recordOldest r.core place tidx t else s.writeRecord r.core place tidx t false

/-- A trap for something that waits for a thread, not for its instruction (R340 items 1 to 4): while a peer has not answered
the thread stays where it is and what waits for it stays due. -/
def report (s : State) (r : ThreadRef) (t : Trap) : State :=
  match r.who with
  | .caster n => s.casterTrap r.core n t
  | .user place tidx =>
    let s' := s.withdraw r
    if s'.drained r then s'.recordOldest r.core place tidx t else s.drain r

/-- The records of a thread in the Riser and before it changed. -/
def modRecords (s : State) (core : Nat) (handle : Word) (g : FaultRec → FaultRec) : State :=
  let on (f : FaultRec) : FaultRec := if f.handle = handle then g f else f
  s.modCore core fun c => { c with riser := c.riser.map on, stalled := c.stalled.map on }

/-- The record of a thread in the Riser or before it. -/
def record? (s : State) (core : Nat) (handle : Word) : Option FaultRec :=
  (s.core? core).bind fun c => (c.riser ++ c.stalled).find? fun f => f.handle == handle

/-- A thread whose record is not shown, looked at again: once its older work is done the record is shown, with the oldest
failure of that work in its place where there is one (R177, R338). -/
def settleThread (s : State) (r : ThreadRef) : State :=
  match r.who, (s.thread? r).map Thread.trapping with
  | .user place tidx, some true =>
    let s := s.drain r
    if !s.drained r then s
    else
      let handle := s.handle r.core place tidx
      let s := s.modThread r fun th => { th with trapping := false }
      match (s.thread? r).bind fun th => th.fails.head?, s.record? r.core handle with
      | some x, some f =>
        ((s.dropFailure r f).modRecords r.core handle fun f => { f with trap := x.2, shown := true }).trapSides r.core place
          tidx x.2
      | _, _ => s.modRecords r.core handle fun f => { f with shown := true }
  | _, _ => s

/-- The threads parked toward destinations that are UNREACH trap, in order (R276). -/
def unreachTraps (s : State) : State :=
  s.dests.zipIdx.foldl (fun s (e, d) =>
    if e.unreach && !e.parked.isEmpty then
      e.parked.foldl (fun s p => s.takeTrap p.thread { kind := .unreach, sub := BitVec.ofNat 8 d, addr := p.va })
        (s.modDest d fun e => { e with parked := [] })
    else s) s

/-- What an event leaves to be done at once: traps of UNREACH, re-slicings that waited for results, and traps that waited
for answers. -/
def settle (s : State) : State :=
  let s := s.unreachTraps
  let s : State := { s with cores := s.cores.map fun c => { c with tasks := c.tasks.map fun p => (p.1, endSlice p.2) } }
  s.cores.zipIdx.foldl (fun s (c, n) => c.tasks.foldl (fun s (p, t) =>
    t.threads.zipIdx.foldl (fun s (th, i) =>
      if th.trapping then s.settleThread { core := n, who := .user p i } else s) s) s) s

/-- The records of a Riser that the Caster code sees: in order, up to the first whose thread waits for a peer (R338, R339). -/
def shownRecords (c : Core) : List FaultRec := c.riser.takeWhile FaultRec.shown

/-- The Riser entry that frees admits the longest-stalled record (R339). -/
def riserEntryFree (c : Core) : Core :=
  if c.riser.length < riserSize then
    match c.stalled with
    | f :: fs => { c with riser := c.riser ++ [f], stalled := fs }
    | [] => c
  else c

/-! ## The return from a trap (R326) -/

/-- A parked thread becomes runnable at a PC; its record is removed if it was not popped, and its stopped copies
continue. -/
def resumeAt (s : State) (r : ThreadRef) (handle : Word) (pc : DWord) : State :=
  let (place, tidx) := keyOf r.who
  let s := s.modCore r.core fun c =>
    let keep := fun (f : FaultRec) => f.handle != handle
    riserEntryFree { c with
      riser := c.riser.filter keep, stalled := c.stalled.filter keep, popped := c.popped.filter keep
      copies := c.copies.map fun k =>
        match k.state with
        | .stopped _ => if k.place = place && k.tidx = tidx then { k with state := .running, told := false } else k
        | _ => k }
  s.modThread r fun t => { t with pc, state := .runnable, wait := 0 }

end State

/-! ## How an instruction ends -/

/-- What an instruction does to its thread. -/
inductive Eff where
  /-- It completes, and the PC advances. -/
  | next (s : State)
  /-- It completes with the PC set. -/
  | jump (s : State) (pc : DWord)
  /-- It completes and has itself said where the thread is. -/
  | stay (s : State)
  | trap (s : State) (t : Trap)
  /-- The thread leaves the runnable set, and reissues the instruction or completes it there. -/
  | park (s : State) (b : BState)
  /-- The thread stays runnable at the instruction (R228). -/
  | hold (s : State)

/-- How an access ends that has no target: its trap, or it is held at its instruction while a page is in a change. -/
def Eff.turned (s : State) : Option Trap → Eff
  | none => .hold s
  | some t => .trap s t

namespace State

/-- A wait for allowance counted (R383). -/
def countPark (s : State) (r : ThreadRef) (b : BState) : State :=
  match b with
  | .allowance .. => s.modCore r.core fun c => { c with count := { c.count with parks := c.count.parks + 1 } }
  | _ => s

/-- A thread's PC advances (R25). -/
def advance (s : State) (r : ThreadRef) : State :=
  s.modThread r fun t => { t with pc := nextPC t.pc, wait := 0 }

/-- The end of an instruction of thread `r`. A reservation the instruction did not use is returned (R274). -/
def finish (r : ThreadRef) (e : Eff) : State :=
  match e with
  | .next s => ((s.advance r).countIssue r).dropReserved r
  | .jump s pc => ((s.modThread r fun t => { t with pc, wait := 0 }).countIssue r).dropReserved r
  | .stay s => (s.countIssue r).dropReserved r
  | .trap s t => s.takeTrap r t
  | .park s b => (((s.dropReserved r).countPark r b).modThread r fun t => { t with state := b, wait := 0 })
  | .hold s => s

/-- Whether the cores run: no thermal trip, no EXTEST (R375, R377). -/
def coresRun (s : State) : Bool := !s.therm && !s.extest

/-- What an event of the cores leaves: nothing while they are stopped (R375, R377). -/
def ifRuns (s t : State) : State := if s.coresRun then t else s

/-- Whether a thread may issue. -/
def canIssue (s : State) (r : ThreadRef) (t : Thread) : Bool :=
  t.state == .runnable && !t.exited && s.coresRun && !s.isStopping r && ((s.core? r.core).map Core.inService).getD false &&
    !(s.taskOf? r).any fun k => k.stopped || k.slicing.isSome

end State

/-! ## Steps 7 and 8 of R42 -/

/-- The registers of an operand, the lower of a pair first (notes/assumptions/89.md). -/
def operandRegs (r : Reg) (n : Nat) : List Reg := (List.range n).map fun i => r + BitVec.ofNat 6 i

/-- The first empty register of the sources, with the action of its FEB bit. -/
def firstEmpty (t : Thread) (srcs : List (Src × Nat)) : Option (Reg × Bool) :=
  (srcs.flatMap fun (x, n) => (operandRegs x.reg n).map fun r => (r, x.trap)).find? fun p => !t.isFull p.1

/-- Whether a pending producer is to write a register (R146). -/
def Thread.regBusy (t : Thread) (r : Reg) : Bool :=
  t.pend.any fun p => p.dst.toNat ≤ r.toNat && r.toNat < p.dst.toNat + p.words

/-- Whether an instruction must wait for results on their way to its destinations or predicates (R30, R146). -/
def mustWait (t : Thread) (dsts : List (Reg × Nat)) (qs : List PredReg) : Bool :=
  (dsts.any fun (d, n) => (operandRegs d n).any t.regBusy) || qs.any t.predBusy

/-- A poisoned register read as a source (R83, R337). -/
def poisonTrap (r : Reg) : Trap :=
  { kind := .poison, sub := r.zeroExtend 8, addr := 0xFFFFFFFFFFFFFFFF }

/-- The trap of the first poisoned register of the sources. -/
def firstPoison (t : Thread) (srcs : List (Src × Nat)) : Option Trap :=
  ((srcs.flatMap fun (x, n) => operandRegs x.reg n).find? t.isPois).map poisonTrap

/-- ReadQ(GQ) XOR GN (R29). -/
def guardHolds (g : Guard) (t : Thread) : Bool := t.pred g.q != g.neg

/-- Step 8 of R42 and the waits for pending results, then the instruction itself. -/
def step8 (s : State) (t : Thread) (srcs : List (Src × Nat)) (dsts : List (Reg × Nat))
    (qs : List PredReg) (body : Eff) : Eff :=
  match firstEmpty t srcs with
  | some (v, true) => .trap s { kind := .emptyreg, sub := v.zeroExtend 8 }
  | some (v, false) => .park s (.emptyReg v)
  | none => if mustWait t dsts qs then .hold s else body

/-- The issue of an instruction by the issuing thread: the guard, the sources with their FEB bits, the registers and
predicates it writes or reads, and its own checks and effects (R42 steps 7 to 9). Without a thread that may issue,
nothing happens. -/
def issue (s : State) (g : Guard) (srcs : List (Src × Nat)) (dsts : List (Reg × Nat)) (qs : List PredReg)
    (body : Thread → Eff) : Host.Outcome State Fault Refusal :=
  let r := s.issuer
  match s.thread? r with
  | none => .next s
  | some t =>
    if !s.canIssue r t || t.predBusy g.q then .next s
    else if guardHolds g t then .next (State.finish r (step8 s t srcs dsts qs (body t)))
    else .next (State.finish r (.next s))

end Sys2Proof.Machine
end

