-- ==== Sys2Proof/Machine/Operands.lean ====
section
/-!
DEFINITION. Operand forms of the integer, address, float and conversion classes: sources, source B with its immediate,
destinations, packed elements (spec/02_encoding.md R30, R33; spec/04_numbers.md R60, R62), and the effect of an
integer-class instruction (spec/05_element_isa.md R81 to R83).
-/

namespace Sys2Proof.Machine

/-- Registers of an operand of a type (R30). -/
def tyRegs (ty : Ty) : Nat := if ty.is64 then 2 else 1

/-- The bits of register source `a` in a type. -/
def valA (t : Thread) (ty : Ty) (a : Src) : Nat := if ty.is64 then (t.reg64 a.reg).toNat else (t.reg a.reg).toNat

/-- IMM as source B (R33): sign-extended for i64, zero-extended for n64, as it stands otherwise. -/
def immB (ty : Ty) (x : Word) : Nat := if ty = .i64 then (x.signExtend 64).toNat else x.toNat

/-- The bits of source B in a type. -/
def valB (t : Thread) (ty : Ty) (b : SrcB) : Nat :=
  match b with
  | .reg a => valA t ty a
  | .imm x => immB ty x

/-- Source B where it is one 32-bit register whatever the type: a count or a control word (R87, R89). -/
def valB32 (t : Thread) (b : SrcB) : Nat :=
  match b with
  | .reg a => (t.reg a.reg).toNat
  | .imm x => x.toNat

/-- Source A of a type as an operand of `issue`. -/
def srcA (ty : Ty) (a : Src) : List (Src × Nat) := [(a, tyRegs ty)]

/-- Source B of a type, if it is a register. -/
def srcB (ty : Ty) (b : SrcB) : List (Src × Nat) :=
  match b with
  | .reg a => [(a, tyRegs ty)]
  | .imm _ => []

/-- Source B of 32 bits, if it is a register. -/
def srcB32 (b : SrcB) : List (Src × Nat) :=
  match b with
  | .reg a => [(a, 1)]
  | .imm _ => []

/-- The poison mark of a source of `n` registers. -/
def poisA (t : Thread) (a : Src) (n : Nat) : BitVec 4 :=
  (List.range n).foldl (fun p i => putBit p i (t.isPois (a.reg + BitVec.ofNat 6 i))) 0

/-- The poison mark of source B. -/
def poisB (t : Thread) (b : SrcB) (n : Nat) : BitVec 4 :=
  match b with
  | .reg a => poisA t a n
  | .imm _ => 0

/-! ## Integer-class instructions (R82, R83) -/

/-- An integer-class instruction: POISON on a poisoned source, else `n` registers from `d` on are written. -/
def intOp (s : State) (g : Guard) (srcs : List (Src × Nat)) (d : Reg) (n : Nat) (f : Thread → Nat) :
    Host.Outcome State Fault Refusal :=
  issue s g srcs [(d, n)] [] fun t =>
    match firstPoison t srcs with
    | some p => .trap s p
    | none => .next (s.modThread s.issuer fun t => t.setRegs d n (f t) 0)

/-- A poison carrier (R83): the value and the marks it carries. -/
def carryOp (s : State) (g : Guard) (srcs : List (Src × Nat)) (d : Reg) (n : Nat) (qs : List PredReg)
    (f : Thread → Nat × BitVec 4) : Host.Outcome State Fault Refusal :=
  issue s g srcs [(d, n)] qs fun _ =>
    .next (s.modThread s.issuer fun t => t.setRegs d n (f t).1 (f t).2)

/-! ## Packed elements (R60) -/

/-- A function of elements applied to the sources of a type: once, or to each of the two elements with the flags
merged. -/
def elements (ty : Ty) (f : List Nat → Nat × BitVec 5) (xs : List Nat) : Nat × BitVec 5 :=
  if ty.isPacked then
    let lo := f (xs.map fun x => x % 2 ^ 16)
    let hi := f (xs.map fun x => x / 2 ^ 16)
    (lo.1 + hi.1 * 2 ^ 16, lo.2 ||| hi.2)
  else f xs

end Sys2Proof.Machine
end

