-- ==== Sys2Proof/Machine/Allowance.lean ====
section
/-!
DEFINITION. The allowance class (spec/15_allowances.md R282, R283).
-/

namespace Sys2Proof.Machine

/-- BOUNDS 0x05: a destination above 63. -/
def destTrap (va : Word) : Trap := { kind := .bounds, sub := 0x05, addr := va.zeroExtend 64 }

/-- An allowance instruction: its source is checked, then it acts on the destination number and its word. -/
def alwOp (s : State) (g : Guard) (rsp : Bool) (a : Src) (dsts : List (Reg × Nat)) (qs : List PredReg)
    (f : Nat → Word → Eff) : Host.Outcome State Fault Refusal :=
  issue s g [(a, 1)] dsts qs fun t =>
    match firstPoison t [(a, 1)] with
    | some p => .trap s p
    | none =>
      let va := t.reg a.reg
      if 63 < va.toNat then .trap s (destTrap va) else f va.toNat (s.allowanceWord va.toNat rsp)

/-- `alw` (R283). -/
def execAlw (g : Guard) (rsp : Bool) (d : Reg) (a : Src) (s : State) : Host.Outcome State Fault Refusal :=
  alwOp s g rsp a [(d, 1)] [] fun _ w => .next (s.modThread s.issuer fun t => t.setReg d w)

/-- `alwq` (R283). -/
def execAlwq (g : Guard) (rsp : Bool) (qd : PredReg) (a : Src) (n : BitVec 24) (s : State) :
    Host.Outcome State Fault Refusal :=
  alwOp s g rsp a [] [qd] fun _ w => .next (s.modThread s.issuer fun t => t.setPred qd (State.wordGrants w n.toNat))

/-- `alwwait` (R283). -/
def execAlwwait (g : Guard) (rsp : Bool) (a : Src) (n : BitVec 24) (s : State) : Host.Outcome State Fault Refusal :=
  alwOp s g rsp a [] [] fun d w =>
    if w.getLsbD 31 then .trap s { kind := .unreach, sub := BitVec.ofNat 8 d }
    else if State.wordGrants w n.toNat then .next s
    else .park s (.allowance d 0 (some (rsp, n.toNat)))

end Sys2Proof.Machine
end

