-- ==== Sys2Proof/Machine/Flags.lean ====
section
/-!
DEFINITION. FPCTL and its use: flags and FPTRAP, the dynamic rounding mode, uninitialised markers
(spec/04_numbers.md R70 to R74), and the effect of a float-class or conversion instruction (spec/05_element_isa.md R83).
-/

namespace Sys2Proof.Machine

/-- The TE bits of FPCTL, in the order of the flags (R70). -/
def teBits (c : Word) : Flags := c.extractLsb' 3 5

/-- FPCTL with flags ORed into FL (R72). -/
def orFlags (c : Word) (f : Flags) : Word := c ||| (f.zeroExtend 32 <<< 9)

/-- The mode of an instruction that rounds: static, or FPCTL.RM; none for an illegal dynamic mode (R71). -/
def rmOf (t : Thread) (rm : RmField) : Option Rm :=
  match rm with
  | .rne => some .rne
  | .rtz => some .rtz
  | .rdn => some .rdn
  | .rup => some .rup
  | .rna => some .rna
  | .dyn => Rm.ofCode? (t.fpctl.extractLsb' 0 3).toNat

/-- An illegal dynamic rounding mode (R71). -/
def rmTrap : Trap := { kind := .illegal, sub := 0x06 }

/-- Whether a word is a marker (R74). -/
def isMarker (x : Word) : Bool := 0x7FA00000 ≤ x.toNat && x.toNat ≤ 0x7FA0003F

/-- UNINIT of the first source that holds a marker, while FPCTL.UM is 1 (R74). -/
def markerTrap (t : Thread) (srcs : List (Src × Nat)) : Option Trap :=
  if t.fpctl.getLsbD 8 then
    ((srcs.map fun (x, _) => x.reg).find? fun r => isMarker (t.reg r)).map fun r =>
      { kind := .uninit, sub := r.zeroExtend 8, addr := (t.reg r).zeroExtend 64 }
  else none

/-- The trap of an instruction that marks flags some of which are enabled (R73). -/
def fpTrap (t : Thread) (f : Flags) : Option Trap :=
  if f &&& teBits t.fpctl = 0 then none else some { kind := .fptrap, sub := f.zeroExtend 8 }

/-- The first of two traps. -/
def orTrap (a b : Option Trap) : Option Trap :=
  match a with
  | some t => some t
  | none => b

/-- A float-class instruction or conversion: POISON, UNINIT where it checks markers, an illegal mode where it rounds,
FPTRAP, and else its result and its flags (R83). -/
def floatOp (s : State) (g : Guard) (srcs : List (Src × Nat)) (dsts : List (Reg × Nat)) (qs : List PredReg)
    (markers : Bool) (rm : Option RmField) (f : Rm → Thread → Nat × Flags) (put : Nat → Thread → Thread) :
    Host.Outcome State Fault Refusal :=
  issue s g srcs dsts qs fun t =>
    match orTrap (firstPoison t srcs) (if markers then markerTrap t srcs else none) with
    | some p => .trap s p
    | none =>
      match rm.elim (some Rm.rne) (rmOf t) with
      | none => .trap s rmTrap
      | some m =>
        let (x, fl) := f m t
        match fpTrap t fl with
        | some p => .trap s p
        | none => .next (s.modThread s.issuer fun t => put x { t with fpctl := orFlags t.fpctl fl })

/-- A float-class instruction that writes one register. -/
def floatReg (s : State) (g : Guard) (srcs : List (Src × Nat)) (d : Reg) (rm : Option RmField)
    (f : Rm → Thread → Nat × Flags) : Host.Outcome State Fault Refusal :=
  floatOp s g srcs [(d, 1)] [] true rm f fun x t => t.setReg d (BitVec.ofNat 32 x)

end Sys2Proof.Machine
end

