-- ==== Sys2Proof/Machine/Mem.lean ====
section
/-!
DEFINITION. Loads, stores, prefetch, fences, cache control and subscriptions: the address and the checks of R175, what
holds an access back, and the effects (spec/10_memory_isa.md R173 to R186; spec/08_memory_spaces.md R141 to R147;
spec/22_traps_restart.md R348).
-/

namespace Sys2Proof.Machine

/-! ## The address and the checks of R175 -/

/-- What a watchpoint sees an access as (R348). -/
inductive WatchKind where
  | rd | wr | atom
  deriving DecidableEq, Repr

/-- A memory operand as an access: bytes, its kind for step 4 and for translation, and whether MMIO refuses it. -/
structure Access where
  m     : MemRef
  size  : Nat
  watch : WatchKind
  kind  : AccessKind
  atom  : Bool
  deriving DecidableEq, Repr

/-- The base register of a memory operand as a source. -/
def baseSrc (m : MemRef) : List (Src × Nat) := [(m.base, if m.space = .global then 2 else 1)]

/-- The address as formed, without swizzle (R48, R141). -/
def formAddr (t : Thread) (m : MemRef) : DWord :=
  match m.space with
  | .global => t.reg64 m.base.reg + m.off.signExtend 64
  | .own => ((t.reg m.base.reg + m.off).extractLsb' 0 20).zeroExtend 64
  | .peer => ((t.reg m.base.reg + m.off).extractLsb' 0 24).zeroExtend 64

/-- The swizzled offset of a scratchpad address (R143). -/
def scratchOff (m : MemRef) (va : DWord) : Nat := swizzle m.swz (va.toNat % 2 ^ 20)

/-- The address a watchpoint compares (R348). -/
def watchAddr (m : MemRef) (va : DWord) : Nat :=
  match m.space with
  | .global => va.toNat
  | _ => va.toNat / 2 ^ 20 * 2 ^ 20 + scratchOff m va

/-- Whether a watchpoint matches `n` bytes at an address. -/
def WatchReg.hits (w : WatchReg) (k : WatchKind) (sp : Space) (a n : Nat) : Bool :=
  let c := w.ctl.toNat
  let logsz := bits c 6 6
  let base := w.addr.toNat / 2 ^ logsz * 2 ^ logsz
  let space : Nat := match sp with
    | .global => 0
    | .own => 1
    | .peer => 2
  let kind : Bool := match k with
    | .rd => c.testBit 1
    | .wr => c.testBit 2
    | .atom => c.testBit 3
  c.testBit 0 && kind && bits c 4 2 == space && logsz ≤ 48 && a < base + 2 ^ logsz && base < a + n

/-- The WATCH trap of an access by a thread of a task. -/
def watchTrap (k : Task) (x : Access) (va : DWord) : Option Trap :=
  let a := watchAddr x.m va
  let up : Byte := if x.watch = .rd then 0 else 2
  if k.watch0.hits x.watch x.m.space a x.size then some { kind := .watch, sub := up, addr := va }
  else if k.watch1.hits x.watch x.m.space a x.size then some { kind := .watch, sub := up + 1, addr := va }
  else none

namespace State

/-- The core and place of peer `k` of a thread's cluster; a task outside a cluster is its own peer 0 (R147). -/
def peerPlace? (s : State) (r : ThreadRef) (k : Nat) : Option (Nat × Nat) :=
  match r.who, s.taskOf? r with
  | .user place _, some t =>
    match t.cluster with
    | none => if k = 0 then some (r.core, place) else none
    | some pos =>
      if 2 ^ (pos.clw + pos.clh) ≤ k then none
      else
        let n := pos.origin + k % 2 ^ pos.clw + 16 * (k / 2 ^ pos.clw)
        (s.clusterTasks t).findSome? fun (c, p, _) => if c = n then some (c, p) else none
  | _, _ => none

/-- Bytes of a thread's scratchpad allocation; a Caster thread has none. -/
def scratchSize (s : State) (r : ThreadRef) : Nat := ((s.taskOf? r).map Task.scratch).getD 0

/-- Step 5 of R175, and the target of a scratchpad access. -/
def scratchTarget (s : State) (r : ThreadRef) (m : MemRef) (size : Nat) (va : DWord) : Except Trap Target :=
  let off := scratchOff m va
  let out : Trap := { kind := .bounds, sub := 0x02, addr := BitVec.ofNat 64 (va.toNat % 2 ^ 20) }
  if m.space = .peer then
    match s.peerPlace? r (va.toNat / 2 ^ 20) with
    | none => .error { kind := .bounds, sub := 0x03, addr := va }
    | some (c, p) => if s.scratchSize r < off + size then .error out else .ok (.scratch c p off true)
  else if s.scratchSize r < off + size then .error out
  else .ok (.scratch r.core (keyOf r.who).1 off false)

/-- Steps 6 and 7 of R175. -/
def globalTarget (s : State) (r : ThreadRef) (x : Access) (va : DWord) : Translated × State :=
  let a := s.accessor r
  match s.translate a va x.kind with
  | (.error t, s) => (.error t, s)
  | (.ok t, s) =>
    match s.targetFault a va x.size x.atom t with
    | some f => (.error (some f), s)
    | none => (.ok t, s)

/-- Steps 1 to 7 of R175: the target of an access. -/
def formTarget (s : State) (r : ThreadRef) (t : Thread) (x : Access) : Translated × State :=
  match firstPoison t (baseSrc x.m) with
  | some p => (.error (some p), s)
  | none =>
    let va := formAddr t x.m
    if va.toNat % x.size != 0 then (.error (some { kind := .align, sub := 0x01, addr := va }), s)
    else match (s.taskOf? r).bind fun k => watchTrap k x va with
      | some w => (.error (some w), s)
      | none =>
        if x.m.space = .global then s.globalTarget r x va
        else ((s.scratchTarget r x.m x.size va).mapError some, s)

/-! ## What holds an access back -/

/-- Whether an older access of the thread keeps younger ones back: an atomic not performed yet (R158), or an acquire
whose value has not arrived (R159). -/
def accessWaits (t : Thread) : Bool := t.pend.any fun p => p.op.isSome || (p.acq && p.got.isNone)

/-- Whether a store to a kind of target is queued. -/
def queuedTo (t : Thread) (f : Target → Bool) : Bool := t.queue.any fun q => f q.target

def toMmio : Target → Bool
  | .mmio _ => true
  | _ => false

/-- A peer's memory: a thread's remote accesses go out in program order, whichever device they go to (R168). -/
def toPeer : Target → Bool
  | .peer .. => true
  | _ => false

/-- The wait of a release: the dirty lines of its core start their way home. -/
def awaitRelease (s : State) (r : ThreadRef) (sc : Scope) : Eff := .hold (s.releaseStart r sc)

end State

/-- Step 10 of R175 for an access that needs one flit of each class, and what follows. -/
def withAllowance (s : State) (r : ThreadRef) (d : Nat) (va : DWord) (k : State → Eff) : Eff :=
  match s.allow r d 1 1 va with
  | .pass s => k s
  | .wait s => .hold s
  | .park s => .park s (.allowance d va none)

/-! ## Loads (R145, R178) -/

/-- The predicate a `.peek` writes (R145). -/
def peekPred : LdFeq → Option PredReg
  | .peek q => some q
  | _ => none

/-- An outstanding load. -/
def loadPend (s : State) (dst : Reg) (size : Size) (sx acq : Bool) (scope : Scope) (va : DWord) (tag : Option Nat)
    (got : Option Arrived) : Pend where
  kind := .load
  dst := dst
  words := sizeWords size
  va := va
  op := none
  acq := acq
  rel := false
  scope := scope
  issue := s.issueNo
  tag := tag
  size := size
  sx := sx
  pred := none
  got := got

/-- A thread's destination made empty, with the access that is to fill it (R146). -/
def Thread.pending (t : Thread) (p : Pend) : Thread := { t.setEmpty p.dst p.words with pend := t.pend ++ [p] }

/-- The value of bytes read, under the thread's own queued stores (R158). -/
def readValue (t : Thread) (target : Target) (size : Size) (sx : Bool) (bs : List Byte) (pois : Bool) : Arrived :=
  let (bs, ps) := forwarded t.queue target bs (List.replicate (sizeBytes size) pois)
  { value := loadedValue size sx bs, poison := loadedPoison ps, pred := none }

/-- The L1 copy of a subscribed line of a peer, once it has arrived. -/
def State.peerLine? (s : State) (n d off : Nat) : Option L1Line :=
  if s.subscribed n (.peer d (lineOf off)) then s.l1Line? n (peerPa d (lineOf off)) else none

/-- A load from the global space, performed at its issue where the bytes are at hand (R158, R161, R180). -/
def loadGlobal (s : State) (r : ThreadRef) (t : Thread) (d : Reg) (size : Size) (sx acq : Bool) (scope : Scope)
    (va : DWord) (target : Target) : Eff :=
  let n := sizeBytes size
  let wide := acq && wideScope scope
  let give (s : State) (bs : List Byte) (pois : Bool) : Eff :=
    let p := loadPend s d size sx acq scope va none (some (readValue t target size sx bs pois))
    let s := s.modThread r fun t => t.pending p
    .next (if wide then s.dropClean r.core else s)
  match target with
  | .mem pa =>
    if s.pageBusy pa then .hold s
    else
      let (bs, pois, s) := s.loadLine r.core pa n wide
      give s bs pois
  | .mmio off =>
    if State.queuedTo t State.toMmio then .hold s
    else
      let (bs, s) := s.regRead off n
      give s bs false
  | .peer dev off =>
    match s.peerLine? r.core dev off with
    | some l =>
      let o := off - lineOf off
      give s ((l.data.drop o).take n) ((List.range 4).any fun i => l.pois.getLsbD i && o < 16 * i + 16 && 16 * i < o + n)
    | none =>
      if State.queuedTo t State.toPeer then .hold s
      else withAllowance s r dev va fun s =>
        let (s, tag) := s.sendPeer dev off (.thread r) va .load d [] false [] n
        .next (s.modThread r fun t => t.pending (loadPend s d size sx acq scope va (some tag) none))
  | .scratch .. => .next s

/-- A load from a scratchpad (R145): a blocking qualifier on an empty granule parks, and `.take` lets the granule's
list be served. -/
def loadScratch (s : State) (r : ThreadRef) (d : Reg) (size : Size) (sx acq : Bool) (scope : Scope) (feq : LdFeq)
    (core place off : Nat) (remote : Bool) : Eff :=
  let blocks := (feq == .wait || feq == .take) && !s.granuleFull core place (off / 16)
  if blocks then
    .park (s.joinGranule core place r) (.granule core place off (.load remote (feq == .take) d size sx acq scope))
  else
    let s := s.scratchLoad r core place off remote (feq == .take) d size sx (peekPred feq)
    let s := if feq = .take then s.setGranule core place (off / 16) false else s
    let wide := (acq && wideScope scope) || (remote && (feq == .wait || feq == .take))
    .next (if wide then s.dropClean r.core else s)

/-- `ld` (R178). -/
def execLd (g : Guard) (sx : Bool) (size : Size) (acq : Bool) (scope : Scope) (feq : LdFeq) (d : Reg) (m : MemRef)
    (s : State) : Host.Outcome State Fault Refusal :=
  issue s g (baseSrc m) [(d, sizeWords size)] (peekPred feq).toList fun t =>
    let r := s.issuer
    match s.formTarget r t { m, size := sizeBytes size, watch := .rd, kind := .read, atom := false } with
    | (.error x, s) => .turned s x
    | (.ok target, s) =>
      if State.accessWaits t then .hold s
      else match target with
        | .scratch c p off remote => loadScratch s r d size sx acq scope feq c p off remote
        | target => loadGlobal s r t d size sx acq scope (formAddr t m) target

/-! ## Stores (R145, R158, R161, R179) -/

/-- The scope at which a store is a release, if it is one (R159, R166). -/
def storeRelease (rel : Bool) (scope : Scope) (feq : StFeq) (target : Target) : Option Scope :=
  match feq, target with
  | .plain, _ => if rel then some scope else none
  | _, .scratch _ _ _ true => some (if rel && wideScope scope then scope else .clu)
  | _, _ => some (if rel then scope else .task)

/-- A store at the end of its thread's queue. -/
def State.enqueue (s : State) (r : ThreadRef) (q : QStore) : State := s.modThread r fun t => { t with queue := t.queue ++ [q] }

/-- `st` (R179). A `.fillw` store goes when the older stores have left the queue: it finds its granule empty and writes in one step,
or blocks its thread there (R145; notes/assumptions/122.md). -/
def execSt (g : Guard) (size : Size) (rel : Bool) (scope : Scope) (feq : StFeq) (m : MemRef) (b : Src) (s : State) :
    Host.Outcome State Fault Refusal :=
  let srcs := [(b, sizeWords size)]
  issue s g (baseSrc m ++ srcs) [] [] fun t =>
    let r := s.issuer
    match s.formTarget r t { m, size := sizeBytes size, watch := .wr, kind := .write, atom := false } with
    | (.error x, s) => .turned s x
    | (.ok target, s) =>
      match firstPoison t srcs with
      | some p => .trap s p
      | none =>
        let va := formAddr t m
        let data := BitVec.ofNat 128 (t.regsNat b.reg (sizeWords size) % 256 ^ sizeBytes size)
        let q : QStore := { target, size, data, feq, rel, scope, va, sent := none, issue := s.issueNo }
        let ready := (storeRelease rel scope feq target).all fun sc => !wideScope sc || s.releaseReady r sc
        if State.accessWaits t then .hold s
        else if !ready then s.awaitRelease r ((storeRelease rel scope feq target).getD .clu)
        else match target with
          | .peer d _ => withAllowance s r d va fun s => .next (s.enqueue r q)
          | .scratch c p off _ =>
            let bs := leBytes (sizeBytes size) data.toNat
            if feq != .fillw then .next (s.enqueue r q)
            else if !t.queue.isEmpty then .hold s
            else if s.granuleFull c p (off / 16) then .park (s.joinGranule c p r) (.granule c p off (.store bs))
            else .next ((s.fillwStore c p off bs).setGranule c p (off / 16) true)
          | _ => .next (s.enqueue r q)

/-! ## Operands on a line (R173, R175) -/

/-- The global operand of `pf`, `cflush`, `lsub` and `lunsub`. -/
def lineRef (base : Src) (off : Word) : MemRef := { space := .global, base, off, swz := 0 }

/-- Steps 1, 6 and 7 of R175 for an operand that names a line: the low six bits are ignored, and no watchpoint
matches. `size` is what step 7 takes the access for. What a fault reports is the address of the line
(notes/assumptions/132.md). -/
def State.lineTarget (s : State) (r : ThreadRef) (t : Thread) (base : Src) (off : Word) (size : Nat) :
    Translated × State :=
  match firstPoison t [(base, 2)] with
  | some p => (.error (some p), s)
  | none =>
    s.globalTarget r { m := lineRef base off, size, watch := .rd, kind := .read, atom := false }
      (formAddr t (lineRef base off) &&& ~~~(63#64))

/-! ## Prefetch (R181) -/

/-- `pf`: where another root would trap it does nothing. -/
def execPf (g : Guard) (level : PfLevel) (base : Src) (off : Word) (s : State) : Host.Outcome State Fault Refusal :=
  issue s g [(base, 2)] [] [] fun t =>
    let r := s.issuer
    match s.lineTarget r t base off 8 with
    | (.ok (.mem pa), s) =>
      if s.pageBusy pa then .next s
      else match level with
        | .l1 => .next (s.l1Fetch r.core (lineOf pa)).2
        | .l1w => .next (s.l1Own r.core (lineOf pa)).2
        | .l2 => .next s
    | (_, s) => .next s

/-! ## Fences (R183, R184) -/

/-- Whether an older load of a thread has no value yet, or an older operation is not performed. -/
def loadsOpen (t : Thread) : Bool := t.pend.any fun p => p.kind != .noReturn && p.got.isNone

def ordAcquires : MemOrd → Bool
  | .rel => false
  | _ => true

def ordReleases : MemOrd → Bool
  | .acq => false
  | _ => true

/-- ORD 0 or `.ar`: both (R183). -/
def ordBoth (o : MemOrd) : Bool := o == .relaxed || o == .ar

/-- Whether the acquire part of a fence waits (R183). -/
def acquireWaits (t : Thread) (ord : MemOrd) (scope : Scope) : Bool :=
  loadsOpen t || (ordBoth ord && scope != .task && !t.queue.isEmpty) || (scope == .sys && State.queuedTo t State.toMmio)

/-- `fence`: it holds its thread until its parts are done. -/
def execFence (g : Guard) (ord : MemOrd) (scope : Scope) (s : State) : Host.Outcome State Fault Refusal :=
  issue s g [] [] [] fun t =>
    let r := s.issuer
    if scope = .thr then .next s
    else if ordReleases ord && wideScope scope && !s.releaseReady r scope then s.awaitRelease r scope
    else if ordAcquires ord && acquireWaits t ord scope then .hold s
    else .next (if ordAcquires ord && wideScope scope then s.dropClean r.core else s)

/-- The cores whose instruction caches an `ifence` discards (R184). -/
def fenceCores (s : State) (r : ThreadRef) (scope : Scope) : List Nat :=
  match scope with
  | .thr | .task | .core => [r.core]
  | .clu => match s.taskOf? r with
    | some t => r.core :: (s.clusterTasks t).map Prod.fst
    | none => [r.core]
  | _ => List.range s.cores.length

/-- What a core has fetched of code, and what it has asked a peer for, gone: threads fetch afresh (R172, R184). -/
def State.dropFetched (s : State) (n : Nat) : State :=
  { s.modCore n fun c => { c with icache := [] } with
    reqs := s.reqs.map fun q => if q.owner == .line n then { q with owner := .gone } else q }

/-- `ifence` (R172, R184): the older stores and atomics of the thread are performed first, those to peers too. -/
def execIfence (g : Guard) (scope : Scope) (s : State) : Host.Outcome State Fault Refusal :=
  issue s g [] [] [] fun t =>
    let r := s.issuer
    let sc := if scope = .dom || scope = .sys then .dev else scope
    if wideScope sc && !s.releaseReady r sc then s.awaitRelease r sc
    else if !t.queue.isEmpty || State.accessWaits t || s.peerOpen r then .hold s
    else .next ((fenceCores s r sc).foldl State.dropFetched s)

/-! ## Cache control (R182) -/

/-- Whether a store of the thread to a line is queued. -/
def queuedLine (t : Thread) (la : Nat) : Bool :=
  State.queuedTo t fun x => match x with
    | .mem pa => lineOf pa == la
    | _ => false

/-- `cflush`: `inv` drops the core's copy after the write-back. -/
def cflush (g : Guard) (base : Src) (off : Word) (inv : Bool) (s : State) : Host.Outcome State Fault Refusal :=
  issue s g [(base, 2)] [] [] fun t =>
    let r := s.issuer
    match s.lineTarget r t base off 8 with
    | (.error x, s) => .turned s x
    | (.ok (.mem pa), s) =>
      let la := lineOf pa
      if queuedLine t la || s.pageBusy pa then .hold s
      else if s.subscribed r.core (.mem la) then .next s
      else
        let s := (s.flushCore r.core la).pushLine la
        .next (if inv then s.modCore r.core fun c => { c with l1 := c.l1.filter (·.pa != la) } else s)
    | (.ok _, s) => .next s

def execCflushWb (g : Guard) (base : Src) (off : Word) (s : State) : Host.Outcome State Fault Refusal :=
  cflush g base off false s

def execCflushInv (g : Guard) (base : Src) (off : Word) (s : State) : Host.Outcome State Fault Refusal :=
  cflush g base off true s

/-- `.mem`: the home slice and the memory behind it are one store here (notes/assumptions/8.md). -/
def execCflushMem (g : Guard) (base : Src) (off : Word) (s : State) : Host.Outcome State Fault Refusal :=
  cflush g base off true s

/-! ## Subscriptions (R185, R186) -/

/-- Entries of a core's subscription table. -/
def subEntries : Nat := 64

/-- The line of a target as a subscription entry holds it. -/
def subLine : Target → Option Target
  | .mem pa => if pa < hostBase then some (.mem (lineOf pa)) else none
  | .peer d off => some (.peer d (lineOf off))
  | _ => none

/-- The answer of `lsub` written. -/
def subAnswer (s : State) (r : ThreadRef) (qd : PredReg) (ok : Bool) : Eff := .next (s.modThread r fun t => t.setPred qd ok)

/-- An entry taken for a line: the home begins to push. -/
def State.newSub (s : State) (r : ThreadRef) (x : Target) : State :=
  s.modCore r.core fun c => { c with subs := c.subs ++ [{ target := x, users := [keyOf r.who] }] }

/-- The cases of R185 for a line that can be subscribed. The Read of a peer's line goes out in program order (R168). -/
def subscribe (s : State) (r : ThreadRef) (qd : PredReg) (va : DWord) (x : Target) : Eff :=
  let subs := ((s.core? r.core).map Core.subs).getD []
  let key := keyOf r.who
  if subs.any fun u => u.target == x then
    subAnswer (s.modCore r.core fun c => { c with subs := c.subs.map fun u =>
      if u.target == x && !(u.users.contains key) then { u with users := u.users ++ [key] } else u }) r qd true
  else if subEntries ≤ subs.length then subAnswer s r qd false
  else match x with
    | .mem la =>
      let s := (s.newSub r x).flushCore r.core la
      subAnswer ((s.modCore r.core fun c => { c with l1 := c.l1.filter (·.pa != la) }).pushLine la) r qd true
    | .peer d off =>
      if (s.thread? r).any fun t => State.queuedTo t State.toPeer || State.accessWaits t then .hold s
      else withAllowance s r d va fun s =>
        subAnswer ((s.newSub r x).sendPeer d off (.sub r) va .load 0 [] false [] 64).1 r qd true
    | _ => subAnswer s r qd false

/-- `lsub` (R185). -/
def execLsub (g : Guard) (qd : PredReg) (base : Src) (off : Word) (s : State) : Host.Outcome State Fault Refusal :=
  issue s g [(base, 2)] [] [qd] fun t =>
    let r := s.issuer
    match s.lineTarget r t base off 64 with
    | (.error x, s) => .turned s x
    | (.ok x, s) =>
      if s.busy x then .hold s
      else match subLine x with
        | some l => subscribe s r qd (formAddr t (lineRef base off)) l
        | none => subAnswer s r qd false

/-- A thread out of the set of a line's entry; an empty entry is freed, and its line is an ordinary L1 line again, or
gone where a peer holds it. -/
def State.unsubscribe (s : State) (core : Nat) (key : Nat × Nat) (which : Target → Bool) : State :=
  s.modCore core fun c =>
    let subs := c.subs.map fun u => if which u.target then { u with users := u.users.filter (· != key) } else u
    let gone := subs.filter fun u => u.users.isEmpty
    { c with subs := subs.filter fun u => !u.users.isEmpty
             l1 := c.l1.filter fun l => !gone.any fun u => match u.target with
               | .peer d off => l.pa == peerPa d off
               | _ => false }

/-- `lunsub` (R186). -/
def execLunsub (g : Guard) (base : Src) (off : Word) (s : State) : Host.Outcome State Fault Refusal :=
  issue s g [(base, 2)] [] [] fun t =>
    let r := s.issuer
    match s.lineTarget r t base off 8 with
    | (.error x, s) => .turned s x
    | (.ok x, s) =>
      match subLine x with
      | some l => .next (s.unsubscribe r.core (keyOf r.who) (· == l))
      | none => .next s

end Sys2Proof.Machine
end

