-- ==== Sys2Proof/Machine/Atomic.lean ====
section
/-!
DEFINITION. `atom`, `cas` and `red` (spec/10_memory_isa.md R187 to R190; spec/09_ordering_rules.md R158, R163, R165).
-/

namespace Sys2Proof.Machine

def ordAcq (o : MemOrd) : Bool := o == .acq || o == .ar
def ordRel (o : MemOrd) : Bool := o == .rel || o == .ar

/-- An operation under way: `words` registers from `dst` on and predicate `pred` take its result. -/
def opPend (s : State) (kind : PendKind) (dst : Reg) (words : Nat) (pred : Option PredReg) (va : DWord)
    (op : Option (Target × HomeOp)) (acq rel : Bool) (scope : Scope) (size : Size) (tag : Option Nat) : Pend where
  kind := kind
  dst := dst
  words := words
  va := va
  op := op
  acq := acq
  rel := rel
  scope := scope
  issue := s.issueNo
  tag := tag
  size := size
  sx := false
  pred := pred
  got := none

namespace State

/-- Whether an operation that is performed at its target may issue: older stores have left the queue, older operations
are performed (R158), and a release at its scope is ready (R161). -/
def opMayIssue (s : State) (r : ThreadRef) (t : Thread) (rel : Option Scope) : Bool :=
  t.queue.isEmpty && !State.accessWaits t && rel.all fun sc => !wideScope sc || s.releaseReady r sc

/-- The request of a lane of the same issue that this lane's operation joins (R165, R190). -/
def peerLane? (s : State) (r : ThreadRef) (d off : Nat) (m : Rmw) : Option Nat :=
  (s.reqs.filter fun q => q.dev == d && q.off == off && q.issue == s.issueNo).findSome? fun q =>
    s.outbox.findSome? fun o => match o with
      | .peerRequest tag _ _ _ _ (m' :: _) _ _ _ => if tag = q.tag && m.like m' && q.owner != .thread r then some tag else none
      | _ => none

end State

/-- A read-modify-write issued: performed at its target later, or sent to a peer. -/
def issueRmw (s : State) (r : ThreadRef) (kind : PendKind) (dst : Reg) (words : Nat) (va : DWord) (ord : MemOrd)
    (scope : Scope) (m : Rmw) (target : Target) : Eff :=
  let size : Size := if m.bytes = 8 then .b64 else .b32
  let put (s : State) (op : Option (Target × HomeOp)) (tag : Option Nat) : Eff :=
    .next (s.modThread r fun t =>
      t.pending (opPend s kind dst words none va op (ordAcq ord) (ordRel ord) scope size tag))
  match target with
  | .peer d off =>
    match s.peerLane? r d off m with
    | some tag => put (s.joinPeer tag m) none (some tag)
    | none => withAllowance s r d va fun s =>
        let (s, tag) := s.sendPeer d off (.thread r) va kind dst [] false [m] m.bytes
        put s none (some tag)
  | target => put s (some (target, .rmw m)) none

/-- The common part of `atom`, `cas` and `red`: steps 1 to 8 of R175, then the issue. -/
def rmwOp (s : State) (g : Guard) (ty : Ty) (ord : MemOrd) (scope : Scope) (m : MemRef) (data : List (Src × Nat))
    (kind : PendKind) (dst : Reg) (words : Nat) (f : Thread → Rmw) : Host.Outcome State Fault Refusal :=
  issue s g (baseSrc m ++ data) [(dst, words)] [] fun t =>
    let r := s.issuer
    match s.formTarget r t { m, size := ty.width / 8, watch := .atom, kind := .atomic, atom := true } with
    | (.error x, s) => .turned s x
    | (.ok target, s) =>
      match firstPoison t data with
      | some p => .trap s p
      | none =>
        if !s.opMayIssue r t (if ordRel ord then some scope else none) then s.awaitRelease r (if ordRel ord then scope else .thr)
        else issueRmw s r kind dst words (formAddr t m) ord scope (f t) target

/-- `atom` (R187). -/
def execAtom (g : Guard) (op : AtomOp) (ty : Ty) (ord : MemOrd) (scope : Scope) (d : Reg) (m : MemRef) (b : Src)
    (s : State) : Host.Outcome State Fault Refusal :=
  rmwOp s g ty ord scope m [(b, tyRegs ty)] .atomic d (tyRegs ty) fun t =>
    .op op ty (BitVec.ofNat 64 (valA t ty b))

/-- `cas` (R188). -/
def execCas (g : Guard) (ty : Ty) (ord : MemOrd) (scope : Scope) (d : Reg) (m : MemRef) (b c : Src) (s : State) :
    Host.Outcome State Fault Refusal :=
  rmwOp s g ty ord scope m [(b, tyRegs ty), (c, tyRegs ty)] .atomic d (tyRegs ty) fun t =>
    .cas ty (BitVec.ofNat 64 (valA t ty b)) (BitVec.ofNat 64 (valA t ty c))

/-- `red` (R187): nothing returns. -/
def execRed (g : Guard) (op : AtomOp) (ty : Ty) (rel : Bool) (scope : Scope) (m : MemRef) (b : Src) (s : State) :
    Host.Outcome State Fault Refusal :=
  rmwOp s g ty (if rel then .rel else .relaxed) scope m [(b, tyRegs ty)] .noReturn 0 0 fun t =>
    .op op ty (BitVec.ofNat 64 (valA t ty b))

end Sys2Proof.Machine
end

