-- ==== Sys2Proof/Machine/BitOps.lean ====
section
/-!
DEFINITION. Bitwise, shift, count, reverse and field instructions (spec/05_element_isa.md R86 to R89).
-/

namespace Sys2Proof.Machine

/-- A bitwise operation on two sources (R86). -/
def bits2 (s : State) (g : Guard) (ty : Ty) (d : Reg) (a : Src) (b : SrcB) (f : Nat → Nat → Nat) :
    Host.Outcome State Fault Refusal :=
  intOp s g (srcA ty a ++ srcB ty b) d (tyRegs ty) fun t => f (valA t ty a) (valB t ty b)

/-- A shift of `a` by `b` mod w (R87). -/
def shift (s : State) (g : Guard) (ty : Ty) (d : Reg) (a : Src) (b : SrcB) (f : Nat → Nat → Nat) :
    Host.Outcome State Fault Refusal :=
  intOp s g (srcA ty a ++ srcB32 b) d (tyRegs ty) fun t => f (valA t ty a) (valB32 t b % ty.width)

/-- A count of the bits of `a` (R88). -/
def countBits (s : State) (g : Guard) (ty : Ty) (d : Reg) (a : Src) (f : Nat → Nat) :
    Host.Outcome State Fault Refusal :=
  intOp s g (srcA ty a) d 1 fun t => f (valA t ty a)

/-- Number of one bits among the low `w`. -/
def popCount (w x : Nat) : Nat := ((List.range w).filter fun i => x.testBit i).length

/-- Zero bits above the highest one bit of `w`. -/
def leadingZeros (w x : Nat) : Nat := if x = 0 then w else w - 1 - x.log2

/-- Zero bits below the lowest one bit of `w`. -/
def trailingZeros (w x : Nat) : Nat := ((List.range w).find? fun i => x.testBit i).getD w

/-- The `w` bits of a number in reverse order. -/
def revBits (w x : Nat) : Nat := (List.range w).foldl (fun y i => 2 * y + (x.testBit i).toNat) 0

/-- `a` shifted right with copies of its top bit entering. -/
def sraBits (w x k : Nat) : Nat :=
  if x.testBit (w - 1) then (x + (2 ^ k - 1) * 2 ^ w) / 2 ^ k else x / 2 ^ k

/-- `bfx` (R89): `ctl` holds pos and len. -/
def fieldOut (ty : Ty) (x ctl : Nat) : Nat :=
  let pos := bits ctl 0 8
  let len := bits ctl 8 8
  let f := x / 2 ^ pos % 2 ^ len
  let signed := (ty == .i32 || ty == .i64) && 0 < len && f.testBit (len - 1)
  (if signed then f + (2 ^ 320 - 2 ^ len) else f) % 2 ^ ty.width

/-- `bfi` (R89). -/
def fieldIn (ty : Ty) (x y ctl : Nat) : Nat :=
  let pos := bits ctl 0 8
  let len := bits ctl 8 8
  (List.range len).foldl (fun z i =>
    if pos + i < ty.width then z - bits z (pos + i) 1 * 2 ^ (pos + i) + bits y i 1 * 2 ^ (pos + i) else z) x

def execAnd (g : Guard) (ty : Ty) (d : Reg) (a : Src) (b : SrcB) (s : State) : Host.Outcome State Fault Refusal :=
  bits2 s g ty d a b fun x y => x &&& y

def execOr (g : Guard) (ty : Ty) (d : Reg) (a : Src) (b : SrcB) (s : State) : Host.Outcome State Fault Refusal :=
  bits2 s g ty d a b fun x y => x ||| y

def execXor (g : Guard) (ty : Ty) (d : Reg) (a : Src) (b : SrcB) (s : State) : Host.Outcome State Fault Refusal :=
  bits2 s g ty d a b fun x y => x ^^^ y

def execNot (g : Guard) (ty : Ty) (d : Reg) (a : Src) (s : State) : Host.Outcome State Fault Refusal :=
  intOp s g (srcA ty a) d (tyRegs ty) fun t => 2 ^ ty.width - 1 - valA t ty a

def execShl (g : Guard) (ty : Ty) (d : Reg) (a : Src) (b : SrcB) (s : State) : Host.Outcome State Fault Refusal :=
  shift s g ty d a b fun x k => x * 2 ^ k % 2 ^ ty.width

def execShr (g : Guard) (ty : Ty) (d : Reg) (a : Src) (b : SrcB) (s : State) : Host.Outcome State Fault Refusal :=
  shift s g ty d a b fun x k => x / 2 ^ k

def execSra (g : Guard) (ty : Ty) (d : Reg) (a : Src) (b : SrcB) (s : State) : Host.Outcome State Fault Refusal :=
  shift s g ty d a b (sraBits ty.width)

def execRot (g : Guard) (ty : Ty) (d : Reg) (a : Src) (b : SrcB) (s : State) : Host.Outcome State Fault Refusal :=
  shift s g ty d a b fun x k => (x * 2 ^ k + x / 2 ^ (ty.width - k)) % 2 ^ ty.width

def execPopc (g : Guard) (ty : Ty) (d : Reg) (a : Src) (s : State) : Host.Outcome State Fault Refusal :=
  countBits s g ty d a (popCount ty.width)

def execClz (g : Guard) (ty : Ty) (d : Reg) (a : Src) (s : State) : Host.Outcome State Fault Refusal :=
  countBits s g ty d a (leadingZeros ty.width)

def execCtz (g : Guard) (ty : Ty) (d : Reg) (a : Src) (s : State) : Host.Outcome State Fault Refusal :=
  countBits s g ty d a (trailingZeros ty.width)

def execBrev (g : Guard) (ty : Ty) (d : Reg) (a : Src) (s : State) : Host.Outcome State Fault Refusal :=
  intOp s g (srcA ty a) d (tyRegs ty) fun t => revBits ty.width (valA t ty a)

/-- Bit-field extract; the control is B. -/
def execBfx (g : Guard) (ty : Ty) (d : Reg) (a : Src) (b : SrcB) (s : State) : Host.Outcome State Fault Refusal :=
  intOp s g (srcA ty a ++ srcB32 b) d (tyRegs ty) fun t => fieldOut ty (valA t ty a) (valB32 t b)

/-- Bit-field insert; the control is C. -/
def execBfi (g : Guard) (ty : Ty) (d : Reg) (a : Src) (b : SrcB) (c : Src) (s : State) :
    Host.Outcome State Fault Refusal :=
  intOp s g (srcA ty a ++ srcB ty b ++ [(c, 1)]) d (tyRegs ty) fun t =>
    fieldIn ty (valA t ty a) (valB t ty b) (t.reg c.reg).toNat

end Sys2Proof.Machine
end

