-- ==== Sys2Proof/Machine/Boundary.lean ====
section
/-!
DEFINITION. What a core considers at an instruction boundary before the next instruction (spec/22_traps_restart.md
R340), the delivery of signals (R346), and the call ring (R344).
-/

namespace Sys2Proof.Machine

/-- The PC whose sequential successor is `pc` (R25). -/
def prevPC (pc : DWord) : DWord := if pcSlot pc = 0 then pcLine pc - 64 + 4 else pc - 1

namespace State

/-! ## The call ring (R344) -/

/-- Where call record `i` of a core lies (R349). -/
def callAt (c : Core) (i : Nat) : Nat := c.window.toNat + 0x1000 + 64 * i

/-- The call record of a thread that waits on a system call: NUM from its state, its operands from v2 to v7. -/
def callBytes (s : State) (r : ThreadRef) (st : Nat) : List Byte :=
  match r.who, s.thread? r, s.taskOf? r with
  | .user place tidx, some t, some k =>
    let num := match t.state with
      | .syscall n => n.toNat
      | _ => 0
    leBytes 8 (num + (s.handle r.core place tidx).toNat * 2 ^ 32) ++ leBytes 8 (t.reg64 2).toNat ++
      leBytes 8 (t.reg64 4).toNat ++ leBytes 8 (t.reg64 6).toNat ++ leBytes 8 (prevPC t.pc).toNat ++
      leBytes 8 (st + k.ctx.ctxn * 256) ++ leBytes 8 s.cycle.toNat ++ leBytes 8 0
  | _, _, _ => List.replicate 64 0

/-- The lowest-numbered free entry of a call ring. -/
def freeCall? (c : Core) : Option Nat := (List.range 64).find? fun i => (lookup c.calls i).isNone

/-- The oldest call that is not posted goes to the lowest free entry. -/
def postOne (s : State) (core : Nat) : State :=
  match s.core? core with
  | none => s
  | some c =>
    match c.unposted, freeCall? c with
    | (place, tidx) :: rest, some i =>
      let r : ThreadRef := { core, who := .user place tidx }
      let s := s.storeHomeBytesBy (some core) (callAt c i) (s.callBytes r 1) false
      s.modCore core fun c =>
        { c with unposted := rest, callNo := c.callNo + 1
                 calls := insertKey c.calls i { place, tidx, taken := false, order := c.callNo } }
    | _, _ => s

/-- A call put to the ring, at its end while every entry is taken. -/
def postCall (s : State) (core place tidx : Nat) : State :=
  (s.modCore core fun c => { c with unposted := c.unposted ++ [(place, tidx)] }).postOne core

/-- The ring index of a thread's call. -/
def callOf? (c : Core) (place tidx : Nat) : Option Nat :=
  (c.calls.find? fun e => e.2.place == place && e.2.tidx == tidx).map Prod.fst

/-- A thread's call leaves the ring, posted or not; a call that waits is posted in the entry. -/
def freeCall (s : State) (core place tidx : Nat) : State :=
  match s.core? core with
  | none => s
  | some c =>
    let s := match callOf? c place tidx with
      | some i => s.storeHomeBytesBy (some core) (callAt c i + 40) (leBytes 1 0) false
      | none => s
    (s.modCore core fun c =>
      { c with unposted := c.unposted.filter (· != (place, tidx))
               calls := c.calls.filter fun e => !(e.2.place == place && e.2.tidx == tidx) }).postOne core

/-! ## Signals (R346) -/

/-- Whether a state holds a result a signal waits for, or ends only by the Caster code. -/
def signalWaits : BState → Bool
  | .riser | .syscall _ | .idle => true
  | _ => false

/-- The frame of a signal. -/
def frameBytes (t : Thread) (signo : BitVec 6) : List Byte :=
  leBytes 8 t.pc.toNat ++ leBytes 4 t.fpctl.toNat ++ leBytes 1 (t.preds &&& 0xFE).toNat ++ leBytes 1 signo.toNat ++
    leBytes 1 (if t.state == .runnable then 0 else 1) ++ leBytes 1 0 ++ leBytes 8 (t.reg64 0).toNat ++
    leBytes 8 (t.reg64 2).toNat ++ leBytes 4 (t.reg 61).toNat ++ leBytes 4 0 ++ leBytes 8 (t.reg64 62).toNat ++
    leBytes 16 0

/-- The registers a frame saves. -/
def frameRegs : List Reg := [0, 1, 2, 3, 61, 62, 63]

/-- The stores of a frame at an own-scratchpad offset. -/
def frameStores (core place f : Nat) (bs : List Byte) : List QStore :=
  (List.range 4).map fun i =>
    { target := .scratch core place (f + 16 * i) false, size := .b128
      data := BitVec.ofNat 128 (leNat ((bs.drop (16 * i)).take 16)), feq := .plain, rel := false, scope := .thr
      va := BitVec.ofNat 64 (f + 16 * i), sent := none, issue := 0 }

/-- The trap of a signal that cannot be delivered, once nothing of the thread is outstanding; a failure that then waits goes
first, at the next boundary (R338, R340). A discarded signal is pending no more. -/
def signalTrap (s : State) (r : ThreadRef) (t : Trap) (discard : Bool) : State :=
  let s' := s.withdraw r
  if !s'.drained r || (s'.thread? r).any fun th => !th.fails.isEmpty then s.drain r
  else ((s.signalWakes r).modThread r fun th => if discard then { th with signal := none } else th).report r t

/-- The delivery of the pending signal of a user thread (R346). A thread that takes it before its first issue has started:
ENTRY is then a saved PC and is not checked as a transfer (DESIGN CHOICE, notes/assumptions/117.md). -/
def deliverSignal (s : State) (r : ThreadRef) : State :=
  match r.who, s.thread? r, s.taskOf? r with
  | .user place _, some t, some k =>
    match t.signal with
    | none => s
    | some signo =>
      if signalWaits t.state || t.exited then s
      else if !t.pend.isEmpty then s.drain r
      else
        let f := ((t.reg 61 - 64) &&& 0x000FFFF0#32).toNat
        let bad : Trap := { kind := .signal, sub := signo.zeroExtend 8, addr := BitVec.ofNat 64 f }
        if k.scratch < f + 64 || frameRegs.any t.isPois then s.signalTrap r bad false
        else
          let vec := if k.ctx.sigvec = 0 then ((s.core? r.core).map Core.sigvec).getD 0 else k.ctx.sigvec
          match s.checkTarget r vec with
          | (.trap x, s) => s.signalTrap r x (x.kind == .cfi)
          | (.check, s) => s.fetchCheck r (pcLine vec)
          | (.wait, s) => s
          | (.ok, s) =>
            let frame := frameStores r.core place f (frameBytes t signo)
            ((((s.signalWakes r).unblock r).leaveCrus r).dropReserved r).modThread r fun t =>
              let t := (t.setReg 61 (BitVec.ofNat 32 f)).setReg 2 (signo.zeroExtend 32) |>.setReg 3 (BitVec.ofNat 32 f)
              { t with pc := vec, state := .runnable, starting := false, signal := none, queue := t.queue ++ frame }
  | _, _, _ => s

/-! ## The boundary (R340) -/

/-- The oldest stopped copy of a thread whose fault it has not been told. -/
def stoppedCopy? (s : State) (r : ThreadRef) : Option (Copy × Trap) :=
  let (place, tidx) := keyOf r.who
  ((s.core? r.core).map Core.copies).getD [] |>.findSome? fun c =>
    match c.state with
    | .stopped (some t) => if c.place == place && c.tidx == tidx && !c.told then some (c, t) else none
    | _ => none

/-- Item 1: a stop of the thread's cluster. -/
def takeStop (s : State) (r : ThreadRef) (t : Trap) : State := s.report r t

/-- Item 2: the oldest failure after issue. A Caster thread's is a machine check. -/
def takeFailure (s : State) (r : ThreadRef) (t : Trap) : State :=
  match r.who with
  | .user .. => s.report r t
  | .caster _ => (s.modThread r fun th => { th with fails := th.fails.drop 1 }).report r t

/-- Item 3: the fault of a stopped copy, with its progress and id (R198). -/
def takeCopyFault (s : State) (r : ThreadRef) (c : Copy) (t : Trap) : State :=
  let t := { t with prog := c.prog, what := 1, val := c.id }
  match r.who with
  | .user .. => s.report r t
  | .caster _ => (s.copyTold r.core t).report r t

/-- A report that came with a shell (R322 step 3): its record goes to the Riser as it was saved, for the thread's
handle and core of now. -/
def takeLater (s : State) (r : ThreadRef) (f : FaultRec) : State :=
  match r.who with
  | .caster _ => s
  | .user .. => s.report r f.trap

/-- Whether an event may report to a thread: it has not exited, does not wait for the Caster code, and is not being
saved. -/
def reportable (s : State) (r : ThreadRef) (t : Thread) : Bool :=
  !t.exited && !signalWaits t.state && !((s.taskOf? r).map Task.stopped).getD false &&
    ((s.core? r.core).map Core.inService).getD false

/-- What is due at a boundary of a thread before its next instruction; none where nothing is. -/
def boundary (s : State) (r : ThreadRef) : Option State :=
  match s.thread? r with
  | none => none
  | some t =>
    match t.stop, t.later, t.fails, s.stoppedCopy? r with
    | some x, _, _, _ => some (s.takeStop r x)
    | none, f :: _, _, _ => some (s.takeLater r f)
    | none, [], f :: _, _ => some (s.takeFailure r f.2)
    | none, [], [], some (c, x) => some (s.takeCopyFault r c x)
    | none, [], [], none => if t.signal.isSome then some (s.deliverSignal r) else none

end State

end Sys2Proof.Machine
end

