-- ==== Sys2Proof/Machine/CasterEvents.lean ====
section
/-!
DEFINITION. The start of Caster threads and machine checks as events (spec/20_system_isa.md R312, R313;
spec/21_prog_protected_preempt.md R331; spec/22_traps_restart.md R344, R349, R350).
-/

namespace Sys2Proof.Machine

/-! ## What a core waits to serve (R312) -/

/-- The oldest call that is posted and not taken. -/
def oldestCall? (c : Core) : Option Nat :=
  (c.calls.filter fun e => !e.2.taken).foldl (fun (b : Option (Nat × CallEntry)) e => match b with
    | none => some e
    | some x => if e.2.order < x.2.order then some e else some x) none |>.map Prod.fst

/-- A request that still names a task of the core, or a shell to be placed (R316). -/
def requestLive (c : Core) : CasterReq → Bool
  | .save place gen => (c.task? place).any (fun t => !t.threads.isEmpty) && c.gen place == gen
  | .place .. => true

/-- Whether the condition of a cause holds. -/
def causeHolds (c : Core) : Nat → Bool
  | 1 => !(State.shownRecords c).isEmpty
  | 2 => (oldestCall? c).isSome
  | 3 => c.sigReq
  | 4 => c.reqs.any (requestLive c)
  | 5 => !c.mcheck.isEmpty
  | _ => false

/-- The cause that is served next: CAUSE 5, then 1 to 4, those that no Caster thread serves. -/
def nextCause? (c : Core) : Option Nat := [5, 1, 2, 3, 4].find? fun k => causeHolds c k && !State.serving c k

namespace State

/-- The next unused slot of a pre-emption (R247 step 2). -/
def nextSlot? (p : Preempt) : Option Nat :=
  match p.slots.find? fun a => !(p.kept.contains a) && !(p.given.contains a) with
  | some a => some a
  | none => p.slots.find? fun a => !(p.kept.contains a) && !(p.written.contains a)

/-- A start for CAUSE 4: ARG, and the placement word; none where no slot is left. -/
def saveStart (s : State) (core : Nat) : CasterReq → Option (Word × Nat × State)
  | .place slot _ => some (0, slot, s)
  | .save place _ =>
    match s.preempt with
    | none => none
    | some p =>
      (nextSlot? p).map fun a =>
        (s.handle core place 0, a,
          { s with preempt := some { p with given := if p.given.contains a then p.given else p.given ++ [a] } })

/-- What the device writes for a start on a core, and its ARG; none where the start cannot be made. -/
def prepare (s : State) (core : Nat) (c : Core) (cause : Nat) : Option (Word × Option Nat × State) :=
  let window := c.forebase.toNat
  match cause with
  | 2 =>
    (oldestCall? c).map fun i =>
      let s := s.storeHomeBytesBy (some core) (window + 0x800) (leBytes 8 i) false
      let s := s.storeHomeBytesBy (some core) (callAt c i + 40) (leBytes 1 2) false
      (0, some i, s.modCore core fun c =>
        { c with calls := c.calls.map fun e => if e.1 = i then (i, { e.2 with taken := true }) else e })
  | 3 => some (0, none, s.modCore core fun c => { c with sigReq := false })
  | 4 =>
    ((c.reqs.filter (requestLive c)).head?.bind (s.saveStart core)).map fun (arg, slot, s) =>
      (arg, none, s.storeHomeBytesBy (some core) (window + 0x400) (leBytes 8 slot) false)
  | _ => some (0, none, s)

/-- The start of an idle thread for a cause 1 to 4: what the device writes for it (R331), and a transfer to its entry (R27). A
start that traps is a machine check; what it was to serve waits for another. -/
def makeStart (s : State) (core : Nat) (c : Core) (n cause : Nat) : State :=
  let r : ThreadRef := { core, who := .caster n }
  let entry := casterEntry c cause
  match s.prepare core c cause with
  | none => s
  | some (arg, call, s') =>
    match (s'.putStart core n cause arg call).checkTarget r entry with
    | (.wait, _) => s
    | (.trap t, s) => s.casterTrap core n t
    | (.check, s) => (s.stopCaster core n).raiseMcheck core 0x02 n entry (pcLine entry) 0 0
    | (.ok, s) => s.dropClean core

/-- The other tasks of the cluster of the task that a core's first request names, whose saves are requested too: core and
place (R247 step 2). -/
def mates (s : State) (core : Nat) (c : Core) : List (Nat × Nat) :=
  match (c.reqs.filter (requestLive c)).head? with
  | some (.save place _) =>
    match s.task? core place with
    | none => []
    | some t => ((s.clusterTasks t).filter fun (n, p, _) => n != core && (s.core? n).any fun k =>
        k.inService && (k.reqs.filter (requestLive k)).any fun q => q == .save p (k.gen p)).map fun (n, p, _) => (n, p)
  | _ => []

/-- Whether a core can start a Caster thread for CAUSE 4 at once: that is its next start, a thread is idle, and the entry does
not have to be waited for. -/
def canStartSave (s : State) (core : Nat) : Bool :=
  (s.core? core).any fun c => nextCause? c == some 4 && (idleCaster? c).any fun n =>
    match (s.putStart core n 4 0 none).checkTarget { core, who := .caster n } (casterEntry c 4) with
    | (.wait, _) => false
    | _ => true

/-- A start for CAUSE 4 on a core, for the task in a place: its request goes first. -/
def startMate (s : State) (core place : Nat) : State :=
  let first (c : Core) : Core :=
    let q : CasterReq := .save place (c.gen place)
    { c with reqs := q :: c.reqs.erase q }
  let s := s.modCore core first
  match s.core? core with
  | none => s
  | some c => match idleCaster? c with
    | none => s
    | some n => s.makeStart core c n 4

/-- The start that is due on a core, if it is for this cause. The starts for the tasks of a cluster are made together
(R247 step 2). -/
def startCaster (s : State) (core cause : Nat) : State :=
  match s.core? core with
  | none => s
  | some c =>
    if !c.inService || !s.coresRun || s.stage != 7 || nextCause? c != some cause then s
    else if cause = 5 then s.serveMcheck core
    else match idleCaster? c with
      | none => s
      | some n =>
        if cause != 4 then s.makeStart core c n cause
        else
          let ms := s.mates core c
          if ms.isEmpty then s.makeStart core c n 4
          else if s.canStartSave core && ms.all fun m => s.canStartSave m.1 then
            ms.foldl (fun s m => s.startMate m.1 m.2) (s.makeStart core c n 4)
          else s

/-- The Caster thread of a core that stands at a PC. -/
def casterAt? (s : State) (core : Nat) (pc : DWord) : Option Nat :=
  ((s.core? core).map Core.casters).getD [] |>.findIdx? fun k => k.thr.state != .idle && k.thr.pc == pc

/-- Caster threads stopped as by a trap, for an uncorrectable error in what they use: their causes are served by other
starts (R350 0x03). -/
def stopCasters (s : State) (core : Nat) (which : Nat → Bool) : State :=
  (List.range 8).foldl (fun (s : State) n =>
    if which n && ((s.core? core).bind fun c => c.casters[n]?).any fun k => k.thr.state != .idle then s.stopCaster core n else s) s

/-- Machine check 0x03: a thread that serves CAUSE 5 and is to be stopped takes the core out of service (R350 0x04). -/
def dataCheck (s : State) (core : Nat) (w2 : DWord) (which : Nat → Bool) : State :=
  let five := (((s.core? core).map Core.casters).getD []).zipIdx.find? fun (k, n) =>
    which n && k.thr.state != .idle && k.cause == 5
  match five with
  | some (k, n) => s.haltCore core 0x04 n k.thr.pc (BitVec.ofNat 64 (0x1B + 0x03 * 256))
  | none => (s.stopCasters core which).raiseMcheck core 0x03 0 0 w2 0 0

end State

/-- `CASTER_START` (R312). -/
def execCasterStart (core cause : Nat) (s : State) : Host.Outcome State Fault Refusal := .next (s.startCaster core cause)

/-- `MACHINE_CHECK` (R350): 0x01 is the trap of the Caster thread that stands at `w1`, with KIND and SUB in `w2`. Which Caster
threads use the data of 0x03 is a free value (notes/assumptions/128.md). -/
def execMachineCheck (core : Nat) (sub : Byte) (w1 w2 : DWord) (s : State) : Host.Outcome State Fault Refusal :=
  .next (match s.core? core with
    | none => s
    | some c =>
      if !c.inService then s
      else match sub.toNat with
        | 0x01 => match s.casterAt? core w1 with
          | some n => s.casterTrap core n { kind := .other (w2.extractLsb' 0 8), sub := w2.extractLsb' 8 8 }
          | none => s
        | 0x02 => s.raiseMcheck core 0x02 0 w1 w2 0 0
        | 0x03 => ({ s with free := s.free + 1 } : State).dataCheck core w2 (Config.usesLost s.free)
        | 0x04 => match s.casterAt? core w1 with
          | some n => if (c.casters[n]?.map Caster.cause) == some 5 then s.haltCore core 0x04 n w1 w2 else s
          | none => s
        | 0xFF => s.haltCore core 0xFF 0 w1 w2
        | _ => s)

/-- `SIGNAL_REQUEST`: the driver's request for a core (R312, CAUSE 3). -/
def execSignalRequest (core : Nat) (s : State) : Host.Outcome State Fault Refusal :=
  .next (s.modCore core fun c => if c.inService then { c with sigReq := true } else c)

end Sys2Proof.Machine
end

