-- ==== Sys2Proof/Decode.lean ====
section
/-!
DEFINITION. The decoder and the encoder of instruction words (spec/02_encoding.md R28 to R38). The decoder is
total on 96-bit words: it answers the instruction, or the sub-kind of ILLEGAL the word breaks, in the order of
R42 (0x01 and 0x05 at step 2; at step 5 the lowest of 0x02, 0x03, 0x04).
-/

namespace Sys2Proof

/-! ## Fields -/

/-- The fields of an instruction word (R28). -/
structure Fields where
  maj : BitVec 8
  gn  : BitVec 1
  gq  : BitVec 3
  dst : BitVec 6
  sa  : BitVec 6
  sb  : BitVec 6
  sc  : BitVec 6
  /-- FEB bit 59: source A. -/
  fa  : BitVec 1
  /-- FEB bit 58: source B. -/
  fb  : BitVec 1
  /-- FEB bit 57: source C. -/
  fc  : BitVec 1
  min : BitVec 9
  mod : BitVec 16
  imm : BitVec 32
  deriving DecidableEq, Repr

/-- The word of the fields (R28). -/
def Fields.pack (f : Fields) : InstrWord :=
  f.maj ++ f.gn ++ f.gq ++ f.dst ++ f.sa ++ f.sb ++ f.sc ++ f.fa ++ f.fb ++ f.fc ++ f.min ++ f.mod ++ f.imm

/-- The fields of a word (R28). -/
def Fields.ofWord (w : InstrWord) : Fields where
  maj := w.extractLsb' 88 8
  gn  := w.extractLsb' 87 1
  gq  := w.extractLsb' 84 3
  dst := w.extractLsb' 78 6
  sa  := w.extractLsb' 72 6
  sb  := w.extractLsb' 66 6
  sc  := w.extractLsb' 60 6
  fa  := w.extractLsb' 59 1
  fb  := w.extractLsb' 58 1
  fc  := w.extractLsb' 57 1
  min := w.extractLsb' 48 9
  mod := w.extractLsb' 32 16
  imm := w.extractLsb' 0 32

/-! ## Codes of the fields' values -/

def Ty.ofCode (c : BitVec 4) : Ty :=
  match c with
  | 0x0#4 => .i32 | 0x1#4 => .n32 | 0x2#4 => .i64 | 0x3#4 => .n64
  | 0x4#4 => .i16 | 0x5#4 => .n16 | 0x6#4 => .i8 | 0x7#4 => .n8
  | 0x8#4 => .f32 | 0x9#4 => .f16 | 0xA#4 => .bf16 | 0xB#4 => .f16x2
  | 0xC#4 => .bf16x2 | 0xD#4 => .ta8 | 0xE#4 => .ta6 | _ => .b32

/-- TYPE codes (R33). -/
def Ty.code : Ty → BitVec 4
  | .i32 => 0x0 | .n32 => 0x1 | .i64 => 0x2 | .n64 => 0x3
  | .i16 => 0x4 | .n16 => 0x5 | .i8 => 0x6 | .n8 => 0x7
  | .f32 => 0x8 | .f16 => 0x9 | .bf16 => 0xA | .f16x2 => 0xB
  | .bf16x2 => 0xC | .ta8 => 0xD | .ta6 => 0xE | .b32 => 0xF

/-- RM codes of MOD; 6 and 7 are illegal (R33). -/
def RmField.ofCode? (c : BitVec 3) : Option RmField :=
  match c with
  | 0#3 => some .dyn | 1#3 => some .rne | 2#3 => some .rtz | 3#3 => some .rdn
  | 4#3 => some .rup | 5#3 => some .rna | _ => none

def RmField.code : RmField → BitVec 3
  | .dyn => 0 | .rne => 1 | .rtz => 2 | .rdn => 3 | .rup => 4 | .rna => 5

/-- SPACE codes; 3 is illegal (R34, R35). -/
def Space.ofCode? (c : BitVec 2) : Option Space :=
  match c with
  | 0#2 => some .global | 1#2 => some .own | 2#2 => some .peer | _ => none

def Space.code : Space → BitVec 2
  | .global => 0 | .own => 1 | .peer => 2

/-- SCOPE codes; 7 is illegal (R34). -/
def Scope.ofCode? (c : BitVec 3) : Option Scope :=
  match c with
  | 0#3 => some .thr | 1#3 => some .task | 2#3 => some .core | 3#3 => some .clu
  | 4#3 => some .dev | 5#3 => some .dom | 6#3 => some .sys | _ => none

def Scope.code : Scope → BitVec 3
  | .thr => 0 | .task => 1 | .core => 2 | .clu => 3 | .dev => 4 | .dom => 5 | .sys => 6

/-- SIZE codes; 5 to 7 are illegal (R34). -/
def Size.ofCode? (c : BitVec 3) : Option Size :=
  match c with
  | 0#3 => some .b8 | 1#3 => some .b16 | 2#3 => some .b32 | 3#3 => some .b64 | 4#3 => some .b128 | _ => none

def Size.code : Size → BitVec 3
  | .b8 => 0 | .b16 => 1 | .b32 => 2 | .b64 => 3 | .b128 => 4

/-- ORD codes (R34). -/
def MemOrd.ofCode (c : BitVec 2) : MemOrd :=
  match c with
  | 0#2 => .relaxed | 1#2 => .acq | 2#2 => .rel | _ => .ar

def MemOrd.code : MemOrd → BitVec 2
  | .relaxed => 0 | .acq => 1 | .rel => 2 | .ar => 3

/-- MIN of `icmp` (R90). -/
def ICond.ofCode? (c : BitVec 9) : Option ICond :=
  match c with
  | 0#9 => some .eq | 1#9 => some .ne | 2#9 => some .lt | 3#9 => some .le | 4#9 => some .gt | 5#9 => some .ge
  | _ => none

def ICond.code : ICond → BitVec 9
  | .eq => 0 | .ne => 1 | .lt => 2 | .le => 3 | .gt => 4 | .ge => 5

/-- MIN of `fcmp` (R98). -/
def FCond.ofCode? (c : BitVec 9) : Option FCond :=
  match c with
  | 0#9 => some .eq | 1#9 => some .ne | 2#9 => some .lt | 3#9 => some .le | 4#9 => some .gt | 5#9 => some .ge
  | 6#9 => some .un | _ => none

def FCond.code : FCond → BitVec 9
  | .eq => 0 | .ne => 1 | .lt => 2 | .le => 3 | .gt => 4 | .ge => 5 | .un => 6

/-- MIN of `shfl` (R259). -/
def ShflMode.ofCode? (c : BitVec 9) : Option ShflMode :=
  match c with
  | 0#9 => some .idx | 1#9 => some .up | 2#9 => some .down | 3#9 => some .xor | _ => none

def ShflMode.code : ShflMode → BitVec 9
  | .idx => 0 | .up => 1 | .down => 2 | .xor => 3

/-- MIN[2:0] of `redux` and `scanx` (R261, R262). -/
def RedOp.ofCode? (c : BitVec 3) : Option RedOp :=
  match c with
  | 0#3 => some .add | 1#3 => some .min | 2#3 => some .max | 3#3 => some .and | 4#3 => some .or | 5#3 => some .xor
  | _ => none

def RedOp.code : RedOp → BitVec 3
  | .add => 0 | .min => 1 | .max => 2 | .and => 3 | .or => 4 | .xor => 5

/-- MIN of `vote` but for `.ballot` (R260). -/
def VoteMode.code : VoteMode → BitVec 9
  | .all => 0 | .any => 1 | .uni => 2

def BcastMode.code : BcastMode → BitVec 9
  | .first => 0 | .last => 1

def MatchMode.code : MatchMode → BitVec 9
  | .first => 0 | .count => 1

def LanesMode.code : LanesMode → BitVec 9
  | .pos => 0 | .count => 1 | .rank => 2 | .grant => 3

def PfLevel.code : PfLevel → BitVec 9
  | .l1 => 0 | .l1w => 1 | .l2 => 2

/-- OP of `atom` and `red` (R187). -/
def AtomOp.ofCode? (c : BitVec 5) : Option AtomOp :=
  match c with
  | 0#5 => some .add | 1#5 => some .min | 2#5 => some .max | 3#5 => some .and | 4#5 => some .or
  | 5#5 => some .xor | 6#5 => some .exch | _ => none

def AtomOp.code : AtomOp → BitVec 5
  | .add => 0 | .min => 1 | .max => 2 | .and => 3 | .or => 4 | .xor => 5 | .exch => 6

/-- FMT codes; 4 to 7 are illegal (R36). -/
def Fmt.ofCode? (c : BitVec 3) : Option Fmt :=
  match c with
  | 0#3 => some .bf16 | 1#3 => some .f16 | 2#3 => some .ta8 | 3#3 => some .ta6 | _ => none

def Fmt.code : Fmt → BitVec 3
  | .bf16 => 0 | .f16 => 1 | .ta8 => 2 | .ta6 => 3

/-- KS codes; 3 is illegal (R36). -/
def KStep.ofCode? (c : BitVec 2) : Option KStep :=
  match c with
  | 0#2 => some .k16 | 1#2 => some .k32 | 2#2 => some .k64 | _ => none

def KStep.code : KStep → BitVec 2
  | .k16 => 0 | .k32 => 1 | .k64 => 2

/-- OFMT codes; 3 is illegal (R36). -/
def OFmt.ofCode? (c : BitVec 2) : Option OFmt :=
  match c with
  | 0#2 => some .f32 | 1#2 => some .bf16 | 2#2 => some .f16 | _ => none

def OFmt.code : OFmt → BitVec 2
  | .f32 => 0 | .bf16 => 1 | .f16 => 2

/-! ## MOD layouts -/

/-- The arithmetic layout (R33): bits [47:45] zero, STYPE, IMMB, SAT, RM, TYPE. -/
def arithMod (sty : BitVec 4) (immb sat : BitVec 1) (rm : BitVec 3) (ty : BitVec 4) : BitVec 16 :=
  0#3 ++ sty ++ immb ++ sat ++ rm ++ ty

/-- The memory layout (R34): FEQ, SWZ, ORD, SCOPE, SPACE, SIZE. -/
def memMod (feq swz : BitVec 3) (ord : BitVec 2) (scope : BitVec 3) (space : BitVec 2) (size : BitVec 3) :
    BitVec 16 :=
  feq ++ swz ++ ord ++ scope ++ space ++ size

/-- The layout of `cp` (R35): SWZ, DIG, FILL, SSP, DSP. -/
def cpMod (swz : BitVec 3) (dig fill : BitVec 1) (ssp dsp : BitVec 2) : BitVec 16 :=
  0#7 ++ swz ++ dig ++ fill ++ ssp ++ dsp

/-- The Crucible layout (R36): ZS, FILL, DSAT, DRM, OFMT, QT, KS, FMT, CRU. -/
def cruMod (zs fill dsat : BitVec 1) (drm : BitVec 3) (ofmt : BitVec 2) (qt : BitVec 1) (ks : BitVec 2)
    (fmt : BitVec 3) (cru : BitVec 1) : BitVec 16 :=
  0#1 ++ zs ++ fill ++ dsat ++ drm ++ ofmt ++ qt ++ ks ++ fmt ++ cru

/-- The IMM layout of the Crucible class (R121): OFF, SLB, SLA. -/
def cruImm (off : BitVec 16) (slb sla : BitVec 8) : BitVec 32 := off ++ slb ++ sla

namespace Fields

def ty (f : Fields) : BitVec 4 := f.mod.extractLsb' 0 4
def rm (f : Fields) : BitVec 3 := f.mod.extractLsb' 4 3
def sat (f : Fields) : BitVec 1 := f.mod.extractLsb' 7 1
def immb (f : Fields) : BitVec 1 := f.mod.extractLsb' 8 1
def sty (f : Fields) : BitVec 4 := f.mod.extractLsb' 9 4

def size (f : Fields) : BitVec 3 := f.mod.extractLsb' 0 3
def space (f : Fields) : BitVec 2 := f.mod.extractLsb' 3 2
def scope (f : Fields) : BitVec 3 := f.mod.extractLsb' 5 3
def ord (f : Fields) : BitVec 2 := f.mod.extractLsb' 8 2
def swz (f : Fields) : BitVec 3 := f.mod.extractLsb' 10 3
def feq (f : Fields) : BitVec 3 := f.mod.extractLsb' 13 3

def dsp (f : Fields) : BitVec 2 := f.mod.extractLsb' 0 2
def ssp (f : Fields) : BitVec 2 := f.mod.extractLsb' 2 2
def cpFill (f : Fields) : BitVec 1 := f.mod.extractLsb' 4 1
def dig (f : Fields) : BitVec 1 := f.mod.extractLsb' 5 1
def cpSwz (f : Fields) : BitVec 3 := f.mod.extractLsb' 6 3

def cru (f : Fields) : BitVec 1 := f.mod.extractLsb' 0 1
def fmt (f : Fields) : BitVec 3 := f.mod.extractLsb' 1 3
def ks (f : Fields) : BitVec 2 := f.mod.extractLsb' 4 2
def qt (f : Fields) : BitVec 1 := f.mod.extractLsb' 6 1
def ofmt (f : Fields) : BitVec 2 := f.mod.extractLsb' 7 2
def drm (f : Fields) : BitVec 3 := f.mod.extractLsb' 9 3
def dsat (f : Fields) : BitVec 1 := f.mod.extractLsb' 12 1
def fill (f : Fields) : BitVec 1 := f.mod.extractLsb' 13 1
def zs (f : Fields) : BitVec 1 := f.mod.extractLsb' 14 1
def off (f : Fields) : BitVec 16 := f.imm.extractLsb' 16 16
def slb (f : Fields) : BitVec 8 := f.imm.extractLsb' 8 8
def sla (f : Fields) : BitVec 8 := f.imm.extractLsb' 0 8

/-- The guard (R29). -/
def guard (f : Fields) : Guard := { neg := f.gn == 1, q := f.gq }

/-- Source A with its FEB bit. -/
def a (f : Fields) : Src := { reg := f.sa, trap := f.fa == 1 }
def b (f : Fields) : Src := { reg := f.sb, trap := f.fb == 1 }
def c (f : Fields) : Src := { reg := f.sc, trap := f.fc == 1 }

/-- Source B, or IMM under IMMB (R33). -/
def srcB (f : Fields) : SrcB := if f.immb == 1 then .imm f.imm else .reg f.b

/-- A memory operand (R48). -/
def memRef (f : Fields) (sp : Space) : MemRef := { space := sp, base := f.a, off := f.imm, swz := f.swz }

end Fields

/-! ## Which fields a form uses (R32) -/

/-- The fields a form uses; every bit outside them must be zero. A used register source brings its FEB bit. -/
structure Use where
  dst : Bool := false
  sa  : Bool := false
  sb  : Bool := false
  sc  : Bool := false
  /-- SC holds a predicate: no FEB bit. -/
  scPred : Bool := false
  /-- SA holds a predicate: no FEB bit. -/
  saPred : Bool := false
  mod : BitVec 16 := 0
  imm : BitVec 32 := 0

/-- Whether some field or bit the form does not use is not zero: ILLEGAL 0x02. -/
def Use.broken (u : Use) (f : Fields) : Bool :=
  (!u.dst && f.dst != 0) || (!(u.sa || u.saPred) && f.sa != 0) || (!u.sb && f.sb != 0) ||
  (!(u.sc || u.scPred) && f.sc != 0) || (!u.sa && f.fa != 0) || (!u.sb && f.fb != 0) || (!u.sc && f.fc != 0) ||
  (f.mod &&& ~~~u.mod != 0) || (f.imm &&& ~~~u.imm != 0)

/-- A predicate field has bits [5:3] zero (R30). -/
def predOk (r : BitVec 6) : Bool := r.extractLsb' 3 3 == 0

/-- The predicate a field names. -/
def predOf (r : BitVec 6) : PredReg := r.extractLsb' 0 3

/-- What one form makes of the fields: the fields it uses, whether its predicate fields are well formed, and
the instruction, unless MIN or MOD holds an illegal value. -/
structure Shape where
  use   : Use
  preds : Bool := true
  instr : Option Instr

/-- MIN 0x000 is the only legal value of most roots. -/
def min0 (f : Fields) (i : Instr) : Option Instr := if f.min == 0 then some i else none

/-- TYPE bits of the arithmetic layout. -/
def useTy : BitVec 16 := 0x000F
def useSat : BitVec 16 := 0x0080
def useRm : BitVec 16 := 0x0070
def useImmb : BitVec 16 := 0x0100
def useSty : BitVec 16 := 0x1E00

/-- The IMM bits a form with source B uses: those of TYPE's width under IMMB (R33). -/
def useImmOf (f : Fields) (t : Ty) : BitVec 32 :=
  if f.immb == 1 then BitVec.ofNat 32 (2 ^ t.immBits - 1) else 0

/-- A form with destination, A, and B or IMM. `t` gives the width of the immediate. -/
def useAB (f : Fields) (t : Ty) (mod : BitVec 16) : Use :=
  { dst := true, sa := true, sb := f.immb != 1, mod := useTy ||| useImmb ||| mod, imm := useImmOf f t }

/-- A form with destination and A. -/
def useA (mod : BitVec 16) : Use := { dst := true, sa := true, mod := useTy ||| mod }

/-! ## The forms, class by class -/

/-- Integer roots with destination, A and B (R84, R85). -/
def shInt3 (f : Fields) (i : Instr) (sat : Bool) : Shape :=
  { use := useAB f (Ty.ofCode f.ty) (if sat then useSat else 0), instr := min0 f i }

/-- Roots with a 32-bit control or count in B (R87, R89). -/
def shShift (f : Fields) (i : Instr) : Shape :=
  { use := useAB f .b32 0, instr := min0 f i }

/-- Float roots with destination, A and B (R94). -/
def shFlt3 (f : Fields) (rounds : Bool) (i : RmField → Instr) : Shape :=
  { use := useAB f (Ty.ofCode f.ty) (if rounds then useSat ||| useRm else 0)
    instr := (RmField.ofCode? f.rm).bind fun r => min0 f (i r) }

/-- Float roots with destination and A that round (R94). -/
def shFlt2 (f : Fields) (i : RmField → Instr) : Shape :=
  { use := useA (useSat ||| useRm), instr := (RmField.ofCode? f.rm).bind fun r => min0 f (i r) }

/-- Roots with destination and A and nothing else. -/
def sh2 (f : Fields) (mod : BitVec 16) (i : Instr) : Shape := { use := useA mod, instr := min0 f i }

/-- Majors 0x01 to 0x1E: integer and address (R84 to R93). -/
def shapeInt (f : Fields) : Option Shape :=
  let g := f.guard
  let t := Ty.ofCode f.ty
  let s := f.sat == 1
  match f.maj with
  | 0x01#8 => some (shInt3 f (.iadd g t s f.dst f.a f.srcB) true)
  | 0x02#8 => some (shInt3 f (.isub g t s f.dst f.a f.srcB) true)
  | 0x03#8 => some (shInt3 f (.imul g t s f.dst f.a f.srcB) true)
  | 0x04#8 => some (shInt3 f (.imulh g t f.dst f.a f.srcB) false)
  | 0x05#8 => some { use := { useAB f t useSat with sc := true }
                     instr := min0 f (.imad g t s f.dst f.a f.srcB f.c) }
  | 0x06#8 => some (shInt3 f (.idiv g t f.dst f.a f.srcB) false)
  | 0x07#8 => some (shInt3 f (.irem g t f.dst f.a f.srcB) false)
  | 0x08#8 => some (shInt3 f (.imin g t f.dst f.a f.srcB) false)
  | 0x09#8 => some (shInt3 f (.imax g t f.dst f.a f.srcB) false)
  | 0x0A#8 => some (sh2 f useSat (.iabs g t s f.dst f.a))
  | 0x0B#8 => some (sh2 f useSat (.ineg g t s f.dst f.a))
  | 0x0C#8 => some (shInt3 f (.and g t f.dst f.a f.srcB) false)
  | 0x0D#8 => some (shInt3 f (.or g t f.dst f.a f.srcB) false)
  | 0x0E#8 => some (shInt3 f (.xor g t f.dst f.a f.srcB) false)
  | 0x0F#8 => some (sh2 f 0 (.not g t f.dst f.a))
  | 0x10#8 => some (shShift f (.shl g t f.dst f.a f.srcB))
  | 0x11#8 => some (shShift f (.shr g t f.dst f.a f.srcB))
  | 0x12#8 => some (shShift f (.sra g t f.dst f.a f.srcB))
  | 0x13#8 => some (shShift f (.rot g t f.dst f.a f.srcB))
  | 0x14#8 => some (sh2 f 0 (.popc g t f.dst f.a))
  | 0x15#8 => some (sh2 f 0 (.clz g t f.dst f.a))
  | 0x16#8 => some (sh2 f 0 (.ctz g t f.dst f.a))
  | 0x17#8 => some (sh2 f 0 (.brev g t f.dst f.a))
  | 0x18#8 => some (shShift f (.bfx g t f.dst f.a f.srcB))
  | 0x19#8 => some { use := { useAB f t 0 with sc := true }
                     instr := min0 f (.bfi g t f.dst f.a f.srcB f.c) }
  | 0x1A#8 => some { use := useAB f t 0, preds := predOk f.dst
                     instr := (ICond.ofCode? f.min).map fun cc => .icmp g cc t (predOf f.dst) f.a f.srcB }
  | 0x1B#8 => some { use := { useAB f t 0 with scPred := true }, preds := predOk f.sc
                     instr := min0 f (.sel g t f.dst f.a f.srcB (predOf f.sc)) }
  | 0x1C#8 => some (sh2 f 0 (.mov g t f.dst f.a))
  | 0x1D#8 => some { use := { dst := true, mod := useTy, imm := BitVec.allOnes 32 }
                     instr := min0 f (.movi g t f.dst f.imm) }
  | 0x1E#8 => some { use := { dst := true, sa := true, sb := true, mod := useTy, imm := BitVec.allOnes 32 }
                     instr := if f.min.extractLsb' 3 6 == 0 then
                         some (.lea g t (f.min.extractLsb' 0 3) f.dst f.a f.b f.imm) else none }
  | _ => none

/-- Majors 0x20 to 0x3A: float and conversion (R94 to R106). -/
def shapeFloat (f : Fields) : Option Shape :=
  let g := f.guard
  let t := Ty.ofCode f.ty
  let s := f.sat == 1
  match f.maj with
  | 0x20#8 => some (shFlt3 f true fun r => .fadd g t r s f.dst f.a f.srcB)
  | 0x21#8 => some (shFlt3 f true fun r => .fsub g t r s f.dst f.a f.srcB)
  | 0x22#8 => some (shFlt3 f true fun r => .fmul g t r s f.dst f.a f.srcB)
  | 0x23#8 => some { use := { useAB f t (useSat ||| useRm) with sc := true }
                     instr := (RmField.ofCode? f.rm).bind fun r => min0 f (.fma g t r s f.dst f.a f.srcB f.c) }
  | 0x24#8 => some (shInt3 f (.fmin g t f.dst f.a f.srcB) false)
  | 0x25#8 => some (shInt3 f (.fmax g t f.dst f.a f.srcB) false)
  | 0x26#8 => some (sh2 f 0 (.fabs g t f.dst f.a))
  | 0x27#8 => some (sh2 f 0 (.fneg g t f.dst f.a))
  | 0x28#8 => some { use := useAB f t 0, preds := predOk f.dst
                     instr := (FCond.ofCode? f.min).map fun cc => .fcmp g cc t (predOf f.dst) f.a f.srcB }
  | 0x29#8 => some (sh2 f 0 (.fclass g t f.dst f.a))
  | 0x2A#8 => some (shFlt2 f fun r => .fsqrt g t r s f.dst f.a)
  | 0x2B#8 => some (shFlt2 f fun r => .frcp g t r s f.dst f.a)
  | 0x2C#8 => some (shFlt3 f true fun r => .fdiv g t r s f.dst f.a f.srcB)
  | 0x2D#8 => some (shFlt2 f fun r => .frsq g t r s f.dst f.a)
  | 0x2E#8 => some (shFlt2 f fun r => .fexp2 g t r s f.dst f.a)
  | 0x2F#8 => some (shFlt2 f fun r => .flog2 g t r s f.dst f.a)
  | 0x30#8 => some (shFlt2 f fun r => .fsinpi g t r s f.dst f.a)
  | 0x31#8 => some (shFlt2 f fun r => .fcospi g t r s f.dst f.a)
  | 0x32#8 => some (shFlt3 f true fun r => .fscale g t r s f.dst f.a f.srcB)
  | 0x33#8 => some (sh2 f 0 (.fexpo g t f.dst f.a))
  | 0x34#8 => some { use := useA useRm
                     instr := (RmField.ofCode? f.rm).bind fun r =>
                       if f.min == 0 then some (.fround g t r f.dst f.a)
                       else if f.min == 1 then some (.froundExact g t r f.dst f.a) else none }
  | 0x38#8 => some { use := useA (useSat ||| useSty ||| (if t.isInt && (Ty.ofCode f.sty).isInt then 0 else useRm))
                     instr := (RmField.ofCode? f.rm).bind fun r =>
                       min0 f (.cvt g t (Ty.ofCode f.sty) r s f.dst f.a) }
  | 0x39#8 => some { use := { dst := true, sa := true, sb := true
                              mod := useTy ||| (if t == .b32 then 0 else useSat ||| useRm) }
                     instr := (RmField.ofCode? f.rm).bind fun r => min0 f (.pack g t r s f.dst f.a f.b) }
  | 0x3A#8 => some (sh2 f 0 (.unpack g t f.dst f.a))
  | _ => none

/-- Majors 0x40 to 0x47: cross-lane (R257 to R265). Under a MIN that is not listed the fields of the widest form count as
used (notes/assumptions/108.md). -/
def shapeXlane (f : Fields) : Option Shape :=
  let g := f.guard
  let t := Ty.ofCode f.ty
  match f.maj with
  | 0x40#8 => some { use := { imm := BitVec.allOnes 32 }, instr := min0 f (.setw g f.imm) }
  | 0x41#8 => some { use := useAB f .b32 0
                     instr := (ShflMode.ofCode? f.min).map fun m => .shfl g m t f.dst f.a f.srcB }
  | 0x42#8 =>
    let ballot := f.min == 3
    let reg := decide (3 ≤ f.min)
    some { use := { dst := true, saPred := true, mod := useTy, imm := if reg then 3 else 0 }
           preds := predOk f.sa && (reg || predOk f.dst)
           instr := if t != .b32 then none
             else if f.min == 0 then some (.vote g .all (predOf f.dst) (predOf f.sa))
             else if f.min == 1 then some (.vote g .any (predOf f.dst) (predOf f.sa))
             else if f.min == 2 then some (.vote g .uni (predOf f.dst) (predOf f.sa))
             else if ballot then some (.voteBallot g f.dst (predOf f.sa) (f.imm.extractLsb' 0 2))
             else none }
  | 0x43#8 =>
    let op := if f.min.extractLsb' 3 6 == 0 then RedOp.ofCode? (f.min.extractLsb' 0 3) else none
    some { use := useA (if (op.all fun o => o.rounds t) then useRm else 0)
           instr := op.bind fun o => (RmField.ofCode? f.rm).map fun r => .redux g o t r f.dst f.a }
  | 0x44#8 =>
    let op := if f.min.extractLsb' 4 5 == 0 then RedOp.ofCode? (f.min.extractLsb' 0 3) else none
    some { use := useA (if (op.all fun o => o.rounds t) then useRm else 0)
           instr := op.bind fun o => (RmField.ofCode? f.rm).map fun r =>
             .scanx g o (f.min.extractLsb' 3 1 == 1) t r f.dst f.a }
  | 0x45#8 => some { use := useA 0
                     instr := if f.min == 0 then some (.bcast g .first t f.dst f.a)
                       else if f.min == 1 then some (.bcast g .last t f.dst f.a) else none }
  | 0x46#8 => some { use := useA 0
                     instr := if f.min == 0 then some (.matchLanes g .first t f.dst f.a)
                       else if f.min == 1 then some (.matchLanes g .count t f.dst f.a) else none }
  | 0x47#8 => some { use := { dst := true, mod := useTy }
                     instr := if t != .n32 then none
                       else if f.min == 0 then some (.lanes g .pos f.dst)
                       else if f.min == 1 then some (.lanes g .count f.dst)
                       else if f.min == 2 then some (.lanes g .rank f.dst)
                       else if f.min == 3 then some (.lanes g .grant f.dst) else none }
  | _ => none

/-- The four fields every memory operand decodes through: space, size, scope. -/
def memFields? (f : Fields) : Option (Space × Size × Scope) :=
  (Space.ofCode? f.space).bind fun sp => (Size.ofCode? f.size).bind fun z =>
    (Scope.ofCode? f.scope).map fun sc => (sp, z, sc)

/-- FEQ of a load; a store's codes and 6 and 7 are illegal (R34). -/
def ldFeq? (f : Fields) : Option LdFeq :=
  match f.feq with
  | 0#3 => some .plain | 1#3 => some .wait | 2#3 => some .take | 3#3 => some (.peek (predOf f.sc)) | _ => none

/-- FEQ of a store. -/
def stFeq? (f : Fields) : Option StFeq :=
  match f.feq with
  | 0#3 => some .plain | 4#3 => some .fill | 5#3 => some .fillw | _ => none

/-- MOD bits of SCOPE, used by a relaxed `ld`, `st` or `waitaddr` only as zero (R174, R271). -/
def useScopeIf (b : Bool) : BitVec 16 := if b then 0xFFFF else 0xFF1F

/-- TYPE of an atomic from MIN[3:0], with the SIZE it fixes (R173, R174). -/
def atomTy? (f : Fields) (z : Size) : Option Ty :=
  let t := Ty.ofCode (f.min.extractLsb' 0 4)
  if z == (if t.is64 then .b64 else .b32) then some t else none

/-- Legal ORD of a release-only root: 0 or `.rel` (R174). -/
def relOf? (f : Fields) : Option Bool :=
  match f.ord with
  | 0#2 => some false | 2#2 => some true | _ => none

/-- Legal ORD of an acquire-only root: 0 or `.acq` (R174). -/
def acqOf? (f : Fields) : Option Bool :=
  match f.ord with
  | 0#2 => some false | 1#2 => some true | _ => none

/-- The roots that take only a global operand (R173): a non-zero SPACE, ORD, SCOPE or SIZE (R173, R174), and with
SPACE = 0 a non-zero FEQ or SWZ (R34), is ILLEGAL 0x03 (notes/assumptions/6.md). -/
def shGlobal (f : Fields) (dst : Bool) (i : Option Instr) : Shape :=
  { use := { dst := dst, sa := true, mod := 0xFFFF, imm := BitVec.allOnes 32 }
    preds := !dst || predOk f.dst
    instr := if f.mod == 0 then i else none }

/-- Majors 0x48 to 0x52: memory and atomics (R173, R174). -/
def shapeMem (f : Fields) : Option Shape :=
  let g := f.guard
  match f.maj with
  | 0x48#8 =>
    let peek := f.feq == 3
    some { use := { dst := true, sa := true, scPred := peek, mod := useScopeIf (f.ord != 0)
                    imm := BitVec.allOnes 32 }
           preds := !peek || predOk f.sc
           instr := (memFields? f).bind fun (sp, z, sc) => (ldFeq? f).bind fun q => (acqOf? f).bind fun acq =>
             if f.min == 0 then some (.ld g false z acq sc q f.dst (f.memRef sp))
             else if f.min == 1 then some (.ld g true z acq sc q f.dst (f.memRef sp)) else none }
  | 0x49#8 => some { use := { sa := true, sb := true, mod := useScopeIf (f.ord != 0), imm := BitVec.allOnes 32 }
                     instr := (memFields? f).bind fun (sp, z, sc) => (stFeq? f).bind fun q =>
                       (relOf? f).bind fun rel => min0 f (.st g z rel sc q (f.memRef sp) f.b) }
  | 0x4A#8 => some (shGlobal f false
                (if f.min == 0 then some (.pf g .l1 f.a f.imm) else if f.min == 1 then some (.pf g .l1w f.a f.imm)
                 else if f.min == 2 then some (.pf g .l2 f.a f.imm) else none))
  | 0x4B#8 => some { use := { mod := 0xFFFF }
                     instr := if f.space == 0 && f.size == 0 && f.feq == 0 && f.swz == 0 then
                         (Scope.ofCode? f.scope).bind fun sc => min0 f (.fence g (MemOrd.ofCode f.ord) sc)
                       else none }
  | 0x4C#8 => some { use := { mod := 0xFFFF }
                     instr := if f.space == 0 && f.size == 0 && f.ord == 0 && f.feq == 0 && f.swz == 0 then
                         (Scope.ofCode? f.scope).bind fun sc => min0 f (.ifence g sc) else none }
  | 0x4D#8 => some (shGlobal f false
                (if f.min == 0 then some (.cflushWb g f.a f.imm) else if f.min == 1 then some (.cflushInv g f.a f.imm)
                 else if f.min == 2 then some (.cflushMem g f.a f.imm) else none))
  | 0x4E#8 => some (shGlobal f true (min0 f (.lsub g (predOf f.dst) f.a f.imm)))
  | 0x4F#8 => some (shGlobal f false (min0 f (.lunsub g f.a f.imm)))
  | 0x50#8 => some { use := { dst := true, sa := true, sb := true, mod := 0xFFFF, imm := BitVec.allOnes 32 }
                     instr := if f.feq != 0 then none else
                       (memFields? f).bind fun (sp, z, sc) => (AtomOp.ofCode? (f.min.extractLsb' 4 5)).bind fun op =>
                         (atomTy? f z).map fun t => .atom g op t (MemOrd.ofCode f.ord) sc f.dst (f.memRef sp) f.b }
  | 0x51#8 => some { use := { dst := true, sa := true, sb := true, sc := true, mod := 0xFFFF
                              imm := BitVec.allOnes 32 }
                     instr := if f.feq != 0 || f.min.extractLsb' 4 5 != 0 then none else
                       (memFields? f).bind fun (sp, z, sc) => (atomTy? f z).map fun t =>
                         .cas g t (MemOrd.ofCode f.ord) sc f.dst (f.memRef sp) f.b f.c }
  | 0x52#8 => some { use := { sa := true, sb := true, mod := 0xFFFF, imm := BitVec.allOnes 32 }
                     instr := if f.feq != 0 then none else
                       (memFields? f).bind fun (sp, z, sc) => (AtomOp.ofCode? (f.min.extractLsb' 4 5)).bind fun op =>
                         (relOf? f).bind fun rel => (atomTy? f z).map fun t =>
                           .red g op t rel sc (f.memRef sp) f.b }
  | _ => none

/-- Barrier roots hold FEQ 0, ORD 0 and SIZE 3 (R271). -/
def barOf? (f : Fields) (i : Scope → MemRef → Instr) : Option Instr :=
  if f.feq == 0 && f.ord == 0 && f.size == 3 && f.min == 0 then
    (Space.ofCode? f.space).bind fun sp => (Scope.ofCode? f.scope).map fun sc => i sc (f.memRef sp)
  else none

/-- Deque roots hold every MOD field but SCOPE zero (R271). -/
def dqOf? (f : Fields) (i : Scope → Instr) : Option Instr :=
  if f.feq == 0 && f.swz == 0 && f.ord == 0 && f.size == 0 && f.space == 0 && f.min == 0 then
    (Scope.ofCode? f.scope).map i
  else none

/-- Majors 0x58 to 0x5F: synchronisation (R271). -/
def shapeSync (f : Fields) : Option Shape :=
  let g := f.guard
  let mem : Use := { sa := true, mod := 0xFFFF, imm := BitVec.allOnes 32 }
  match f.maj with
  | 0x58#8 => some { use := { mem with sb := true }, instr := barOf? f fun sc m => .barinit g sc m f.b }
  | 0x59#8 => some { use := { mem with dst := true }, instr := barOf? f fun sc m => .arrive g sc f.dst m }
  | 0x5A#8 => some { use := { mem with sb := true }, instr := barOf? f fun sc m => .barwait g sc m f.b }
  | 0x5B#8 => some { use := { mem with sb := true, sc := true }
                     instr := dqOf? f fun sc => .dqinit g sc f.a f.imm f.b f.c }
  | 0x5C#8 => some { use := { mem with dst := true, sb := true }, preds := predOk f.dst
                     instr := dqOf? f fun sc => .dqpush g sc (predOf f.dst) f.a f.imm f.b }
  | 0x5D#8 => some { use := { mem with dst := true, scPred := true }, preds := predOk f.sc
                     instr := dqOf? f fun sc => .dqpop g sc f.dst (predOf f.sc) f.a f.imm }
  | 0x5E#8 => some { use := { mem with dst := true, scPred := true }, preds := predOk f.sc
                     instr := dqOf? f fun sc => .dqsteal g sc f.dst (predOf f.sc) f.a f.imm }
  | 0x5F#8 => some { use := { mem with dst := true, sb := true, sc := true, mod := useScopeIf (f.ord != 0) }
                     instr := if f.feq == 0 && f.min == 0 then
                         (memFields? f).bind fun (sp, z, sc) => (acqOf? f).map fun acq =>
                           .waitaddr g z acq sc f.dst (f.memRef sp) f.b f.c
                       else none }
  | _ => none

/-- Majors 0x60 to 0x64: the Ladle and collectives (R35, R193, R200 to R205). -/
def shapeLadle (f : Fields) : Option Shape :=
  let g := f.guard
  match f.maj with
  | 0x60#8 => some { use := { dst := true, sa := true, sb := true, sc := true, mod := 0x01FF
                              imm := BitVec.allOnes 32 }
                     instr := (Space.ofCode? f.dsp).bind fun d => (Space.ofCode? f.ssp).bind fun s =>
                       min0 f (.cp g (f.cpFill == 1) (f.dig == 1) f.cpSwz d s f.dst f.a f.b f.c
                         (f.imm.extractLsb' 16 16) (f.imm.extractLsb' 0 16)) }
  | 0x61#8 => some { use := { dst := true, sa := true }, instr := min0 f (.cpq g f.dst f.a) }
  | 0x62#8 => some { use := { sa := true }, instr := min0 f (.cpwait g f.a) }
  | 0x63#8 => some { use := { sa := true, imm := BitVec.allOnes 32 }, instr := min0 f (.coll g f.a f.imm) }
  | 0x64#8 => some { use := { sa := true, imm := BitVec.allOnes 32 }, instr := min0 f (.collwait g f.a f.imm) }
  | _ => none

/-- Majors 0x68 to 0x72: the Crucible class (R36, R121, R122). -/
def shapeCru (f : Fields) : Option Shape :=
  let g := f.guard
  match f.maj with
  | 0x68#8 => some { use := { sa := true, mod := 0x007F, imm := 0xFFFF00FF }
                     instr := (Fmt.ofCode? f.fmt).bind fun m => (KStep.ofCode? f.ks).bind fun k =>
                       min0 f (.mload g m k (f.qt == 1) f.cru f.a f.off f.sla) }
  | 0x69#8 => some { use := { mod := 0x0001 }, instr := min0 f (.mflip g f.cru) }
  | 0x6A#8 => some { use := { mod := 0x000F, imm := 0x000000FF }
                     instr := (Fmt.ofCode? f.fmt).bind fun m => min0 f (.mbegin g m f.cru f.sla) }
  | 0x6B#8 => some { use := { sa := true, mod := 0x007F, imm := 0xFFFF00FF }
                     instr := (Fmt.ofCode? f.fmt).bind fun m => (KStep.ofCode? f.ks).bind fun k =>
                       min0 f (.mstream g m k (f.qt == 1) f.cru f.a f.off f.sla) }
  | 0x6C#8 => some { use := { mod := 0x0001 }, instr := min0 f (.mend g f.cru) }
  | 0x6D#8 => some { use := { imm := 0x000000FF }, instr := min0 f (.mzero g f.sla) }
  | 0x6E#8 => some { use := { sa := true, imm := 0xFFFF00FF }, instr := min0 f (.minit g f.a f.off f.sla) }
  | 0x6F#8 => some { use := { sa := true, mod := 0x3F80, imm := 0xFFFF00FF }
                     instr := (OFmt.ofCode? f.ofmt).bind fun o => (RmField.ofCode? f.drm).bind fun r =>
                       min0 f (.mdrain g o r (f.dsat == 1) (f.fill == 1) f.a f.off f.sla) }
  | 0x70#8 => some { use := { sa := true, sb := true, mod := 0x4000, imm := 0xFFFFFFFF }
                     instr := min0 f (.mscale g (f.zs == 1) f.a f.b f.off f.slb f.sla) }
  | 0x71#8 => some { use := { dst := true, imm := 0x000000FF }, instr := min0 f (.mstat g f.dst f.sla) }
  | 0x72#8 => some { use := { sa := true, sb := true, mod := 0x203E, imm := 0xFFFF0000 }
                     instr := (Fmt.ofCode? f.fmt).bind fun m => (KStep.ofCode? f.ks).bind fun k =>
                       min0 f (.qtile g m k (f.fill == 1) f.a f.b f.off) }
  | _ => none

/-- Majors 0x74 to 0x86: allowance, control and trap-raising (R37, R249, R282, R343, R347). Under a MIN that is not listed
the fields of the widest form count as used (notes/assumptions/108.md). -/
def shapeCtl (f : Fields) : Option Shape :=
  let g := f.guard
  let full : BitVec 32 := BitVec.allOnes 32
  let creg : BitVec 12 := f.imm.extractLsb' 0 12
  match f.maj with
  | 0x74#8 => some { use := { dst := true, sa := true, mod := 1 }
                     instr := min0 f (.alw g (f.cru == 1) f.dst f.a) }
  | 0x75#8 => some { use := { dst := true, sa := true, mod := 1, imm := 0x00FFFFFF }, preds := predOk f.dst
                     instr := min0 f (.alwq g (f.cru == 1) (predOf f.dst) f.a (f.imm.extractLsb' 0 24)) }
  | 0x76#8 => some { use := { sa := true, mod := 1, imm := 0x00FFFFFF }
                     instr := min0 f (.alwwait g (f.cru == 1) f.a (f.imm.extractLsb' 0 24)) }
  | 0x78#8 => some { use := { imm := full }, instr := min0 f (.bra g f.imm) }
  | 0x79#8 => some { use := { sa := true }, instr := min0 f (.brx g f.a) }
  | 0x7A#8 => some { use := if f.min == 0 then { imm := full } else if f.min == 1 then { sa := true }
                            else { sa := true, imm := full }
                     instr := if f.min == 0 then some (.call g f.imm) else if f.min == 1 then some (.callR g f.a)
                              else none }
  | 0x7B#8 => some { use := {}, instr := min0 f (.ret g) }
  | 0x7C#8 => some { use := if f.min == 0 || f.min == 1 then {} else { sa := true, imm := 0x000003FF }
                     instr := if f.min == 0 then some (.joinSeg g) else if f.min == 1 then some (.joinTask g)
                              else if f.min == 2 then some (.joinM g f.a (f.imm.extractLsb' 0 10)) else none }
  | 0x7D#8 => some { use := {}, instr := min0 f (.exit g) }
  | 0x7E#8 => some { use := {}, instr := min0 f (.yield g) }
  | 0x7F#8 => some { use := { sa := true, imm := full }, instr := min0 f (.launch g f.a f.imm) }
  | 0x80#8 => some { use := { dst := true, imm := 0x00000FFF }, instr := min0 f (.ctlrd g f.dst creg) }
  | 0x81#8 => some { use := if f.min == 0 then { sa := true, imm := 0x00000FFF }
                            else if f.min == 1 then { imm := full } else { sa := true, imm := full }
                     instr := if f.min == 0 then some (.ctlwr g creg f.a)
                              else if f.min == 1 then some (.ctlwrImm g creg (f.imm.extractLsb' 12 20)) else none }
  | 0x84#8 => some { use := { imm := 0x0000FFFF }, instr := min0 f (.sys g (f.imm.extractLsb' 0 16)) }
  | 0x85#8 => some { use := { imm := 0x000000FF }, instr := min0 f (.brk g (f.imm.extractLsb' 0 8)) }
  | 0x86#8 => some { use := if f.min == 1 then {} else { sa := true, imm := 0x000000FF }
                     instr := if f.min == 0 then some (.trap g (f.imm.extractLsb' 0 8) f.a)
                              else if f.min == 1 then some (.trapSret g) else none }
  | _ => none

/-- Majors 0x88 to 0x94: privileged (R315). -/
def shapePriv (f : Fields) : Option Shape :=
  let g := f.guard
  match f.maj with
  | 0x88#8 => some { use := {}, instr := min0 f (.rfe g) }
  | 0x89#8 =>
    let k := f.mod.extractLsb' 0 2
    some { use := { sa := k == 2 || k == 3, sb := k == 1 || k == 2, mod := 3 }
           instr := min0 f (.tlbinv g (if k == 0 then .all else if k == 1 then .asid f.b
             else if k == 2 then .asidva f.a f.b else .va f.a)) }
  | 0x8A#8 => some { use := { dst := true, sa := true, sb := true }, instr := min0 f (.ctxsave g f.dst f.a f.b) }
  | 0x8B#8 => some { use := { dst := true, sa := true }, instr := min0 f (.ctxload g f.dst f.a) }
  | 0x8C#8 => some { use := { dst := true, sa := true }, instr := min0 f (.kload g f.dst f.a) }
  | 0x8D#8 => some { use := { dst := true, sa := true }, instr := min0 f (.kclr g f.dst f.a) }
  | 0x8E#8 => some { use := { dst := true, sa := true }, instr := min0 f (.riserpop g f.dst f.a) }
  | 0x8F#8 => some { use := if f.min == 0 || f.min == 1 then { dst := true, sa := true }
                            else if f.min == 2 then { dst := true, sa := true, sb := true }
                            else { dst := true, sa := true, sb := true, imm := 0x0000003F }
                     instr := if f.min == 0 then some (.resumeRetry g f.dst f.a)
                              else if f.min == 1 then some (.resumeSkip g f.dst f.a)
                              else if f.min == 2 then some (.resumeSys g f.dst f.a f.b)
                              else if f.min == 3 then some (.resumeSetv g f.dst f.a f.b (f.imm.extractLsb' 0 6))
                              else none }
  | 0x90#8 => some { use := { dst := true, sa := true, sb := true }, instr := min0 f (.sigpost g f.dst f.a f.b) }
  | 0x91#8 => some { use := { dst := true, sa := true }, instr := min0 f (.planset g f.dst f.a) }
  | 0x92#8 => some { use := { dst := true }, instr := min0 f (.plancommit g f.dst) }
  | 0x93#8 => some { use := { dst := true, sa := true, mod := 1 }
                     instr := min0 f (if f.cru == 1 then .biassetTohost g f.dst f.a else .biassetTodev g f.dst f.a) }
  | 0x94#8 => some { use := {}, instr := min0 f (.halt g) }
  | _ => none

/-- The form of a word, by its major opcode (R38); none for a major that is not allocated (R39). -/
def shape (f : Fields) : Option Shape :=
  if f.maj < 0x20 then shapeInt f
  else if f.maj < 0x40 then shapeFloat f
  else if f.maj < 0x48 then shapeXlane f
  else if f.maj < 0x58 then shapeMem f
  else if f.maj < 0x60 then shapeSync f
  else if f.maj < 0x68 then shapeLadle f
  else if f.maj < 0x74 then shapeCru f
  else if f.maj < 0x88 then shapeCtl f
  else shapePriv f

/-! ## The decoder -/

/-- The answer of the decoder: an instruction, or the sub-kind of ILLEGAL. -/
inductive Decoded where
  | ok (i : Instr)
  | illegal (sub : Byte)
  deriving DecidableEq, Repr

/-- A shape's instruction if it passes step 5 of R42: the lowest sub-kind of the rules it breaks. -/
def Shape.check (sh : Shape) (f : Fields) : Decoded :=
  if sh.use.broken f then .illegal 0x02
  else match sh.instr with
    | none => .illegal 0x03
    | some i => if !i.legal then .illegal 0x03 else if !(sh.preds && i.regsOk) then .illegal 0x04 else .ok i

/-- The decoder on fields. -/
def decodeFields (f : Fields) : Decoded :=
  if f.maj == 0 then .illegal 0x05
  else match shape f with
    | none => .illegal 0x01
    | some sh => sh.check f

/-- The decoder. MAJ 0x00 is `nop` only when all 96 bits are zero (R32). -/
def decode (w : InstrWord) : Decoded :=
  if w == 0 then .ok .nop else decodeFields (Fields.ofWord w)

/-! ## What the encoding alone decides before the field checks (R42 steps 2 to 4) -/

/-- Step 2: an unallocated major or a malformed `nop`. -/
def step2 (w : InstrWord) : Option Byte :=
  let f := Fields.ofWord w
  if f.maj == 0 then if w == 0 then none else some 0x05
  else match shape f with
    | none => some 0x01
    | some _ => none

/-- Step 3: a privileged major, or a control register at 0x800 or above (R39, R255). -/
def privileged (w : InstrWord) : Bool :=
  let f := Fields.ofWord w
  (0x88 ≤ f.maj && f.maj ≤ 0x94) ||
    ((f.maj == 0x80 || f.maj == 0x81) && 0x800 ≤ f.imm.extractLsb' 0 12)

/-- Step 4, the Crucible roots that name Crucible 1 (R13). -/
def namesCrucible1 (w : InstrWord) : Bool :=
  let f := Fields.ofWord w
  (f.maj == 0x68 || f.maj == 0x69 || f.maj == 0x6A || f.maj == 0x6B || f.maj == 0x6C) && f.cru == 1

/-- Step 4, the roots that need the fabric (R13). -/
def needsFabric (w : InstrWord) : Bool :=
  let f := Fields.ofWord w
  f.maj == 0x74 || f.maj == 0x75 || f.maj == 0x76 || f.maj == 0x91 || f.maj == 0x92

/-! ## The encoder -/

def bit1 (b : Bool) : BitVec 1 := if b then 1 else 0

/-- Empty fields under a guard. -/
def Guard.fields (g : Guard) (maj : BitVec 8) : Fields :=
  { maj, gn := bit1 g.neg, gq := g.q, dst := 0, sa := 0, sb := 0, sc := 0, fa := 0, fb := 0, fc := 0
    min := 0, mod := 0, imm := 0 }

namespace Fields

def withA (f : Fields) (s : Src) : Fields := { f with sa := s.reg, fa := bit1 s.trap }
def withB (f : Fields) (s : Src) : Fields := { f with sb := s.reg, fb := bit1 s.trap }
def withC (f : Fields) (s : Src) : Fields := { f with sc := s.reg, fc := bit1 s.trap }
def withD (f : Fields) (d : Reg) : Fields := { f with dst := d }
def withQ (f : Fields) (q : PredReg) : Fields := { f with dst := 0#3 ++ q }
def withMin (f : Fields) (m : BitVec 9) : Fields := { f with min := m }
def withMod (f : Fields) (m : BitVec 16) : Fields := { f with mod := m }
def withImm (f : Fields) (x : BitVec 32) : Fields := { f with imm := x }

end Fields

/-- IMMB of a source B. -/
def SrcB.immb : SrcB → BitVec 1
  | .reg _ => 0
  | .imm _ => 1

/-- SB and FEB, or IMM. -/
def Fields.withSrcB (f : Fields) : SrcB → Fields
  | .reg s => f.withB s
  | .imm x => f.withImm x

/-- An arithmetic form with destination, A and B. -/
def encAB (g : Guard) (maj : BitVec 8) (ty : Ty) (rm : RmField) (sat : Bool) (d : Reg) (a : Src) (b : SrcB) :
    Fields :=
  (((g.fields maj).withD d).withA a |>.withMod (arithMod 0 b.immb (bit1 sat) rm.code ty.code)).withSrcB b

/-- An arithmetic form with destination and A. -/
def encA (g : Guard) (maj : BitVec 8) (ty : Ty) (rm : RmField) (sat : Bool) (d : Reg) (a : Src) : Fields :=
  ((g.fields maj).withD d).withA a |>.withMod (arithMod 0 0 (bit1 sat) rm.code ty.code)

/-- A form with a memory operand. -/
def encMem (g : Guard) (maj : BitVec 8) (feq : BitVec 3) (ord : MemOrd) (sc : Scope) (z : Size) (m : MemRef) :
    Fields :=
  ((g.fields maj).withA m.base |>.withImm m.off).withMod
    (memMod feq m.swz ord.code sc.code m.space.code z.code)

/-- A form with a global operand and no MOD field but SCOPE. -/
def encGlobal (g : Guard) (maj : BitVec 8) (sc : Scope) (base : Src) (off : Word) : Fields :=
  ((g.fields maj).withA base |>.withImm off).withMod (memMod 0 0 0 sc.code 0 0)

/-- SIZE of an atomic from its type (R173). -/
def Ty.atomSize (t : Ty) : Size := if t.is64 then .b64 else .b32

def acqOrd (b : Bool) : MemOrd := if b then .acq else .relaxed
def relOrd (b : Bool) : MemOrd := if b then .rel else .relaxed

/-- FEQ of a load. -/
def LdFeq.code : LdFeq → BitVec 3
  | .plain => 0 | .wait => 1 | .take => 2 | .peek _ => 3

/-- SC of a load: the predicate of `.peek`. -/
def LdFeq.sc : LdFeq → BitVec 6
  | .peek q => 0#3 ++ q
  | _ => 0

/-- FEQ of a store. -/
def StFeq.code : StFeq → BitVec 3
  | .plain => 0 | .fill => 4 | .fillw => 5

/-- The fields of the integer and address roots. -/
def encInt : Instr → Option Fields
  | .iadd g t s d a b => some (encAB g 0x01 t .dyn s d a b)
  | .isub g t s d a b => some (encAB g 0x02 t .dyn s d a b)
  | .imul g t s d a b => some (encAB g 0x03 t .dyn s d a b)
  | .imulh g t d a b => some (encAB g 0x04 t .dyn false d a b)
  | .imad g t s d a b c => some ((encAB g 0x05 t .dyn s d a b).withC c)
  | .idiv g t d a b => some (encAB g 0x06 t .dyn false d a b)
  | .irem g t d a b => some (encAB g 0x07 t .dyn false d a b)
  | .imin g t d a b => some (encAB g 0x08 t .dyn false d a b)
  | .imax g t d a b => some (encAB g 0x09 t .dyn false d a b)
  | .iabs g t s d a => some (encA g 0x0A t .dyn s d a)
  | .ineg g t s d a => some (encA g 0x0B t .dyn s d a)
  | .and g t d a b => some (encAB g 0x0C t .dyn false d a b)
  | .or g t d a b => some (encAB g 0x0D t .dyn false d a b)
  | .xor g t d a b => some (encAB g 0x0E t .dyn false d a b)
  | .not g t d a => some (encA g 0x0F t .dyn false d a)
  | .shl g t d a b => some (encAB g 0x10 t .dyn false d a b)
  | .shr g t d a b => some (encAB g 0x11 t .dyn false d a b)
  | .sra g t d a b => some (encAB g 0x12 t .dyn false d a b)
  | .rot g t d a b => some (encAB g 0x13 t .dyn false d a b)
  | .popc g t d a => some (encA g 0x14 t .dyn false d a)
  | .clz g t d a => some (encA g 0x15 t .dyn false d a)
  | .ctz g t d a => some (encA g 0x16 t .dyn false d a)
  | .brev g t d a => some (encA g 0x17 t .dyn false d a)
  | .bfx g t d a b => some (encAB g 0x18 t .dyn false d a b)
  | .bfi g t d a b c => some ((encAB g 0x19 t .dyn false d a b).withC c)
  | .icmp g cc t q a b => some (((encAB g 0x1A t .dyn false 0 a b).withQ q).withMin cc.code)
  | .sel g t d a b q => some { encAB g 0x1B t .dyn false d a b with sc := 0#3 ++ q }
  | .mov g t d a => some (encA g 0x1C t .dyn false d a)
  | .movi g t d x => some (((g.fields 0x1D).withD d |>.withMod (arithMod 0 0 0 0 t.code)).withImm x)
  | .lea g t k d a b off => some ((((encA g 0x1E t .dyn false d a).withB b).withMin (0#6 ++ k)).withImm off)
  | _ => none

/-- The fields of the float and conversion roots. -/
def encFloat : Instr → Option Fields
  | .fadd g t r s d a b => some (encAB g 0x20 t r s d a b)
  | .fsub g t r s d a b => some (encAB g 0x21 t r s d a b)
  | .fmul g t r s d a b => some (encAB g 0x22 t r s d a b)
  | .fma g t r s d a b c => some ((encAB g 0x23 t r s d a b).withC c)
  | .fmin g t d a b => some (encAB g 0x24 t .dyn false d a b)
  | .fmax g t d a b => some (encAB g 0x25 t .dyn false d a b)
  | .fabs g t d a => some (encA g 0x26 t .dyn false d a)
  | .fneg g t d a => some (encA g 0x27 t .dyn false d a)
  | .fcmp g cc t q a b => some (((encAB g 0x28 t .dyn false 0 a b).withQ q).withMin cc.code)
  | .fclass g t d a => some (encA g 0x29 t .dyn false d a)
  | .fsqrt g t r s d a => some (encA g 0x2A t r s d a)
  | .frcp g t r s d a => some (encA g 0x2B t r s d a)
  | .fdiv g t r s d a b => some (encAB g 0x2C t r s d a b)
  | .frsq g t r s d a => some (encA g 0x2D t r s d a)
  | .fexp2 g t r s d a => some (encA g 0x2E t r s d a)
  | .flog2 g t r s d a => some (encA g 0x2F t r s d a)
  | .fsinpi g t r s d a => some (encA g 0x30 t r s d a)
  | .fcospi g t r s d a => some (encA g 0x31 t r s d a)
  | .fscale g t r s d a b => some (encAB g 0x32 t r s d a b)
  | .fexpo g t d a => some (encA g 0x33 t .dyn false d a)
  | .fround g t r d a => some (encA g 0x34 t r false d a)
  | .froundExact g t r d a => some ((encA g 0x34 t r false d a).withMin 1)
  | .cvt g t sty r s d a =>
    some (((g.fields 0x38).withD d).withA a |>.withMod (arithMod sty.code 0 (bit1 s) r.code t.code))
  | .pack g t r s d a b => some ((encA g 0x39 t r s d a).withB b)
  | .unpack g t d a => some (encA g 0x3A t .dyn false d a)
  | _ => none

/-- The fields of the cross-lane roots. -/
def encXlane : Instr → Option Fields
  | .setw g w => some ((g.fields 0x40).withImm w)
  | .shfl g m t d a b => some ((encAB g 0x41 t .dyn false d a b).withMin m.code)
  | .vote g m q qa =>
    some { (((g.fields 0x42).withQ q).withMin m.code).withMod (arithMod 0 0 0 0 Ty.b32.code) with sa := 0#3 ++ qa }
  | .voteBallot g d qa w =>
    some { ((((g.fields 0x42).withD d).withMin 3).withMod (arithMod 0 0 0 0 Ty.b32.code)).withImm (0#30 ++ w)
           with sa := 0#3 ++ qa }
  | .redux g op t r d a => some ((encA g 0x43 t r false d a).withMin (0#6 ++ op.code))
  | .scanx g op ex t r d a => some ((encA g 0x44 t r false d a).withMin (0#5 ++ bit1 ex ++ op.code))
  | .bcast g m t d a => some ((encA g 0x45 t .dyn false d a).withMin m.code)
  | .matchLanes g m t d a => some ((encA g 0x46 t .dyn false d a).withMin m.code)
  | .lanes g m d => some (((g.fields 0x47).withD d |>.withMod (arithMod 0 0 0 0 Ty.n32.code)).withMin m.code)
  | _ => none

/-- The fields of the memory and atomic roots. -/
def encMemory : Instr → Option Fields
  | .ld g sx z acq sc q d m =>
    some { ((encMem g 0x48 q.code (acqOrd acq) sc z m).withD d).withMin (if sx then 1 else 0) with sc := q.sc }
  | .st g z rel sc q m b => some ((encMem g 0x49 q.code (relOrd rel) sc z m).withB b)
  | .pf g l b off => some ((encGlobal g 0x4A .thr b off).withMin l.code)
  | .fence g ord sc => some ((g.fields 0x4B).withMod (memMod 0 0 ord.code sc.code 0 0))
  | .ifence g sc => some ((g.fields 0x4C).withMod (memMod 0 0 0 sc.code 0 0))
  | .cflushWb g b off => some (encGlobal g 0x4D .thr b off)
  | .cflushInv g b off => some ((encGlobal g 0x4D .thr b off).withMin 1)
  | .cflushMem g b off => some ((encGlobal g 0x4D .thr b off).withMin 2)
  | .lsub g q b off => some ((encGlobal g 0x4E .thr b off).withQ q)
  | .lunsub g b off => some (encGlobal g 0x4F .thr b off)
  | .atom g op t ord sc d m b =>
    some ((((encMem g 0x50 0 ord sc t.atomSize m).withD d).withB b).withMin (op.code ++ t.code))
  | .cas g t ord sc d m b c =>
    some (((((encMem g 0x51 0 ord sc t.atomSize m).withD d).withB b).withC c).withMin (0#5 ++ t.code))
  | .red g op t rel sc m b =>
    some (((encMem g 0x52 0 (relOrd rel) sc t.atomSize m).withB b).withMin (op.code ++ t.code))
  | _ => none

/-- The fields of the synchronisation, Ladle and collective roots. -/
def encSync : Instr → Option Fields
  | .barinit g sc m b => some ((encMem g 0x58 0 .relaxed sc .b64 m).withB b)
  | .arrive g sc d m => some ((encMem g 0x59 0 .relaxed sc .b64 m).withD d)
  | .barwait g sc m b => some ((encMem g 0x5A 0 .relaxed sc .b64 m).withB b)
  | .dqinit g sc base off b c => some (((encGlobal g 0x5B sc base off).withB b).withC c)
  | .dqpush g sc q base off b => some (((encGlobal g 0x5C sc base off).withB b).withQ q)
  | .dqpop g sc d q base off => some { (encGlobal g 0x5D sc base off).withD d with sc := 0#3 ++ q }
  | .dqsteal g sc d q base off => some { (encGlobal g 0x5E sc base off).withD d with sc := 0#3 ++ q }
  | .waitaddr g z acq sc d m b c => some ((((encMem g 0x5F 0 (acqOrd acq) sc z m).withD d).withB b).withC c)
  | .cp g fill dig swz dsp ssp d a b c doff soff =>
    some ((((((g.fields 0x60).withD d).withA a).withB b).withC c |>.withMod
      (cpMod swz (bit1 dig) (bit1 fill) ssp.code dsp.code)).withImm (doff ++ soff))
  | .cpq g d a => some (((g.fields 0x61).withD d).withA a)
  | .cpwait g a => some ((g.fields 0x62).withA a)
  | .coll g b off => some (((g.fields 0x63).withA b).withImm off)
  | .collwait g b off => some (((g.fields 0x64).withA b).withImm off)
  | _ => none

/-- The fields of the Crucible roots. -/
def encCru : Instr → Option Fields
  | .mload g m k qt cru a off pr =>
    some ((((g.fields 0x68).withA a).withMod (cruMod 0 0 0 0 0 (bit1 qt) k.code m.code cru)).withImm (cruImm off 0 pr))
  | .mflip g cru => some ((g.fields 0x69).withMod (cruMod 0 0 0 0 0 0 0 0 cru))
  | .mbegin g m cru sla => some (((g.fields 0x6A).withMod (cruMod 0 0 0 0 0 0 0 m.code cru)).withImm (cruImm 0 0 sla))
  | .mstream g m k qt cru a off pr =>
    some ((((g.fields 0x6B).withA a).withMod (cruMod 0 0 0 0 0 (bit1 qt) k.code m.code cru)).withImm (cruImm off 0 pr))
  | .mend g cru => some ((g.fields 0x6C).withMod (cruMod 0 0 0 0 0 0 0 0 cru))
  | .mzero g sla => some ((g.fields 0x6D).withImm (cruImm 0 0 sla))
  | .minit g a off sla => some (((g.fields 0x6E).withA a).withImm (cruImm off 0 sla))
  | .mdrain g o r dsat fill a off sla =>
    some ((((g.fields 0x6F).withA a).withMod (cruMod 0 (bit1 fill) (bit1 dsat) r.code o.code 0 0 0 0)).withImm
      (cruImm off 0 sla))
  | .mscale g zs a b off slb sla =>
    some (((((g.fields 0x70).withA a).withB b).withMod (cruMod (bit1 zs) 0 0 0 0 0 0 0 0)).withImm
      (cruImm off slb sla))
  | .mstat g d sla => some (((g.fields 0x71).withD d).withImm (cruImm 0 0 sla))
  | .qtile g m k fill a b off =>
    some (((((g.fields 0x72).withA a).withB b).withMod (cruMod 0 (bit1 fill) 0 0 0 0 k.code m.code 0)).withImm
      (cruImm off 0 0))
  | _ => none

/-- The MOD word with one low flag: CLS of the allowance roots, DIR of `biasset` (R37). -/
def flagMod (b : Bool) : BitVec 16 := 0#15 ++ bit1 b

/-- The fields of the allowance, control and trap-raising roots. -/
def encCtl : Instr → Option Fields
  | .alw g rsp d a => some ((((g.fields 0x74).withD d).withA a).withMod (flagMod rsp))
  | .alwq g rsp q a n => some (((((g.fields 0x75).withQ q).withA a).withMod (flagMod rsp)).withImm (0#8 ++ n))
  | .alwwait g rsp a n => some ((((g.fields 0x76).withA a).withMod (flagMod rsp)).withImm (0#8 ++ n))
  | .bra g imm => some ((g.fields 0x78).withImm imm)
  | .brx g a => some ((g.fields 0x79).withA a)
  | .call g imm => some ((g.fields 0x7A).withImm imm)
  | .callR g a => some (((g.fields 0x7A).withA a).withMin 1)
  | .ret g => some (g.fields 0x7B)
  | .joinSeg g => some (g.fields 0x7C)
  | .joinTask g => some ((g.fields 0x7C).withMin 1)
  | .joinM g a base => some ((((g.fields 0x7C).withA a).withMin 2).withImm (0#22 ++ base))
  | .exit g => some (g.fields 0x7D)
  | .yield g => some (g.fields 0x7E)
  | .launch g b off => some (((g.fields 0x7F).withA b).withImm off)
  | .ctlrd g d n => some (((g.fields 0x80).withD d).withImm (0#20 ++ n))
  | .ctlwr g n a => some (((g.fields 0x81).withA a).withImm (0#20 ++ n))
  | .ctlwrImm g n x => some (((g.fields 0x81).withMin 1).withImm (x ++ n))
  | .sys g n => some ((g.fields 0x84).withImm (0#16 ++ n))
  | .brk g n => some ((g.fields 0x85).withImm (0#24 ++ n))
  | .trap g n a => some (((g.fields 0x86).withA a).withImm (0#24 ++ n))
  | .trapSret g => some ((g.fields 0x86).withMin 1)
  | _ => none

/-- TLBK of `tlbinv` (R37). -/
def TlbSel.code : TlbSel → BitVec 16
  | .all => 0 | .asid _ => 1 | .asidva _ _ => 2 | .va _ => 3

/-- The register fields of `tlbinv` (R315). -/
def Fields.withTlb (f : Fields) : TlbSel → Fields
  | .all => f
  | .asid b => f.withB b
  | .asidva a b => (f.withA a).withB b
  | .va a => f.withA a

/-- The fields of the privileged roots. -/
def encPriv : Instr → Option Fields
  | .rfe g => some (g.fields 0x88)
  | .tlbinv g k => some (((g.fields 0x89).withMod k.code).withTlb k)
  | .ctxsave g d a b => some ((((g.fields 0x8A).withD d).withA a).withB b)
  | .ctxload g d a => some (((g.fields 0x8B).withD d).withA a)
  | .kload g d a => some (((g.fields 0x8C).withD d).withA a)
  | .kclr g d a => some (((g.fields 0x8D).withD d).withA a)
  | .riserpop g d a => some (((g.fields 0x8E).withD d).withA a)
  | .resumeRetry g d a => some (((g.fields 0x8F).withD d).withA a)
  | .resumeSkip g d a => some ((((g.fields 0x8F).withD d).withA a).withMin 1)
  | .resumeSys g d a b => some (((((g.fields 0x8F).withD d).withA a).withB b).withMin 2)
  | .resumeSetv g d a b n => some ((((((g.fields 0x8F).withD d).withA a).withB b).withMin 3).withImm (0#26 ++ n))
  | .sigpost g d a b => some ((((g.fields 0x90).withD d).withA a).withB b)
  | .planset g d a => some (((g.fields 0x91).withD d).withA a)
  | .plancommit g d => some ((g.fields 0x92).withD d)
  | .biassetTodev g d a => some ((((g.fields 0x93).withD d).withA a).withMod (flagMod false))
  | .biassetTohost g d a => some ((((g.fields 0x93).withD d).withA a).withMod (flagMod true))
  | .halt g => some (g.fields 0x94)
  | _ => none

/-- The fields of an instruction; none for an event. `nop` is the word of zeros. -/
def encodeFields (i : Instr) : Option Fields :=
  match i with
  | .nop => some ({ neg := false, q := 0 : Guard }.fields 0)
  | i => encInt i <|> encFloat i <|> encXlane i <|> encMemory i <|> encSync i <|> encCru i <|> encCtl i <|> encPriv i

/-- The encoder: the word of an instruction (R28). -/
def encode (i : Instr) : Option InstrWord := (encodeFields i).map Fields.pack

/-! ## Words by number -/

/-- The instruction a word of the opcode table decodes to: its bits as spec/opcode_table.json numbers them, the
table's words being 96-bit instruction words. None for a word the decoder refuses. -/
def decodeTableWord (nbits w : Nat) : Option Instr :=
  match decode (BitVec.ofNat 96 (w % 2 ^ nbits)) with
  | .ok i => some i
  | .illegal _ => none

end Sys2Proof
end

