-- ==== Sys2Proof/Machine/CrossLane.lean ====
section
/-!
DEFINITION. Cross-lane instructions and joins: arrival, results, completion (spec/14_progress_isa.md R251, R257 to R265;
spec/12_threads_groups.md R224 to R227).
-/

namespace Sys2Proof.Machine

namespace State

/-! ## Groups and segments (R216, R225, R384) -/

/-- The threads of a task, or those of the Caster group, by TIDX. -/
def groupThreads (s : State) (core place : Nat) : List Thread :=
  if place = casterPlace then ((s.core? core).map fun c => c.casters.map Caster.thr).getD []
  else ((s.task? core place).map Task.threads).getD []

/-- The grant of a group; the Caster group's is 8. -/
def groupGrant (s : State) (core place : Nat) : Nat :=
  if place = casterPlace then 8 else ((s.task? core place).map Task.grant).getD 8

/-- The segment width S (R225). -/
def segWidth (s : State) (core place : Nat) : Nat :=
  if place = casterPlace then 8
  else ((s.task? core place).map fun t => if t.segw = 0 then t.grant else t.segw).getD 8

/-- The members of a set of TIDX that have not exited. -/
def liveMembers (s : State) (core place : Nat) (p : Nat → Bool) : List Nat :=
  ((s.groupThreads core place).zipIdx.filter fun (t, n) => !t.exited && p n).map Prod.snd

/-! ## Joins (R224, R251) -/

/-- Whether a set of a join names a TIDX. -/
def joinHas (set : JoinSet) (n : Nat) : Bool :=
  match set with
  | .seg base width => base ≤ n && n < base + width
  | .task => true
  | .mask base m => base ≤ n && n < base + 32 && m.getLsbD (n - base)

/-- The threads that wait at a join at a PC, with their sets. -/
def waitingAt (s : State) (core place : Nat) (pc : DWord) : List (Nat × JoinSet) :=
  (s.groupThreads core place).zipIdx.filterMap fun (t, n) =>
    match t.state with
    | .join set => if t.pc = pc then some (n, set) else none
    | _ => none

/-- One round of the search for the largest released set: threads whose set is not within it go. -/
def shrinkJoin (s : State) (core place : Nat) (w : List (Nat × JoinSet)) : Nat → List (Nat × JoinSet)
  | 0 => w
  | n + 1 =>
    let w' := w.filter fun x => (s.liveMembers core place (joinHas x.2)).all fun m => (w.map Prod.fst).contains m
    if w'.length = w.length then w else s.shrinkJoin core place w' n

/-- The threads released from a join at a PC (R251). -/
def joinReleased (s : State) (core place : Nat) (pc : DWord) : List Nat :=
  let w := s.waitingAt core place pc
  (s.shrinkJoin core place w w.length).map Prod.fst

/-! ## Arrival (R226, R257) -/

/-- An arrival put into the instance at the thread's PC and segment. -/
def arriveX (s : State) (r : ThreadRef) (pc : DWord) (a : Arrival) : State :=
  let place := (keyOf r.who).1
  let width := s.segWidth r.core place
  let base := a.tidx / width * width
  let here (i : Instance) : Bool := i.pc == pc && i.base == base
  let s := s.modInsts r.core place fun l =>
    if l.any here then l.map fun i => if here i then { i with arrivals := i.arrivals ++ [a] } else i
    else l ++ [{ pc, base, width, arrivals := [a] }]
  s.modThread r fun t => { t with state := .xlane, wait := 0 }

end State

/-! ## Results (R259 to R265) -/

/-- What a participant receives: a value with its marks, a predicate, or an exact value still to be rounded with the
flags of its terms. -/
inductive XResult where
  | value (x : Nat) (pois : BitVec 4)
  | pred (b : Bool)
  | exact (v : XVal) (fl : Flags)
  deriving DecidableEq, Repr

/-- The width whose bits `match`, `shfl` and `bcast` handle. -/
def maskTy (ty : Ty) (x : DWord) : Nat := if ty.is64 then x.toNat else x.toNat % 2 ^ 32

/-- Integer and bitwise reduction of terms (R261, R262), as a register value. -/
def reduceInt (op : RedOp) (ty : Ty) (xs : List Nat) : Nat :=
  let vs := xs.map (readInt ty)
  match op with
  | .add => placeInt ty (vs.foldl (· + ·) 0)
  | .min => placeInt ty (vs.foldl min (maxI ty))
  | .max => placeInt ty (vs.foldl max (minI ty))
  | .and => xs.foldl (· &&& ·) (2 ^ ty.width - 1)
  | .or => xs.foldl (· ||| ·) 0
  | .xor => xs.foldl (· ^^^ ·) 0

/-- Float minimum or maximum over terms: one term's encoding, the identity for none. -/
def reduceMinMax (f : Format) (isMax : Bool) (xs : List Nat) : Nat :=
  match xs with
  | [] => (f.round (.inf isMax) .rne false).1
  | x :: xs => xs.foldl (minMaxBits f isMax) (minMaxBits f isMax x x)

/-- The R261 reduction of terms for a participant with rounding mode `m`. -/
def reduce (op : RedOp) (ty : Ty) (m : Rm) (xs : List Nat) : XResult :=
  if ty.isFloat then
    let xs := xs.map fun x => x % 2 ^ ty.format.width
    let vs := xs.map ty.format.val
    let fl := vs.foldl (fun acc v => acc ||| v.2) (0 : Flags)
    match op with
    | .add =>
      let (v, f) := exactSum (vs.map Prod.fst) m
      .exact v (fl ||| f)
    | .max => .exact (ty.format.val (reduceMinMax ty.format true xs)).1 fl
    | _ => .exact (ty.format.val (reduceMinMax ty.format false xs)).1 fl
  else .value (reduceInt op ty xs) 0

/-- The static mode of an arrival. -/
def arrivalRm (a : Arrival) : Rm :=
  match a.rm with
  | .rtz => .rtz
  | .rdn => .rdn
  | .rup => .rup
  | .rna => .rna
  | _ => .rne

/-- The source position of `shfl` (R259). -/
def shflSource (mode : ShflMode) (pos b : Nat) : Int :=
  match mode with
  | .idx => b
  | .up => (pos : Int) - b
  | .down => pos + b
  | .xor => ((pos ^^^ b : Nat) : Int)

/-- The result of one active participant at position `pos` of an instance of width `w`; `act` holds the active
participants by position, rising. -/
def xresult (a : Arrival) (pos w grant : Nat) (act : List (Nat × Arrival)) : XResult :=
  let copy (ty : Ty) (x : Arrival) : XResult := .value (maskTy ty x.a) (x.apois.zeroExtend 4)
  match a.instr with
  | .shfl _ mode ty _ _ _ =>
    let p := shflSource mode pos a.b.toNat
    let from_ : Option Arrival := if 0 ≤ p && p < w then lookup act p.toNat else none
    copy ty (from_.getD a)
  | .vote _ mode _ _ =>
    .pred (match mode with
      | .all => act.all fun x => x.2.q
      | .any => act.any fun x => x.2.q
      | .uni => act.all (fun x => x.2.q) || act.all fun x => !x.2.q)
  | .voteBallot _ _ _ k =>
    .value ((act.filter fun x => 32 * k.toNat ≤ x.1 && x.1 < 32 * k.toNat + 32).foldl
      (fun n x => n + boolBit x.2.q (x.1 - 32 * k.toNat)) 0) 0
  | .redux _ op ty _ _ _ => reduce op ty (arrivalRm a) (act.map fun x => maskTy ty x.2.a)
  | .scanx _ op excl ty _ _ _ =>
    reduce op ty (arrivalRm a) ((act.filter fun x => x.1 < pos || (x.1 = pos && !excl)).map fun x => maskTy ty x.2.a)
  | .bcast _ mode ty _ _ =>
    let x := match mode with
      | .first => act.head?
      | .last => act.getLast?
    copy ty ((x.map Prod.snd).getD a)
  | .matchLanes _ mode ty _ _ =>
    let same := act.filter fun x => maskTy ty x.2.a == maskTy ty a.a
    .value (match mode with
      | .first => (same.head?.map Prod.fst).getD pos
      | .count => same.length) 0
  | .lanes _ mode _ =>
    .value (match mode with
      | .pos => pos
      | .count => act.length
      | .rank => (act.filter fun x => x.1 < pos).length
      | .grant => grant) 0
  | _ => .value 0 0

/-- The destination of a cross-lane instruction: its registers or its predicate. -/
def xdest (i : Instr) : Reg × Nat × Option PredReg :=
  match i with
  | .shfl _ _ ty d _ _ | .redux _ _ ty _ d _ | .scanx _ _ _ ty _ d _ | .bcast _ _ ty d _ => (d, tyRegs ty, none)
  | .vote _ _ qd _ => (0, 0, some qd)
  | .voteBallot _ d _ _ | .matchLanes _ _ _ d _ | .lanes _ _ d => (d, 1, none)
  | _ => (0, 0, none)

/-- The type of a float reduction. -/
def xty (i : Instr) : Ty :=
  match i with
  | .redux _ _ ty _ _ _ | .scanx _ _ _ ty _ _ _ => ty
  | _ => .b32

/-- The exact value kept for a participant that would trap (R257), in the form of R78. -/
def keepExact (v : XVal) : AccEntry :=
  match v with
  | .nan => { spec := .nan }
  | .inf n => { spec := if n then .ninf else .pinf }
  | .zero n => { nz := n }
  | .fin n m e _ => ({} : AccEntry).add (if n then -(m : Int) else m) e

namespace State

/-- A participant's exact value rounded under its FPCTL: it completes, or keeps the value and traps FPTRAP (R257). -/
def roundKept (s : State) (r : ThreadRef) (pc : DWord) (i : Instr) (m : Rm) (v : XVal) (fl : Flags) : State :=
  match s.thread? r with
  | none => s
  | some t =>
    let (x, f) := (xty i).format.round v m false
    match fpTrap t (fl ||| f) with
    | some p => (s.modThread r fun t => { t with state := .runnable, kept := some { pc, entry := keepExact v, flags := fl } }).takeTrap
        r p
    | none => (s.modThread r fun t =>
        { t.setReg (xdest i).1 (BitVec.ofNat 32 x) with
          fpctl := orFlags t.fpctl (fl ||| f), kept := none, pc := nextPC pc, state := .runnable, wait := 0 }).countIssue r

/-- A participant's result written. -/
def putResult (s : State) (r : ThreadRef) (pc : DWord) (a : Arrival) (x : XResult) : State :=
  let go (t : Thread) : Thread := { t with pc := nextPC pc, state := .runnable, wait := 0 }
  let (d, n, q) := xdest a.instr
  match x with
  | .value v p => (s.modThread r fun t => go (t.setRegs d n v p)).countIssue r
  | .pred b => (s.modThread r fun t => go (match q with
      | some q => t.setPred q b
      | none => t)).countIssue r
  | .exact v fl => s.roundKept r pc a.instr (arrivalRm a) v fl

/-- Whether every thread of an instance's segment that has not exited has arrived. -/
def instFull (s : State) (core place : Nat) (i : Instance) : Bool :=
  (s.liveMembers core place fun n => i.base ≤ n && n < i.base + i.width).all fun n =>
    i.arrivals.any fun a => a.tidx == n

/-- Active participants of an instance by position, rising. -/
def activeOf (i : Instance) : List (Nat × Arrival) :=
  i.arrivals.foldl (fun l a => if a.active then insertKey l (a.tidx - i.base) a else l) []

/-- An instance completed: every result is computed from the arrivals, and all are written in one step (R226). -/
def completeInst (s : State) (core place : Nat) (i : Instance) : State :=
  let act := activeOf i
  let grant := s.groupGrant core place
  let s' := s.modInsts core place fun l => l.filter fun j => !(j.pc == i.pc && j.base == i.base)
  let s' := i.arrivals.foldl (fun s a =>
    let r : ThreadRef := { core, who := whoOf place a.tidx }
    if a.active then s
    else (s.modThread r fun t => { t with pc := nextPC i.pc, state := .runnable, wait := 0 }).countIssue r) s'
  act.foldl (fun s (p, a) =>
    s.putResult { core, who := whoOf place a.tidx } i.pc a (xresult a p i.width grant act)) s'

end State

/-! ## The instructions -/

/-- What a thread brings to an instance. -/
def arrivalOf (r : ThreadRef) (i : Instr) : Arrival :=
  { tidx := (keyOf r.who).2, active := true, instr := i, a := 0, apois := 0, b := 0, q := false, rm := .rne }

/-- The static form of a rounding mode. -/
def rmStatic : Rm → RmField
  | .rne => .rne
  | .rtz => .rtz
  | .rdn => .rdn
  | .rup => .rup
  | .rna => .rna

/-- The trap of a dynamic rounding mode that a float reduction cannot round under (R71). -/
def xrmTrap (t : Thread) (i : Instr) : Option Trap :=
  match i with
  | .redux _ op ty rm _ _ | .scanx _ op _ ty rm _ _ => if op.rounds ty && (rmOf t rm).isNone then some rmTrap else none
  | _ => none

/-- The issue of a cross-lane instruction: a thread whose guard is false arrives as inactive; another arrives after its
checks, unless it holds a kept value, which it rounds on its own without arriving anew (R226, R257). -/
def crossLane (s : State) (g : Guard) (i : Instr) (srcs : List (Src × Nat)) (dsts : List (Reg × Nat))
    (qs : List PredReg) (checks : Thread → Option Trap) (mk : Thread → Arrival → Arrival) :
    Host.Outcome State Fault Refusal :=
  let r := s.issuer
  match s.thread? r with
  | none => .next s
  | some t =>
    if !s.canIssue r t || t.predBusy g.q then .next s
    else if guardHolds g t then
      .next (State.finish r (step8 s t srcs dsts qs (
        let a := mk t (arrivalOf r i)
        match t.kept.filter fun k => k.pc == t.pc with
        | some k =>
          match xrmTrap t i with
          | some p => .trap s p
          | none => .stay (s.roundKept r t.pc i (arrivalRm a) k.entry.val k.flags)
        | none =>
          match checks t with
          | some p => .trap s p
          | none => .stay (s.arriveX r t.pc a))))
    else .next (State.finish r (.stay (s.arriveX r t.pc { arrivalOf r i with active := false })))

/-- The poison marks of `a`, for the carriers. -/
def marks2 (t : Thread) (a : Src) (n : Nat) : BitVec 2 := (poisA t a n).extractLsb' 0 2

/-- A width requested for the task (R258). -/
def execSetw (g : Guard) (width : Word) (s : State) : Host.Outcome State Fault Refusal :=
  issue s g [] [] [] fun _ =>
    .next (match s.issuer.who with
      | .user place _ => s.modTask s.issuer.core place fun k => { k with setw := some width.toNat }
      | .caster _ => s)

/-- Another position's value (R259): a poison carrier, so that a mark of `vb`, which supplies no bits, goes nowhere
(notes/assumptions/27.md). -/
def execShfl (g : Guard) (mode : ShflMode) (ty : Ty) (d : Reg) (a : Src) (b : SrcB) (s : State) :
    Host.Outcome State Fault Refusal :=
  crossLane s g (.shfl g mode ty d a b) (srcA ty a ++ srcB32 b) [(d, tyRegs ty)] [] (fun _ => none)
    fun t x => { x with a := BitVec.ofNat 64 (valA t ty a), apois := marks2 t a (tyRegs ty)
                        b := BitVec.ofNat 32 (valB32 t b) }

/-- A vote that writes a predicate (R260). -/
def execVote (g : Guard) (mode : VoteMode) (qd qa : PredReg) (s : State) : Host.Outcome State Fault Refusal :=
  crossLane s g (.vote g mode qd qa) [] [] [qd, qa] (fun _ => none) fun t x => { x with q := t.pred qa }

/-- A ballot (R260). -/
def execVoteBallot (g : Guard) (d : Reg) (qa : PredReg) (w : BitVec 2) (s : State) :
    Host.Outcome State Fault Refusal :=
  crossLane s g (.voteBallot g d qa w) [] [(d, 1)] [qa] (fun _ => none) fun t x => { x with q := t.pred qa }

/-- The checks of `redux` and `scanx`: poison, markers, the dynamic mode where it rounds (R257). -/
def reduceChecks (op : RedOp) (ty : Ty) (rm : RmField) (a : Src) (t : Thread) : Option Trap :=
  orTrap (firstPoison t (srcA ty a)) (orTrap (if ty.isFloat then markerTrap t [(a, 1)] else none)
    (if op.rounds ty && (rmOf t rm).isNone then some rmTrap else none))

/-- The operand and mode of `redux` and `scanx`. -/
def reduceArrival (ty : Ty) (rm : RmField) (a : Src) (t : Thread) (x : Arrival) : Arrival :=
  { x with a := BitVec.ofNat 64 (valA t ty a), rm := ((rmOf t rm).map rmStatic).getD .rne }

/-- A reduction over the segment (R261). -/
def execRedux (g : Guard) (op : RedOp) (ty : Ty) (rm : RmField) (d : Reg) (a : Src) (s : State) :
    Host.Outcome State Fault Refusal :=
  crossLane s g (.redux g op ty rm d a) (srcA ty a) [(d, tyRegs ty)] [] (reduceChecks op ty rm a)
    (reduceArrival ty rm a)

/-- A prefix reduction over the segment (R262). -/
def execScanx (g : Guard) (op : RedOp) (excl : Bool) (ty : Ty) (rm : RmField) (d : Reg) (a : Src) (s : State) :
    Host.Outcome State Fault Refusal :=
  crossLane s g (.scanx g op excl ty rm d a) (srcA ty a) [(d, tyRegs ty)] [] (reduceChecks op ty rm a)
    (reduceArrival ty rm a)

/-- The first or last participant's value (R263). -/
def execBcast (g : Guard) (mode : BcastMode) (ty : Ty) (d : Reg) (a : Src) (s : State) :
    Host.Outcome State Fault Refusal :=
  crossLane s g (.bcast g mode ty d a) (srcA ty a) [(d, tyRegs ty)] [] (fun _ => none)
    fun t x => { x with a := BitVec.ofNat 64 (valA t ty a), apois := marks2 t a (tyRegs ty) }

/-- A bitwise match among participants (R264). -/
def execMatchLanes (g : Guard) (mode : MatchMode) (ty : Ty) (d : Reg) (a : Src) (s : State) :
    Host.Outcome State Fault Refusal :=
  crossLane s g (.matchLanes g mode ty d a) (srcA ty a) [(d, 1)] [] (fun t => firstPoison t (srcA ty a))
    fun t x => { x with a := BitVec.ofNat 64 (valA t ty a) }

/-- Position, count, rank or grant (R265). -/
def execLanes (g : Guard) (mode : LanesMode) (d : Reg) (s : State) : Host.Outcome State Fault Refusal :=
  crossLane s g (.lanes g mode d) [] [(d, 1)] [] (fun _ => none) fun _ x => x

/-- A cross-lane instance whose segment has arrived completes (R226, R227). -/
def execCrossLaneComplete (core place : Nat) (pc : DWord) (base : Nat) (s : State) :
    Host.Outcome State Fault Refusal :=
  match (s.insts core place).find? fun i => i.pc == pc && i.base == base with
  | some i => .next (if s.instFull core place i && s.coresRun then s.completeInst core place i else s)
  | none => .next s

/-- The threads whose joins at a PC are satisfied leave together (R224, R251). -/
def execJoinRelease (core place : Nat) (pc : DWord) (s : State) : Host.Outcome State Fault Refusal :=
  .next (s.ifRuns ((s.joinReleased core place pc).foldl (fun s n =>
    let r : ThreadRef := { core, who := whoOf place n }
    (s.modThread r fun t => { t with pc := nextPC pc, state := .runnable, wait := 0 }).countIssue r) s))

end Sys2Proof.Machine
end

