-- ==== Sys2Proof/Machine/Sync.lean ====
section
/-!
DEFINITION. The synchronisation class: barriers, deques, `waitaddr` and its wakes (spec/14_progress_isa.md R266 to R271).
-/

namespace Sys2Proof.Machine

/-- A barrier word as an access (R271). -/
def barAccess (m : MemRef) : Access := { m, size := 8, watch := .atom, kind := .atomic, atom := true }

/-- Whether a target is the thread's own scratchpad. -/
def ownScratch : Target → Bool
  | .scratch _ _ _ false => true
  | _ => false

/-- A barrier operation in the own scratchpad, performed and delivered within its issue. -/
def doOwn (s : State) (r : ThreadRef) (p : Pend) : State :=
  let s := (s.modThread r fun t => t.pending p).performOp r
  match (s.thread? r).bind fun t => t.pend.findIdx? fun q => q.got.isSome && q.issue == p.issue && q.dst == p.dst with
  | some k => s.deliver r k
  | none => s

/-- A barrier operation issued: at once in the own scratchpad, else at its target. -/
def issueBar (s : State) (r : ThreadRef) (va : DWord) (scope : Scope) (rel : Bool) (kind : PendKind) (d : Reg)
    (words : Nat) (o : BarOp) (target : Target) : Eff :=
  match target with
  | .peer dev off =>
    withAllowance s r dev va fun s =>
      let (s, tag) := s.sendBarrier dev off r va kind d (some o) false
      .next (s.modThread r fun t => t.pending (opPend s kind d words none va none false rel scope .b32 (some tag)))
  | target =>
    let p := opPend s kind d words none va (some (target, .bar o)) false rel scope .b32 none
    .next (if ownScratch target then doOwn s r p else s.modThread r fun t => t.pending p)

/-- `barinit` (R267). -/
def execBarinit (g : Guard) (scope : Scope) (m : MemRef) (b : Src) (s : State) : Host.Outcome State Fault Refusal :=
  issue s g (baseSrc m ++ [(b, 1)]) [] [] fun t =>
    let r := s.issuer
    match s.formTarget r t (barAccess m) with
    | (.error x, s) => .turned s x
    | (.ok target, s) =>
      match firstPoison t [(b, 1)] with
      | some p => .trap s p
      | none =>
        if !s.opMayIssue r t none then .hold s
        else issueBar s r (formAddr t m) scope false .noReturn 0 0 (.init (t.reg b.reg).toNat) target

/-- `arrive`: a release at its scope (R267). -/
def execArrive (g : Guard) (scope : Scope) (d : Reg) (m : MemRef) (s : State) : Host.Outcome State Fault Refusal :=
  issue s g (baseSrc m) [(d, 1)] [] fun t =>
    let r := s.issuer
    match s.formTarget r t (barAccess m) with
    | (.error x, s) => .turned s x
    | (.ok target, s) =>
      if !s.opMayIssue r t (some scope) then s.awaitRelease r scope
      else if s.arriveHolds r target then .hold s
      else issueBar s r (formAddr t m) scope true .atomic d 1 .arrive target

/-- `barwait`: it completes where the phase differs, and else waits for the next completion (R267). -/
def execBarwait (g : Guard) (scope : Scope) (m : MemRef) (b : Src) (s : State) : Host.Outcome State Fault Refusal :=
  issue s g (baseSrc m ++ [(b, 1)]) [] [] fun t =>
    let r := s.issuer
    match s.formTarget r t (barAccess m) with
    | (.error x, s) => .turned s x
    | (.ok target, s) =>
      match firstPoison t [(b, 1)] with
      | some p => .trap s p
      | none =>
        let phase := (t.reg b.reg).getLsbD 0
        let va := formAddr t m
        if !s.opMayIssue r t none || s.busy target then .hold s
        else match target with
          | .peer dev off =>
            withAllowance s r dev va fun s => .park (s.sendBarrier dev off r va .atomic 0 none phase).1 (.barrier target scope va)
          | target =>
            let (bs, pois, s) := s.opRead r.core true target 8
            if pois then .trap s { kind := .poison, sub := State.failSub .atomic 0, addr := va }
            else if (leNat bs).testBit 63 != phase then .next (if wideScope scope then s.dropClean r.core else s)
            else .park s (.barrier target scope va)

/-! ## Deques (R268, R269) -/

/-- Steps 1 to 7 of R175 for a deque instruction: the descriptor lies in local HBM or host memory. -/
def State.dequeTarget (s : State) (r : ThreadRef) (t : Thread) (m : MemRef) : Translated × State :=
  let x : Access := { m, size := 64, watch := .atom, kind := .atomic, atom := true }
  let va := formAddr t m
  match firstPoison t (baseSrc m) with
  | some p => (.error (some p), s)
  | none =>
    if va.toNat % 64 != 0 then (.error (some { kind := .align, sub := 0x01, addr := va }), s)
    else match (s.taskOf? r).bind fun k => watchTrap k x va with
      | some w => (.error (some w), s)
      | none =>
        let a := s.accessor r
        match s.translate a va .atomic with
        | (.error e, s) => (.error e, s)
        | (.ok (.mem pa), s) =>
          match s.keyFault a.kslot va (.mem pa) with
          | some f => (.error (some f), s)
          | none => (.ok (.mem pa), s)
        | (.ok _, s) => (.error (some { kind := .dequeBad, sub := 0x04, addr := va }), s)

/-- The operation of a deque instruction, or the trap of its own checks. -/
def issueDeque (s : State) (g : Guard) (scope : Scope) (base : Src) (off : Word) (data : List (Src × Nat))
    (dsts : List (Reg × Nat)) (qd : Option PredReg) (kind : PendKind) (acq rel : Bool) (f : Thread → Except Trap DqOp) :
    Host.Outcome State Fault Refusal :=
  let m := lineRef base off
  issue s g (baseSrc m ++ data) dsts qd.toList fun t =>
    let r := s.issuer
    match s.dequeTarget r t m with
    | (.error x, s) => .turned s x
    | (.ok target, s) =>
      match firstPoison t data with
      | some p => .trap s p
      | none =>
        match f t with
        | .error x => .trap s x
        | .ok o =>
          if !s.opMayIssue r t (if rel then some scope else none) then s.awaitRelease r (if rel then scope else .thr)
          else
            let (d, n) := dsts.headD (0, 0)
            .next (s.modThread r fun th => th.pending
              (opPend s kind d n qd (formAddr t m) (some (target, .dq o (qd.getD 0) (s.accessor r))) acq rel scope .b64 none))

/-- `dqinit`: LOGCAP and BUF are checked at issue. -/
def execDqinit (g : Guard) (scope : Scope) (base : Src) (off : Word) (b c : Src) (s : State) :
    Host.Outcome State Fault Refusal :=
  issueDeque s g scope base off [(b, 2), (c, 1)] [] none .noReturn false true fun t =>
    let cap := (t.reg c.reg).toNat
    let buf := t.reg64 b.reg
    if cap < 1 || 24 < cap then .error { kind := .dequeBad, sub := 0x01, addr := BitVec.ofNat 64 cap }
    else if buf.toNat % 8 != 0 then .error { kind := .dequeBad, sub := 0x02, addr := buf }
    else .ok (.init buf cap)

def execDqpush (g : Guard) (scope : Scope) (qd : PredReg) (base : Src) (off : Word) (b : Src) (s : State) :
    Host.Outcome State Fault Refusal :=
  issueDeque s g scope base off [(b, 2)] [] (some qd) .noReturn false true fun t => .ok (.push (t.reg64 b.reg))

def execDqpop (g : Guard) (scope : Scope) (d : Reg) (qd : PredReg) (base : Src) (off : Word) (s : State) :
    Host.Outcome State Fault Refusal :=
  issueDeque s g scope base off [] [(d, 2)] (some qd) .atomic true false fun _ => .ok .pop

def execDqsteal (g : Guard) (scope : Scope) (d : Reg) (qd : PredReg) (base : Src) (off : Word) (s : State) :
    Host.Outcome State Fault Refusal :=
  issueDeque s g scope base off [] [(d, 2)] (some qd) .atomic true false fun _ => .ok .steal

/-! ## Waiting on an address (R270) -/

namespace State

/-- The word a thread waits on, read for it: its value and mark, where it is at hand. A page that is busy gives none. A
word of local or host memory is read at its home, so that a wait sees another core's store (R161). -/
def waitRead (s : State) (r : ThreadRef) (target : Target) (size : Size) : Option (Nat × Bool) × State :=
  let q := ((s.thread? r).map Thread.queue).getD []
  let n := sizeBytes size
  let seen (bs : List Byte) (pois : Bool) : Option (Nat × Bool) :=
    let (bs, ps) := forwarded q target bs (List.replicate n pois)
    some (leNat bs, ps.any id)
  match target with
  | .mem pa =>
    if s.pageBusy pa then (none, s)
    else
      let (bs, pois, s) := s.loadLine r.core pa n true
      (seen bs pois, s)
  | .scratch c p off _ =>
    let (bs, ps) := s.scratchRead c p off n
    (seen bs (ps.any id), s)
  | .peer dev off =>
    match s.peerLine? r.core dev off with
    | some l => (seen ((l.data.drop (off - lineOf off)).take n) (l.pois != 0), s)
    | none => (none, s)
  | .mmio _ => (none, s)

/-- The end of a `waitaddr` with its answer. -/
def waitDone (s : State) (r : ThreadRef) (w : AddrWait) (x : Nat) : State :=
  let s := if w.acq && wideScope w.scope then s.dropClean r.core else s
  let s := if x = 3 then s.countSpurious r.core else s
  s.modThread r fun t => { t.setReg w.dst (BitVec.ofNat 32 x) with pc := nextPC t.pc, state := .runnable, wait := 0 }

/-- The word of a waiter found again for a read that issues now: a global address is translated anew (R154, R297). -/
def retarget (s : State) (r : ThreadRef) (w : AddrWait) : Except (Option Trap) AddrWait × State :=
  match w.target with
  | .scratch .. => (.ok w, s)
  | _ =>
    let x : Access := { m := lineRef { reg := 0, trap := false } 0, size := sizeBytes w.size, watch := .rd, kind := .read, atom := true }
    match s.globalTarget r x w.va with
    | (.error t, s) => (.error t, s)
    | (.ok t, s) => (.ok { w with target := t }, s)

/-- The end of a wait whose word was read: 1 where it differs, else `why`. A poisoned word traps. -/
def waitEnds (s : State) (r : ThreadRef) (w : AddrWait) (why : Nat) (x : Nat) (pois : Bool) : State :=
  if pois then s.takeTrap r { kind := .poison, sub := State.failSub .load w.dst, addr := w.va }
  else (s.waitDone r w (if x = w.expected.toNat then why else 1)).countIssue r

/-- The word of a peer that is not subscribed asked for, for a waiter; it stays parked while the allowance does not suffice. -/
def askWord (s : State) (r : ThreadRef) (w : AddrWait) (why d off : Nat) : State :=
  let e := s.dest d
  if e.held || e.unreach || !e.parked.isEmpty || e.req = 0 || e.rsp = 0 || !s.room d then s
  else
    let (s, tag) := (s.spend d 1 1).sendPeer d off (.thread r) w.va .load w.dst [] false [] (sizeBytes w.size)
    s.modThread r fun t => { t with state := .waitaddr { w with asked := some (tag, why) } }

/-- A waiter reads its word again: 1 where it differs, else `why`: 2 for a timeout, 3 for any other wake. The word of
a peer is asked for. -/
def wakeWait (s : State) (r : ThreadRef) (why : Nat) : State :=
  match (s.thread? r).map Thread.state with
  | some (.waitaddr w) =>
    if w.asked.isSome then s
    else match s.retarget r w with
      | (.error none, s) => s
      | (.error (some t), s) => s.takeTrap r t
      | (.ok w, s) =>
        match s.waitRead r w.target w.size with
        | (some (x, pois), s) => s.waitEnds r w why x pois
        | (none, s) =>
          match w.target with
          | .peer d off => s.askWord r w why d off
          | _ => s
  | _ => s

end State

/-- `waitaddr` (R270). -/
def execWaitaddr (g : Guard) (size : Size) (acq : Bool) (scope : Scope) (d : Reg) (m : MemRef) (b c : Src) (s : State) :
    Host.Outcome State Fault Refusal :=
  let n := sizeWords size
  issue s g (baseSrc m ++ [(b, n), (c, 1)]) [(d, 1)] [] fun t =>
    let r := s.issuer
    match s.formTarget r t { m, size := sizeBytes size, watch := .rd, kind := .read, atom := true } with
    | (.error x, s) => .turned s x
    | (.ok target, s) =>
      match firstPoison t [(b, n), (c, 1)] with
      | some p => .trap s p
      | none =>
        let va := formAddr t m
        let w : AddrWait := { target, va, size, acq, scope, dst := d, expected := BitVec.ofNat 64 (t.regsNat b.reg n)
                              timeout := t.reg c.reg, asked := none }
        if State.accessWaits t then .hold s
        else match s.waitRead r target size with
          | (some (x, pois), s) =>
            if pois then .trap s { kind := .poison, sub := State.failSub .load d, addr := va }
            else if t.woken == some t.pc then
              .stay ((s.modThread r fun t => { t with woken := none }).waitDone r w (if x = w.expected.toNat then 3 else 1))
            else if x = w.expected.toNat then .park s (.waitaddr w)
            else
              let s := s.modThread r fun t => t.setReg d 0
              .next (if acq && wideScope scope then s.dropClean r.core else s)
          | (none, s) =>
            match target with
            | .peer dev off =>
              if State.queuedTo t State.toPeer then .hold s
              else withAllowance s r dev va fun s =>
                let (s, tag) := s.sendPeer dev off (.thread r) va .load d [] false [] (sizeBytes size)
                .park (s.modThread r fun t => { t with woken := none })
                  (.waitaddr { w with asked := some (tag, if t.woken == some t.pc then 3 else 0) })
            | _ => .hold s

def execWaitaddrWake (t : ThreadRef) (s : State) : Host.Outcome State Fault Refusal := 
  .next (s.ifRuns (s.wakeWait t 3))

/-- A timeout of 0 is none. -/
def execWaitaddrTimeout (t : ThreadRef) (s : State) : Host.Outcome State Fault Refusal :=
  .next (s.ifRuns (match (s.thread? t).map Thread.state with
    | some (.waitaddr w) => if w.timeout = 0 then s else s.wakeWait t 2
    | _ => s))

def execSpuriousWake (t : ThreadRef) (s : State) : Host.Outcome State Fault Refusal := 
  .next (s.ifRuns (s.wakeWait t 3))

end Sys2Proof.Machine
end

