-- ==== Sys2Proof/Machine/Ladle.lean ====
section
/-!
DEFINITION. The Ladle: copies, with the events that carry them on (spec/11_ladle_host_fabric.md R191 to R201;
spec/09_ordering_rules.md R167; spec/23_errors_degraded_checkpoint.md R354).
-/

namespace Sys2Proof.Machine

/-- Entries of a copy table (R191). -/
def copyIds : Nat := 32

/-- The address of a side of `cp` as formed (R193). -/
def copyAddr (t : Thread) (sp : Space) (a : Src) (off : BitVec 16) : DWord :=
  match sp with
  | .global => t.reg64 a.reg + (off.signExtend 64 <<< 4)
  | .own => ((t.reg a.reg + (off.signExtend 32 <<< 4)).extractLsb' 0 20).zeroExtend 64
  | .peer => ((t.reg a.reg + (off.signExtend 32 <<< 4)).extractLsb' 0 24).zeroExtend 64

namespace State

/-! ## The copy table -/

/-- The lowest free copy id of a core. -/
def freeCopyId? (c : Core) : Option Nat := (List.range copyIds).find? fun i => !(c.copies.any fun k => k.id == i)

/-- The threads of a core that wait for a copy or collective as told become runnable and reissue. -/
def wakeCopy (s : State) (core : Nat) (p : CopyWait → Bool) : State :=
  let wake (t : Thread) : Thread :=
    match t.state with
    | .copy w => if p w then { t with state := .runnable } else t
    | _ => t
  s.modCore core fun c =>
    { c with tasks := c.tasks.map fun q => (q.1, { q.2 with threads := q.2.threads.map wake })
             casters := c.casters.map fun k => { k with thr := wake k.thr } }

/-- Flits reserved at issue and not used go back to the allowance (R199): while HELD is set FLITS stays (R275), and step 7 of
R280 counts them. -/
def returnFlits (s : State) (c : Copy) : State :=
  if c.flits = 0 then s
  else (s.modDest c.resDev fun e =>
    { e with reqOut := e.reqOut - c.flits, req := if e.unreach || e.held then e.req else e.req + c.flits }).wakeDest c.resDev

/-- A copy id freed: threads that wait for one reissue (R191). -/
def freeCopy (s : State) (core id : Nat) : State :=
  let s := ((s.copy? core id).map fun c => s.returnFlits c).getD s
  (s.modCore core fun c => { c with copies := c.copies.filter fun k => k.id != id }).wakeCopy core (· == .freeId)

/-- A copy complete: its waiters reissue their `cpwait`. -/
def finishCopy (s : State) (core id : Nat) : State :=
  let s := ((s.copy? core id).map fun c => s.returnFlits c).getD s
  (s.modCopy core id fun k => { k with state := .complete, dstPage := none, srcPage := none, buf := [], flits := 0 }).wakeCopy
    core (· == .id id)

/-! ## The check of a side at issue (R194 step 3) -/

/-- The place of a scratchpad side over its whole range of `n` bytes. -/
def copyRange (s : State) (r : ThreadRef) (sp : Space) (swz : BitVec 3) (a : DWord) (n : Nat) : Except Trap Unit :=
  let off := a.toNat % 2 ^ 20
  let size := s.scratchSize r
  let out : Trap := { kind := .bounds, sub := 0x02, addr := BitVec.ofNat 64 off }
  let past : Bool :=
    if swz = 0 then size < off + n
    else size < swizzle swz off || (List.range (n / 16)).any fun i => size < swizzle swz (off + 16 * i) + 16
  let inside : Except Trap Unit := if past then .error out else .ok ()
  match sp with
  | .global => .ok ()
  | .own => inside
  | .peer => if (s.peerPlace? r (a.toNat / 2 ^ 20)).isNone then .error { kind := .bounds, sub := 0x03, addr := a } else inside

/-- The peer a global side is known to lie in: the held translation of its first byte names it (R194 step 5). A part without
the fabric has no allowance to draw: its copy stops with UNIT_ABSENT (R197). -/
def knownPeer? (s : State) (r : ThreadRef) (sp : Space) (a : DWord) : Option Nat :=
  let acc := s.accessor r
  if sp != .global || !s.part.fab then none
  else s.tlb.findSome? fun e =>
    if e.vpn == a.toNat / 2 ^ (12 + 9 * e.level) && (e.asid == acc.asid || e.pte.getLsbD 5) then
      match e.page with
      | .peer d _ => some d
      | _ => none
    else none

/-! ## The sides as the copy runs -/

/-- A target some bytes further on. -/
def advanceTarget (t : Target) (n : Nat) : Target :=
  match t with
  | .mem pa => .mem (pa + n)
  | .mmio off => .mmio (off + n)
  | .peer d off => .peer d (off + n)
  | .scratch c p off r => .scratch c p (off + n) r

/-- The translation of a global side's page for a copy, with the faults of R197: a part without the fabric has no peer space
(R13). -/
def copyTranslate (s : State) (c : Copy) (dst : Bool) (va : DWord) : Translated × State :=
  let a := c.acc
  match s.translate a va (if dst then .write else .read) with
  | (.error t, s) => (.error t, s)
  | (.ok (.mmio _), s) => (.error (some { kind := .pagePerm, sub := 0x05, addr := va }), s)
  | (.ok (.peer d o), s) =>
    if dst && c.dig && s.part.fab then (.error (some { kind := .illegal, sub := 0x03 }), s)
    else match s.targetFault a va 4 false (.peer d o) with
      | some f => (.error (some f), s)
      | none => (.ok (.peer d o), s)
  | (.ok t, s) =>
    match s.keyFault a.kslot va t with
    | some f => (.error (some f), s)
    | none => (.ok t, s)

/-- The target of offset `o` of a side: a scratchpad granule, or by the page held, translated where it is another. -/
def sideAt (s : State) (core : Nat) (c : Copy) (dst : Bool) (o : Nat) : Translated × State :=
  let sp := if dst then c.dsp else c.ssp
  let base := if dst then c.dst else c.src
  let r : ThreadRef := { core, who := whoOf c.place c.tidx }
  match sp with
  | .own => (.ok (.scratch core c.place (swizzle c.swz ((base.toNat + o) % 2 ^ 20)) false), s)
  | .peer =>
    match s.peerPlace? r (base.toNat / 2 ^ 20) with
    | some (n, p) => (.ok (.scratch n p (swizzle c.swz (base.toNat % 2 ^ 20 + o)) true), s)
    | none => (.error (some { kind := .bounds, sub := 0x03, addr := base }), s)
  | .global =>
    let va := base + BitVec.ofNat 64 o
    let held := if dst then c.dstPage else c.srcPage
    match held with
    | some p =>
      if p.vpage = va.toNat / 4096 then (.ok (advanceTarget p.base (va.toNat % 4096)), s)
      else s.copyTranslate c dst va
    | none => s.copyTranslate c dst va

/-- The page of offset `o` of a side held by the copy (R351). -/
def holdPage (s : State) (core : Nat) (c : Copy) (dst : Bool) (o : Nat) (t : Target) : State :=
  let va := (if dst then c.dst else c.src) + BitVec.ofNat 64 o
  let back (x : Nat) := x - va.toNat % 4096
  let page : Option CopyPage := match t with
    | .mem pa => some { vpage := va.toNat / 4096, base := .mem (back pa) }
    | .peer d off => some { vpage := va.toNat / 4096, base := .peer d (back off) }
    | _ => none
  if (if dst then c.dsp else c.ssp) != .global then s
  else s.modCopy core c.id fun k => if dst then { k with dstPage := page } else { k with srcPage := page }

/-- The flits of one request of a copy: those reserved at issue first, then the allowance; none where the copy pauses
(R199, R211, R275). -/
def copyDraw (s : State) (core : Nat) (c : Copy) (d rsp : Nat) : Option State :=
  let e := s.dest d
  if e.held || e.unreach || e.rsp < rsp || !s.room d then none
  else if 0 < c.flits && c.resDev = d then
    some ((s.modCopy core c.id fun k => { k with flits := k.flits - 1 }).spend d 0 rsp)
  else if e.req = 0 then none
  else some (s.spend d 1 rsp)

/-- A granule read for a copy, in units of 8 bytes with their marks (R195). -/
def granuleRead (s : State) (core : Nat) (t : Target) : List (List Byte × Bool) × State :=
  match t with
  | .mem pa =>
    let s := (s.verify (lineOf pa)).flushCore core (lineOf pa)
    let (bs, p) := s.readHome pa 16
    ([(bs.take 8, p), (bs.drop 8, p)], s)
  | .scratch c p off _ =>
    let (bs, ps) := s.scratchRead c p off 16
    ([(bs.take 8, (ps.take 8).any id), (bs.drop 8, (ps.drop 8).any id)], s)
  | _ => ([], s)

/-- A granule written by a copy in one step; under FILL a scratchpad granule is then full. -/
def granuleWrite (s : State) (core : Nat) (t : Target) (units : List (List Byte × Bool)) (fill : Bool) : State :=
  match t with
  | .mem pa => s.storeHomeBy (some core) pa (units.map Prod.fst).flatten (if units.any Prod.snd then 0xF else 0)
  | .scratch c p off _ =>
    let s := units.zipIdx.foldl (fun s (u, i) => s.scratchWrite c p (off + 8 * i) u.1 u.2) s
    if fill then s.setGranule c p (off / 16) true else s
  | _ => s

/-- Bytes of a copy's Read at an offset of a peer, of which `n` are wanted: naturally aligned, within one line (R211). -/
def readSize (off n : Nat) : Nat :=
  if off % 64 = 0 && 64 ≤ n then 64 else if off % 32 = 0 && 32 ≤ n then 32 else 16

/-- Source bytes gathered until `need` bytes stand in the buffer: what a local source gives at once, and a request for
what a peer holds. The answer is whether the copy may write: `need` bytes, or fewer below a byte that faults (R197). -/
def fillBuf (s : State) (core id need : Nat) : Nat → Bool × State
  | 0 => (false, s)
  | n + 1 =>
    match s.copy? core id with
    | none => (false, s)
    | some c =>
      let have_ := 8 * c.buf.length
      let short (t : Trap) (s : State) : Bool × State :=
        if 0 < have_ && !c.dig then (true, s) else (false, s.stopCopy core id (some t))
      if need ≤ have_ then (true, s)
      else
        let o := c.prog + have_
        match c.fail, s.sideAt core c false o with
        | some t, _ => short t s
        | none, (.error none, s) => (false, s)
        | none, (.error (some t), s) => short t s
        | none, (.ok t, s) =>
          let s := s.holdPage core c false o t
          if s.busy t || s.copyAsks core id then (false, s)
          else match t with
            | .peer d off =>
              match s.copyDraw core c d 1 with
              | some s =>
                let (s, tag) := s.sendPeer d off (.copy core id) (c.src + BitVec.ofNat 64 o) .load 0 [] false []
                  (readSize off (c.len - o))
                (false, s.modCopy core id fun k => { k with asked := some tag })
              | none => (false, s)
            | t =>
              let (us, s) := s.granuleRead core t
              (s.modCopy core id fun k => { k with buf := k.buf ++ us }).fillBuf core id need n

/-- The targets of `n` granules of the destination from offset `o` on; none while one of them is busy. -/
def destTargets (s : State) (core : Nat) (c : Copy) (o : Nat) : Nat → Except Trap (Option (List Target)) × State
  | 0 => (.ok (some []), s)
  | n + 1 =>
    match s.sideAt core c true o with
    | (.error none, s) => (.ok none, s)
    | (.error (some t), s) => (.error t, s)
    | (.ok t, s) =>
      match s.destTargets core c (o + 16) n with
      | (.error t, s) => (.error t, s)
      | (.ok none, s) => (.ok none, s)
      | (.ok (some ts), s) => (.ok (if s.busy t then none else some (t :: ts)), s)

/-- Granules written one after the other. -/
def writeGranules (s : State) (core : Nat) (fill : Bool) : List Target → List (List Byte × Bool) → State
  | [], _ => s
  | t :: ts, us => (s.granuleWrite core t (us.take 2) fill).writeGranules core fill ts (us.drop 2)

/-- The bytes written leave the buffer, and PROG moves on. -/
def copyMoved (s : State) (core id n : Nat) : State :=
  s.modCopy core id fun k =>
    { k with prog := k.prog + n, buf := k.buf.drop (n / 8), sending := 0
             hpois := k.hpois || (k.buf.take (n / 8)).any Prod.snd }

/-- The marks of the units of a line that units of 8 bytes from offset `o` of it give (R354). -/
def bufMarks (o : Nat) (us : List (List Byte × Bool)) : BitVec 4 :=
  us.zipIdx.foldl (fun m (u, i) => if u.2 then m ||| unitsOf (o + 8 * i) 8 else m) 0

/-- A copy with a peer destination writes what its buffer holds in one request (R199), unless its task is being saved. -/
def copySend (s : State) (core : Nat) (c : Copy) (d off : Nat) : State :=
  if s.copyAsks core c.id || (s.task? core c.place).any (fun t => t.saver.isSome) then s
  else
    let k := min (64 - off % 64) (8 * c.buf.length)
    let us := c.buf.take (k / 8)
    match s.copyDraw core c d 0 with
    | none => s
    | some s =>
      let va := c.dst + BitVec.ofNat 64 c.prog
      let bs := (us.map Prod.fst).flatten
      let (s, tag) := s.sendPeer d off (.copy core c.id) va .noReturn 0 bs true [] bs.length (bufMarks (off % 64) us)
      s.modCopy core c.id fun x => { x with sending := k, asked := some tag }

/-- The next granule of a copy without DIG. -/
def copyPlain (s : State) (core id : Nat) : State :=
  match s.copy? core id with
  | none => s
  | some c =>
    if s.copyAsks core id then s
    else match s.sideAt core c true c.prog with
    | (.error none, s) => s
    | (.error (some t), s) => s.stopCopy core id (some t)
    | (.ok dt, s) =>
      let s := s.holdPage core c true c.prog dt
      let need := match dt with
        | .peer _ off => min (64 - off % 64) (c.len - c.prog)
        | _ => 16
      if s.busy dt then s
      else match s.fillBuf core id need 5 with
        | (false, s) => s
        | (true, s) =>
          match s.copy? core id with
          | none => s
          | some c =>
            match dt with
            | .peer d off => s.copySend core c d off
            | dt => (s.granuleWrite core dt (c.buf.take 2) c.fill).copyMoved core id 16

/-- The next 128-byte block of a copy under DIG, all of it or nothing (R196, R197). -/
def copyBlock (s : State) (core id : Nat) : State :=
  match s.fillBuf core id 128 9 with
  | (false, s) => s
  | (true, s) =>
    match s.copy? core id with
    | none => s
    | some c =>
      match s.destTargets core c c.prog 8 with
      | (.error t, s) => s.stopCopy core id (some t)
      | (.ok none, s) => s
      | (.ok (some ts), s) =>
        let s := (ts.head?.map fun t => s.holdPage core c true c.prog t).getD s
        let s := s.writeGranules core c.fill ts c.buf
        (s.modCopy core id fun k => { k with hash := shaBlock k.hash ((c.buf.take 16).map Prod.fst).flatten }).copyMoved
          core id 128

/-- The rest of a copy under DIG: the bytes after the last whole block, and the digest (R195, R196). -/
def copyDigest (s : State) (core id : Nat) : State :=
  match s.copy? core id with
  | none => s
  | some c =>
    let rest := c.len - c.prog
    match s.fillBuf core id rest 9 with
    | (false, s) => s
    | (true, s) =>
      match s.copy? core id with
      | none => s
      | some c =>
        match s.destTargets core c c.prog (rest / 16 + 4) with
        | (.error t, s) => s.stopCopy core id (some t)
        | (.ok none, s) => s
        | (.ok (some ts), s) =>
          let us := c.buf.take (rest / 8)
          let tail := (us.map Prod.fst).flatten
          let msg := tail ++ shaPad c.len
          let digest := shaBytes ((chunks 128 (msg.length / 128) msg).foldl shaBlock c.hash)
          let pois := c.hpois || us.any Prod.snd
          let dus := (chunks 8 8 digest).map fun b => (b, pois)
          (((s.writeGranules core c.fill ts (us ++ dus))).copyMoved core id rest).finishCopy core id

end State

/-! ## Instructions -/

/-- `cp` (R193, R194). Its reads are to see the thread's own older stores (R167), so it goes when they have left the
queue. -/
def execCp (g : Guard) (fill dig : Bool) (swz : BitVec 3) (dsp ssp : Space) (d : Reg) (a b c : Src)
    (doff soff : BitVec 16) (s : State) : Host.Outcome State Fault Refusal :=
  let regs (sp : Space) : Nat := if sp = .global then 2 else 1
  let srcs := [(a, regs dsp), (b, regs ssp), (c, 1)]
  issue s g srcs [(d, 1)] [] fun t =>
    let r := s.issuer
    let (place, tidx) := keyOf r.who
    let dst := copyAddr t dsp a doff
    let src := copyAddr t ssp b soff
    let len := (t.reg c.reg).toNat
    match firstPoison t srcs with
    | some p => .trap s p
    | none =>
      if dst.toNat % 16 != 0 then .trap s { kind := .align, sub := 0x01, addr := dst }
      else if src.toNat % 16 != 0 then .trap s { kind := .align, sub := 0x01, addr := src }
      else if len % 16 != 0 then .trap s { kind := .align, sub := 0x04, addr := BitVec.ofNat 64 len }
      else match s.copyRange r dsp swz dst (len + if dig then 64 else 0), s.copyRange r ssp swz src len with
        | .error x, _ => .trap s x
        | .ok _, .error x => .trap s x
        | .ok _, .ok _ =>
          match (s.core? r.core).bind State.freeCopyId? with
          | none => .park s (.copy .freeId)
          | some id =>
            if !t.queue.isEmpty || State.accessWaits t then .hold s
            else
              let start (s : State) (flits dev : Nat) : Eff :=
                let k : Copy :=
                  { id, place, tidx, dsp, ssp, swz, dig, fill, len, dst, src, prog := 0, state := .running
                    dstPage := none, srcPage := none, hash := shaInit, hpois := false, told := false, buf := []
                    sending := 0, asked := none, flits, resDev := dev, acc := s.accessor r }
                let s := (s.modCore r.core fun c => { c with copies := c.copies ++ [k] }).modThread r fun t =>
                  t.setReg d (BitVec.ofNat 32 id)
                .next (if len = 0 && !dig then s.finishCopy r.core id else s)
              let peer := match s.knownPeer? r dsp dst with
                | some d => some (d, dst)
                | none => (s.knownPeer? r ssp src).map fun d => (d, src)
              match peer with
              | none => start s 0 0
              | some (dev, va) =>
                let n := min ((len + 63) / 64) 16
                if s.unreach dev then .trap s { kind := .unreach, sub := BitVec.ofNat 8 dev, addr := va }
                else if n = 0 then start s 0 0
                else match s.allow r dev n 0 va with
                  | .pass s => start s n dev
                  | .wait s => .hold s
                  | .park s => .park s (.allowance dev va none)

/-- The status word of `cpq` (R200). -/
def copyStatus (k : Option Copy) : Nat :=
  match k with
  | none => 3 * 2 ^ 30
  | some c =>
    let st := match c.state with
      | .running => 0
      | .stopped _ => 1
      | .complete => 2
    st * 2 ^ 30 + c.prog / 16

/-- The copy of a core that an id names for a thread of a task. -/
def State.ownCopy? (s : State) (r : ThreadRef) (id : Nat) : Option Copy :=
  (s.copy? r.core id).bind fun c => if c.place = (keyOf r.who).1 then some c else none

/-- `cpq` (R200): the status arrives as a load's data does. -/
def execCpq (g : Guard) (d : Reg) (a : Src) (s : State) : Host.Outcome State Fault Refusal :=
  issue s g [(a, 1)] [(d, 1)] [] fun t =>
    let r := s.issuer
    match firstPoison t [(a, 1)] with
    | some p => .trap s p
    | none =>
      let id := t.reg a.reg
      if 31 < id.toNat then .trap s { kind := .bounds, sub := 0x04, addr := id.zeroExtend 64 }
      else
        let x : Arrived := { value := BitVec.ofNat 128 (copyStatus (s.ownCopy? r id.toNat)), poison := 0, pred := none }
        let p := { opPend s .cpq d 1 none 0 none false false .thr .b32 none with got := some x }
        .next (s.modThread r fun t => t.pending p)

/-- `cpwait` (R191, R201). -/
def execCpwait (g : Guard) (a : Src) (s : State) : Host.Outcome State Fault Refusal :=
  issue s g [(a, 1)] [] [] fun t =>
    let r := s.issuer
    match firstPoison t [(a, 1)] with
    | some p => .trap s p
    | none =>
      let id := t.reg a.reg
      if 31 < id.toNat then .trap s { kind := .bounds, sub := 0x04, addr := id.zeroExtend 64 }
      else match s.ownCopy? r id.toNat with
        | none => .next s
        | some c => if c.state = .complete then .next (s.freeCopy r.core id.toNat) else .park s (.copy (.id id.toNat))

/-! ## Events -/

/-- The copy of an id while it runs. -/
def copyRuns (s : State) (core id : Nat) : Option Copy :=
  (s.copy? core id).bind fun c => if c.state = .running then some c else none

/-- The next granule, or under DIG the next block, is written (R195). -/
def execCopyGranuleWrite (core id : Nat) (s : State) : Host.Outcome State Fault Refusal :=
  .next (s.ifRuns (match copyRuns s core id with
    | none => s
    | some c =>
      if c.dig then (if c.prog + 128 ≤ c.len then s.copyBlock core id else s)
      else if c.prog < c.len then s.copyPlain core id
      else s))

/-- The pages of the granule at PROG are translated for the sides that are global, while no request of the copy is on its way
(R194, R197). -/
def execCopyPageTranslate (core id : Nat) (s : State) : Host.Outcome State Fault Refusal :=
  .next (s.ifRuns (match copyRuns s core id with
    | none => s
    | some c =>
      if c.len ≤ c.prog || s.copyAsks core id then s
      else match s.sideAt core c false c.prog with
        | (.error none, s) => s
        | (.error (some t), s) => s.stopCopy core id (some t)
        | (.ok st, s) =>
          let s := s.holdPage core c false c.prog st
          match s.sideAt core c true c.prog with
          | (.error none, s) => s
          | (.error (some t), s) => s.stopCopy core id (some t)
          | (.ok dt, s) => s.holdPage core c true c.prog dt))

/-- The end of a copy (R195, R196). -/
def execCopyComplete (core id : Nat) (s : State) : Host.Outcome State Fault Refusal :=
  .next (s.ifRuns (match copyRuns s core id with
    | none => s
    | some c =>
      if c.dig then (if c.len < c.prog + 128 then s.copyDigest core id else s)
      else if c.prog = c.len && !s.copyAsks core id then s.finishCopy core id
      else s))

/-- The report of a stopped copy: at once where its thread is blocked, else at the thread's boundary (R198, R340). -/
def execCopyFaultReport (t : ThreadRef) (s : State) : Host.Outcome State Fault Refusal :=
  .next (s.ifRuns (match s.thread? t with
    | none => s
    | some th =>
      if !s.reportable t th then s
      else match th.stop, th.later, th.fails, s.stoppedCopy? t with
        | none, [], [], some (c, x) => s.takeCopyFault t c x
        | _, _, _, _ => s))

end Sys2Proof.Machine
end

