-- ==== Sys2Proof/Machine/Collective.lean ====
section
/-!
DEFINITION. Collectives (spec/11_ladle_host_fabric.md R202 to R206; spec/09_ordering_rules.md R170).
-/

namespace Sys2Proof.Machine

/-- Collectives a device runs at once (R203). -/
def collLimit : Nat := 16

/-- Whether a TYPE code may stand in a descriptor (R202). -/
def collType (ty : Ty) : Bool :=
  ty == .i32 || ty == .n32 || ty == .i64 || ty == .n64 || ty == .f32 || ty == .f16 || ty == .bf16

/-- Whether a descriptor breaks a rule of R203 step 2, for a device number. -/
def collBad (dev : Nat) (bs : List Byte) : Bool :=
  let w := recWord bs
  let w0 := w 0
  let cop := bits w0 8 2
  let red := bits w0 10 2
  bits w0 0 8 != 0x10 || bits w0 26 6 != 0 || bits w0 19 1 != 0 || 2 < red || (1 < cop && red != 0) ||
    !collType (Ty.ofCode (BitVec.ofNat 4 (bits w0 12 4))) || 4 < bits w0 16 3 ||
    ((cop == 0 || cop == 3) && bits w0 20 6 != 0) || w 3 != 0 || w 6 != 0 || bits (w 7) 16 48 != 0 ||
    ((List.range 8).any fun i => w (8 + i) != 0) || w 2 == 0 || 2 ^ 32 < w 2 || w 4 % 16 != 0 || w 5 % 16 != 0 ||
    !(w 1).testBit dev || bits (w 7) 0 8 == 1

/-- The participants of a mask, ascending. -/
def collMembers (mask : DWord) : List Nat := (List.range 64).filter fun d => mask.getLsbD d

namespace State

/-- Steps 1 to 6 of R175 for a descriptor. Where it lies in no memory of the device or its host, it is no descriptor
(notes/assumptions/13.md). -/
def collTarget (s : State) (r : ThreadRef) (t : Thread) (base : Src) (off : Word) : Except (Option Trap) Nat × State :=
  let va := formAddr t (lineRef base off)
  match firstPoison t [(base, 2)] with
  | some p => (.error (some p), s)
  | none =>
    if va.toNat % 128 != 0 then (.error (some { kind := .align, sub := 0x01, addr := va }), s)
    else
      let a := s.accessor r
      match s.translate a va .read with
      | (.error x, s) => (.error x, s)
      | (.ok (.mem pa), s) =>
        match s.keyFault a.kslot va (.mem pa) with
        | some x => (.error (some x), s)
        | none => (.ok pa, s)
      | (.ok _, s) => (.error (some { kind := .illegal, sub := 0x08 }), s)

/-- The 128 bytes of a descriptor, with the core's own copies of its lines at their home. -/
def readDesc (s : State) (core pa : Nat) : List Byte × Bool × State :=
  let s := (((s.verify pa).verify (pa + 64)).flushCore core pa).flushCore core (pa + 64)
  let (bs, p) := s.readHomeBytes pa 128
  (bs, p, s)

/-- The threads of every core that wait as told reissue. -/
def wakeAllCopy (s : State) (p : CopyWait → Bool) : State :=
  (List.range s.cores.length).foldl (fun s n => s.wakeCopy n p) s

/-- The end of a collective: CSTATE and FCODE are written, its waiters and those that wait for room reissue. -/
def endColl (s : State) (c : Coll) (cstate : Nat) (fcode : Byte) : State :=
  let s := (s.afterChange [c.desc]).storeHomeBytes (c.desc + 56) (leBytes 1 cstate ++ [fcode]) false
  ({ s with colls := s.colls.erase c } : State).wakeAllCopy fun w => w == .coll c.desc || w == .freeColl

/-! ## Buffers -/

/-- The accessor of a collective: its issuing thread's context. -/
def collAccessor (s : State) (c : Coll) : Accessor :=
  { core := c.core, user := c.user, asid := c.ctx.asid, ptroot := c.ctx.ptroot, kslot := c.ctx.kslot
    window := if c.user then none else (s.core? c.core).map fun k => k.window.toNat }

/-- One granule of a buffer translated: it lies in local memory, or the buffer faults. -/
def collPage (s : State) (a : Accessor) (va : DWord) (k : AccessKind) : Option Nat × State :=
  let (pa, s) := s.devTranslate a va k
  (pa, { s with devWaits := false })

/-- Bytes of a buffer with a mark for each, granule by granule; none where a page faults. -/
def readBuf (s : State) (a : Accessor) (va : DWord) (n : Nat) : Nat → Option (List (Byte × Bool)) × State
  | 0 => (some [], s)
  | fuel + 1 =>
    if n = 0 then (some [], s)
    else match s.collPage a va .read with
      | (none, s) => (none, s)
      | (some pa, s) =>
        let k := min 16 n
        let s := (s.verify (lineOf pa)).flushCore a.core (lineOf pa)
        let (bs, p) := s.readHome pa k
        match s.readBuf a (va + 16) (n - k) fuel with
        | (some l, s) => (some ((bs.map fun b => (b, p)) ++ l), s)
        | (none, s) => (none, s)

/-- Whether every granule of a buffer translates for a write. -/
def bufFits (s : State) (a : Accessor) (va : DWord) (n : Nat) : Nat → Bool × State
  | 0 => (true, s)
  | fuel + 1 =>
    if n = 0 then (true, s)
    else match s.collPage a va .write with
      | (none, s) => (false, s)
      | (some _, s) => s.bufFits a (va + 16) (n - min 16 n) fuel

/-- Bytes with marks written to a buffer, granule by granule from number `i` on. A granule that is not chosen, or whose page
faults, keeps its old bytes. -/
def writeBuf (s : State) (a : Accessor) (va : DWord) (chosen : Nat → Bool) (l : List (Byte × Bool)) (i : Nat) : Nat → State
  | 0 => s
  | fuel + 1 =>
    if l.isEmpty then s
    else
      let s := if !chosen i then s else
        match s.collPage a va .write with
        | (none, s) => s
        | (some pa, s) =>
          let part := l.take 16
          s.storeHome pa (part.map Prod.fst) (if part.any Prod.snd then 0xF else 0)
      s.writeBuf a (va + 16) chosen (l.drop 16) (i + 1) fuel

/-- Whether a page of a buffer is flipping or changing its slot, so that the collective waits (R209). -/
def bufBusy (s : State) (a : Accessor) (va : DWord) (n : Nat) (k : AccessKind) : Bool :=
  (List.range (n / 4096 + 2)).any fun i => 4096 * i < n + 4096 &&
    (({ s with devWaits := false } : State).devTranslate a (va + BitVec.ofNat 64 (4096 * i)) k).2.devWaits

/-- Whether what the end of a collective writes has to wait: its descriptor, or its output (R209, R210). -/
def endBusy (s : State) (c : Coll) (outs : Nat) : Bool :=
  (s.afterChange [c.desc]).pageBusy c.desc || s.bufBusy (s.collAccessor c) c.outbuf outs .write

/-! ## Results (R204) -/

/-- Element `i` of a participant's input, with its mark. -/
def elemAt (w : Nat) (l : List (Byte × Bool)) (i : Nat) : Nat × Bool :=
  let e := (l.drop (w / 8 * i)).take (w / 8)
  (leNat (e.map Prod.fst), e.any Prod.snd)

/-- Reduce over the terms of one element. -/
def collReduce (c : Coll) (xs : List Nat) : Nat :=
  let op : RedOp := if c.red = 0 then .add else if c.red = 1 then .min else .max
  let m := (Rm.ofCode? c.rm).getD .rne
  match reduce op c.ty m xs with
  | .value x _ => x % 2 ^ c.ty.width
  | .exact v _ => (c.ty.format.round v m false).1
  | .pred _ => 0

/-- What this device writes to its output, from the inputs of the participants in order of device number. -/
def collOutput (c : Coll) (dev : Nat) (ins : List (Nat × List (Byte × Bool))) : List (Byte × Bool) :=
  let w := c.ty.width
  let reduced := (List.range c.count).flatMap fun i =>
    let es := ins.map fun x => elemAt w x.2 i
    (leBytes (w / 8) (collReduce c (es.map Prod.fst))).map fun b => (b, es.any Prod.snd)
  match c.cop with
  | 0 => reduced
  | 1 => if c.root = dev then reduced else []
  | 2 => ((ins.find? fun x => x.1 == c.root).map Prod.snd).getD []
  | _ => (ins.map Prod.snd).flatten

/-- The bytes of a peer's input with marks, from the numbers of its poisoned elements. -/
def markedInput (w : Nat) (bs : List Byte) (pois : List Nat) : List (Byte × Bool) :=
  bs.zipIdx.map fun (b, i) => (b, pois.contains (i / (w / 8)))

/-- The numbers of the poisoned elements of an input. -/
def poisonedElems (w : Nat) (l : List (Byte × Bool)) : List Nat :=
  (List.range (l.length / (w / 8))).filter fun i => (elemAt w l i).2

/-- Bytes this device's part of a collective writes: a reduce writes at its root alone. -/
def collOutSize (c : Coll) (dev : Nat) : Nat :=
  let n := c.count * c.ty.width / 8
  match c.cop with
  | 1 => if c.root = dev then n else 0
  | 3 => n * (collMembers c.mask).length
  | _ => n

/-- Whether the two buffers overlap in a way R204 does not allow. -/
def collOverlap (c : Coll) (dev : Nat) : Bool :=
  let i := c.inbuf.toNat
  let o := c.outbuf.toNat
  let outs := collOutSize c dev
  (c.cop == 3 || i != o) && i < o + outs && o < i + c.count * c.ty.width / 8

/-- The end of a collective that failed: each granule of its output holds old bytes or result bytes, and nothing says which.
Where the inputs are not at hand, neither are the result bytes. -/
def failColl (s : State) (c : Coll) (fcode : Byte) (result : Option (List (Byte × Bool))) : State :=
  let n := collOutSize c s.dev
  let l := result.getD ((List.range n).map (Config.collResult s.free))
  let put := Config.collChosen s.free
  let s := ({ s with free := s.free + 1 } : State).writeBuf (s.collAccessor c) c.outbuf put l 0 (n / 16 + 1)
  s.endColl c 3 fcode

/-- A failure that this device finds, made known to the other participants. -/
def failHere (s : State) (c : Coll) (fcode : Byte) (result : Option (List (Byte × Bool))) : State :=
  (s.send (.collectiveFailed c.cid fcode)).failColl c fcode result

/-- A collective whose participants have all started runs to its end. -/
def runColl (s : State) (c : Coll) (others : List (Nat × List (Byte × Bool))) : State :=
  let a := s.collAccessor c
  let n := c.count * c.ty.width / 8
  let outs := collOutSize c s.dev
  match s.readBuf a c.inbuf n (n / 16 + 1) with
  | (none, s) => s.failHere c 0x03 none
  | (some own, s) =>
    let s := s.send (.collective c.cid (own.map Prod.fst) (poisonedElems c.ty.width own))
    let ins := (collMembers c.mask).filterMap fun d =>
      if d = s.dev then some (d, own) else (lookup others d).map fun l => (d, l)
    let out := collOutput c s.dev ins
    match s.bufFits a c.outbuf outs (outs / 16 + 1) with
    | (false, s) => s.failHere c 0x03 (some out)
    | (true, s) =>
      let put := if collOverlap c s.dev then Config.collChosen s.free else fun _ => true
      let s := ({ s with free := s.free + 1 } : State).writeBuf a c.outbuf put out 0 (outs / 16 + 1)
      s.endColl c 2 0

end State

/-! ## Instructions -/

/-- `coll` (R203). It is held until what its core has sent to peers is answered: those accesses go before every participant's
`collwait` (R170). -/
def execColl (g : Guard) (base : Src) (off : Word) (s : State) : Host.Outcome State Fault Refusal :=
  issue s g [(base, 2)] [] [] fun t =>
    let r := s.issuer
    let va := formAddr t (lineRef base off)
    match s.collTarget r t base off with
    | (.error x, s) => .turned s x
    | (.ok pa, s) =>
      if !t.queue.isEmpty || State.accessWaits t || !s.peersQuiet r || s.pageBusy pa then .hold s
      else
        let (bs, pois, s) := s.readDesc r.core pa
        let w := recWord bs
        let mask := BitVec.ofNat 64 (w 1)
        let others := (collMembers mask).filter (· != s.dev)
        if pois then .trap s { kind := .poison, sub := State.failSub .load 0, addr := va }
        else if collBad s.dev bs then .trap s { kind := .illegal, sub := 0x08 }
        else if !others.isEmpty && !s.part.fab then .trap s { kind := .unitAbsent, sub := 0 }
        else match others.find? s.unreach with
          | some d => .trap s { kind := .unreach, sub := BitVec.ofNat 8 d, addr := va }
          | none =>
            if collLimit ≤ s.colls.length then .park s (.copy .freeColl)
            else
              let a := s.accessor r
              let c : Coll :=
                { desc := pa, descVa := va, cop := bits (w 0) 8 2, red := bits (w 0) 10 2
                  ty := Ty.ofCode (BitVec.ofNat 4 (bits (w 0) 12 4)), rm := bits (w 0) 16 3, root := bits (w 0) 20 6
                  cid := BitVec.ofNat 32 (bits (w 0) 32 32), mask, count := w 2, inbuf := BitVec.ofNat 64 (w 4)
                  outbuf := BitVec.ofNat 64 (w 5), core := r.core, user := a.user
                  ctx := { ctxn := 0, kslot := a.kslot, asid := a.asid, ptroot := a.ptroot, callring := 0, sigvec := 0 } }
              let s := (s.storeHomeBytes (pa + 56) (leBytes 1 1) false).send (.collective c.cid (bs.take 32) [])
              .next { s with colls := s.colls ++ [c] }

/-- `collwait` (R205). -/
def execCollwait (g : Guard) (base : Src) (off : Word) (s : State) : Host.Outcome State Fault Refusal :=
  issue s g [(base, 2)] [] [] fun t =>
    let r := s.issuer
    let va := formAddr t (lineRef base off)
    match s.collTarget r t base off with
    | (.error x, s) => .turned s x
    | (.ok pa, s) =>
      if !t.queue.isEmpty || State.accessWaits t || s.pageBusy pa then .hold s
      else
        let (bs, pois, s) := s.readDesc r.core pa
        let w7 := recWord bs 7
        if pois then .trap s { kind := .poison, sub := State.failSub .load 0, addr := va }
        else match bits w7 0 8 with
          | 1 => .park s (.copy (.coll pa))
          | 2 => .next (s.dropClean r.core)
          | 3 => .trap s { kind := .remoteFault, sub := BitVec.ofNat 8 (bits w7 8 8), addr := va }
          | _ => .next s

/-! ## Events -/

/-- Whether a participant of a collective keeps it from going on: its allowance is held (R206). -/
def collPaused (s : State) (c : Coll) : Bool := (collMembers c.mask).any fun d => d != s.dev && (s.dest d).held

/-- Whether another running collective of this device has the same CID, so that both fail (R206). -/
def collTwin (s : State) (c : Coll) : Bool := 1 < (s.colls.filter (·.cid == c.cid)).length

/-- A collective completes when every participant's input is at hand. -/
def execCollectiveComplete (k : Nat) (inputs : List (Nat × List Byte × List Nat)) (s : State) :
    Host.Outcome State Fault Refusal :=
  .next (s.ifRuns (match s.colls[k]? with
    | none => s
    | some c =>
      let n := c.count * c.ty.width / 8
      let others := (collMembers c.mask).filter (· != s.dev)
      let ok := others.all fun d => inputs.any fun x => x.1 == d && x.2.1.length == n
      if !ok || collTwin s c || collPaused s c || others.any s.unreach || s.bufBusy (s.collAccessor c) c.inbuf n .read ||
          s.endBusy c (State.collOutSize c s.dev) then s
      else s.runColl c (inputs.map fun x => (x.1, State.markedInput c.ty.width x.2.1 x.2.2))))

/-- A collective fails for one of the causes of R206: a CID is in use twice here, or a participant is out of reach of this
device, of which the others are told; or another participant has found a cause. Two of one CID fail together. -/
def execCollectiveFail (k : Nat) (fcode : Byte) (s : State) : Host.Outcome State Fault Refusal :=
  .next (s.ifRuns (match s.colls[k]? with
    | none => s
    | some c =>
      let others := (collMembers c.mask).filter (· != s.dev)
      let fails := if fcode = 0x01 && collTwin s c then s.colls.filter (·.cid == c.cid) else [c]
      if fails.any fun d => s.endBusy d (State.collOutSize d s.dev) then s
      else if fcode = 0x01 && collTwin s c then fails.foldl (fun s d => s.failHere d 0x01 none) s
      else if fcode = 0x02 && others.any s.unreach then s.failHere c 0x02 none
      else if (fcode = 0x01 || fcode = 0x02 || fcode = 0x03) && !others.isEmpty then s.failColl c fcode none
      else s))

end Sys2Proof.Machine
end

