-- ==== Sys2Proof/Machine/Priv.lean ====
section
/-!
DEFINITION. What the privileged class shares: the mode check, the checks of sources, status words and PA operands
(spec/20_system_isa.md R313, R315 to R317).
-/

namespace Sys2Proof.Machine

/-- PRIV (R39, R255). -/
def privTrap : Trap := { kind := .priv, sub := 0 }

/-- The guard that always holds. -/
def always : Guard := { neg := false, q := 0 }

/-- A privileged instruction: a user thread raises PRIV, whatever its guard (R42 step 3); a Caster thread's poisoned
source is a machine check, but for those of `travels` (R315). -/
def privOp (s : State) (g : Guard) (srcs travels : List (Src × Nat)) (dsts : List (Reg × Nat)) (body : Nat → Thread → Eff) :
    Host.Outcome State Fault Refusal :=
  match s.issuer.who with
  | .user .. => issue s always [] [] [] fun _ => .trap s privTrap
  | .caster n =>
    issue s g (srcs ++ travels) dsts [] fun t =>
      match firstPoison t srcs with
      | some p => .trap s p
      | none => body n t

/-- The status codes of R317. -/
inductive Status where
  | ok | stale | tag | format | noRoom | noKey | ctxBad | badAddr | noTask | inUse | pending | noPlan | invalid
  deriving DecidableEq, Repr

def Status.code : Status → Word
  | .ok => 0x00 | .stale => 0x01 | .tag => 0x02 | .format => 0x03 | .noRoom => 0x04 | .noKey => 0x05 | .ctxBad => 0x06
  | .badAddr => 0x07 | .noTask => 0x08 | .inUse => 0x09 | .pending => 0x0A | .noPlan => 0x0B | .invalid => 0x0C

namespace State

/-- A word written to a register of the issuing thread. -/
def giveReg (s : State) (d : Reg) (x : Word) : State := s.modThread s.issuer fun t => t.setReg d x

/-- A status written to the destination. -/
def answer (s : State) (d : Reg) (x : Status) : State := s.giveReg d x.code

/-- Whether `n` bytes at a PA operand lie in local HBM, aligned to 64 bytes (R317). -/
def paOk (s : State) (pa n : Nat) : Bool := pa % 64 == 0 && pa + n ≤ s.part.hbmBytes

end State

end Sys2Proof.Machine
end

