-- ==== Sys2Proof/Machine/Control.lean ====
section
/-!
DEFINITION. The control class: transfers, `join`, `exit`, `yield`, `launch`, and the control registers
(spec/14_progress_isa.md R249 to R256; spec/20_system_isa.md R314, R384; spec/12_threads_groups.md R224, R225).
-/

namespace Sys2Proof.Machine

/-! ## Transfers (R250) -/

/-- A control transfer to a target that R27 checks; `put` is what it writes in the same step. -/
def transfer (s : State) (r : ThreadRef) (target : DWord) (put : State → State) : Eff :=
  match s.checkTarget r target with
  | (.ok, s) => .jump (put s) target
  | (.trap t, s) => .trap s t
  | (.check, s) => .hold (s.fetchCheck r (pcLine target))
  | (.wait, s) => .hold s

/-- A transfer through a register pair: poison before the check of the target. -/
def transferReg (s : State) (t : Thread) (a : Src) (put : State → State) : Eff :=
  match firstPoison t [(a, 2)] with
  | some p => .trap s p
  | none => transfer s s.issuer (t.reg64 a.reg) put

/-- The link register pair, read under FEB 0. -/
def linkSrc : Src := { reg := 62, trap := false }

/-- The link of a call written: v62:v63 := NextPC. -/
def putLink (r : ThreadRef) (t : Thread) (s : State) : State :=
  s.modThread r fun th => th.setRegs 62 2 (nextPC t.pc).toNat 0

/-- `bra` (R250). -/
def execBra (g : Guard) (imm : Word) (s : State) : Host.Outcome State Fault Refusal :=
  issue s g [] [] [] fun t => transfer s s.issuer (relTarget t.pc imm) id

/-- `brx` (R250). -/
def execBrx (g : Guard) (a : Src) (s : State) : Host.Outcome State Fault Refusal :=
  issue s g [(a, 2)] [] [] fun t => transferReg s t a id

/-- `call` (R250). -/
def execCall (g : Guard) (imm : Word) (s : State) : Host.Outcome State Fault Refusal :=
  issue s g [] [(62, 2)] [] fun t => transfer s s.issuer (relTarget t.pc imm) (putLink s.issuer t)

/-- `call.r` (R250). -/
def execCallR (g : Guard) (a : Src) (s : State) : Host.Outcome State Fault Refusal :=
  issue s g [(a, 2)] [(62, 2)] [] fun t => transferReg s t a (putLink s.issuer t)

/-- `ret` (R250). -/
def execRet (g : Guard) (s : State) : Host.Outcome State Fault Refusal :=
  issue s g [(linkSrc, 2)] [] [] fun t => transferReg s t linkSrc id

/-! ## Joins (R224, R251) -/

/-- A thread arrives at a join. -/
def arriveJoin (s : State) (r : ThreadRef) (set : JoinSet) : Eff :=
  .stay (s.modThread r fun t => { t with state := .join set, wait := 0 })

/-- `join.seg` (R251). -/
def execJoinSeg (g : Guard) (s : State) : Host.Outcome State Fault Refusal :=
  issue s g [] [] [] fun _ =>
    let r := s.issuer
    let (place, tidx) := keyOf r.who
    let w := s.segWidth r.core place
    arriveJoin s r (.seg (tidx / w * w) w)

/-- `join.task` (R251). -/
def execJoinTask (g : Guard) (s : State) : Host.Outcome State Fault Refusal :=
  issue s g [] [] [] fun _ => arriveJoin s s.issuer .task

/-- `join.m` (R251). -/
def execJoinM (g : Guard) (a : Src) (base : BitVec 10) (s : State) : Host.Outcome State Fault Refusal :=
  issue s g [(a, 1)] [] [] fun t =>
    match firstPoison t [(a, 1)] with
    | some p => .trap s p
    | none => arriveJoin s s.issuer (.mask base.toNat (t.reg a.reg))

/-! ## exit and yield (R252, R253) -/

/-- Whether a copy a thread issued is not complete. -/
def copyOpen (s : State) (r : ThreadRef) : Bool :=
  (((s.core? r.core).map Core.copies).getD []).any fun c =>
    c.place == (keyOf r.who).1 && c.tidx == (keyOf r.who).2 && c.state != .complete

/-- Whether an `exit` waits for an access: one not delivered, acknowledged or failed. A store to local memory or a
scratchpad may stay in the queue. -/
def exitWaits (s : State) (r : ThreadRef) (t : Thread) : Bool :=
  !t.pend.isEmpty || s.peerOpen r || t.queue.any fun q => match q.target with
    | .peer .. => true
    | _ => false

/-- The ids of a thread's complete copies freed (R252 step 4). -/
def freeCopies (s : State) (r : ThreadRef) : State :=
  ((((s.core? r.core).map Core.copies).getD []).filter fun c =>
      c.place == (keyOf r.who).1 && c.tidx == (keyOf r.who).2).foldl (fun s c => s.freeCopy r.core c.id) s

/-- Steps 3 to 6 of R252. -/
def exitThread (s : State) (r : ThreadRef) : State :=
  let s := (freeCopies (s.exitCrus r.core (keyOf r.who).1 (keyOf r.who).2) r).unsubscribe r.core (keyOf r.who) fun _ => true
  (s.leaveInsts r).modThread r fun t => { t with exited := true, signal := none, wait := 0 }

/-- `exit` (R252). -/
def execExit (g : Guard) (s : State) : Host.Outcome State Fault Refusal :=
  issue s g [] [] [] fun t =>
    let r := s.issuer
    match r.who with
    | .caster _ => .trap s { kind := .illegal, sub := 0x03 }
    | .user .. => if exitWaits s r t || copyOpen s r then .hold s else .stay (exitThread s r)

/-- `yield` (R253). -/
def execYield (g : Guard) (s : State) : Host.Outcome State Fault Refusal :=
  issue s g [] [] [] fun _ => .next (s.modThread s.issuer fun t => { t with yielded := true })

/-- 256 cycles have passed since a `yield`, or no other thread of the core is runnable. -/
def execYieldExpiry (t : ThreadRef) (s : State) : Host.Outcome State Fault Refusal :=
  .next (s.ifRuns (s.modThread t fun th => { th with yielded := false }))

/-! ## launch (R233, R254) -/

/-- The accessor and context-table entry with which the device acts for a launch of a thread (R385). A Caster thread
has no entry: 1024 is that of none. -/
def launchContext (s : State) (r : ThreadRef) : Accessor × Nat :=
  let a := s.accessor r
  (contextAccessor r.core a.asid a.ptroot a.kslot, ((s.taskOf? r).map fun k => k.ctx.ctxn).getD 1024)

/-- `launch` (R254). -/
def execLaunch (g : Guard) (base : Src) (off : Word) (s : State) : Host.Outcome State Fault Refusal :=
  issue s g [(base, 2)] [] [] fun t =>
    let r := s.issuer
    match firstPoison t [(base, 2)] with
    | some p => .trap s p
    | none =>
      let va := formAddr t (lineRef base off)
      let bad (sub : Byte) (w2 : DWord) : Trap := { kind := .launchBad, sub, addr := w2 }
      if va.toNat % 128 != 0 then .trap s { kind := .align, sub := 0x01, addr := va }
      else match s.devTranslate (s.accessor r) va .read with
        | (none, s) => if s.devWaits then .hold { s with devWaits := false } else .trap s (bad 0x0A va)
        | (some pa, s) =>
          if s.devWaits then .hold { s with devWaits := false }
          else if !s.releaseReady r .dev then State.awaitRelease s r .dev
          else
            let (bs, pois, s) := s.devLoad pa 128
            if pois then .trap s (bad 0x0A va)
            else match recFault s.part bs with
            | some sub => .trap s (bad sub 0)
            | none =>
              let (a, ctxn) := launchContext s r
              let t := s.submit a ctxn none va pa bs
              if t.devWaits then .hold s else .next t

/-! ## Control registers (R255, R256, R314, R384) -/

/-- RISERCNT (R314). -/
def riserCount (c : Core) : Nat := min (c.stalled.filter FaultRec.shown).length 255 * 256 + (State.shownRecords c).length

/-- SHELLCTR of the slot KSLOT names; slot 0 holds no key (R303, R314). -/
def shellCtr (s : State) (c : Core) : DWord := (s.keySlot c.kslot.toNat).ctr

/-- HEALTH (R314). -/
def healthWord (s : State) : Nat :=
  let bays := (s.cores.map fun c => s.part.bays - c.bays.length).foldl (· + ·) 0
  let out := (s.cores.filter fun c => c.service != .running || c.bays.isEmpty).length
  boolBit s.health.rr 63 + bays % 2 ^ 16 * 2 ^ 32 + out % 256 * 2 ^ 24 + s.health.lanesDown.length % 4096 * 2 ^ 12 +
    min s.health.retired.length 4095

/-- PLANSTAT (R314). -/
def planStat (s : State) : DWord :=
  s.planSeq ++ 0#16 ++ s.planNunr ++ 0#4 ++ BitVec.ofBool s.staged.isSome ++ BitVec.ofBool s.planErr ++
    BitVec.ofBool s.commit.isSome ++ 0#1

/-- MODE of a Caster thread (R314). -/
def modeWord (k : Caster) : Nat := k.arg.toNat * 2 ^ 32 + k.cause.toNat * 16 + 1

/-- A user control register as thread `r` reads it (R256, R384). -/
def userReg (s : State) (r : ThreadRef) (t : Thread) (n : Nat) : Option Nat :=
  let task (f : Task → Nat) (caster : Nat) : Option Nat := some (((s.taskOf? r).map f).getD caster)
  let (place, tidx) := keyOf r.who
  match n with
  | 0x001 => some t.fpctl.toNat
  | 0x002 => some (s.groupGrant r.core place)
  | 0x003 => task Task.segw 0
  | 0x004 => some (tidx % s.groupGrant r.core place)
  | 0x005 => some tidx
  | 0x006 => task (fun k => k.threads.length) 8
  | 0x008 => task (fun k => k.coord.1.toNat) 0
  | 0x009 => task (fun k => k.coord.2.1.toNat) 0
  | 0x00A => task (fun k => k.coord.2.2.toNat) 0
  | 0x00B => task (fun k => k.lid.toNat) 0
  | 0x00C => some r.core
  | 0x00D => some s.dev
  | 0x010 => some s.cycle.toNat
  | 0x020 => task (fun k => k.watch0.addr.toNat) 0
  | 0x021 => task (fun k => k.watch0.ctl.toNat) 0
  | 0x022 => task (fun k => k.watch1.addr.toNat) 0
  | 0x023 => task (fun k => k.watch1.ctl.toNat) 0
  | 0x040 => some s.part.feat.toNat
  | _ => none

/-- A privileged control register (R314). -/
def privReg (s : State) (core n : Nat) (creg : Nat) : Option Nat :=
  match s.core? core with
  | none => none
  | some c =>
    match creg with
    | 0x800 => some ((c.casters[n]?.map modeWord).getD 1)
    | 0x801 => some c.asid.toNat
    | 0x802 => some c.kslot.toNat
    | 0x803 => some c.ptroot.toNat
    | 0x804 => some c.forebase.toNat
    | 0x805 => some c.callring.toNat
    | 0x806 => some c.sigvec.toNat
    | 0x807 => some (((State.shownRecords c).head?.map FaultRec.w0).getD 0)
    | 0x808 => some (riserCount c)
    | 0x809 => some (shellCtr s c).toNat
    | 0x80A => some (healthWord s)
    | 0x80B => some (planStat s).toNat
    | _ => none

/-- The value `ctlrd` reads, or its trap. -/
def readCtl (s : State) (r : ThreadRef) (t : Thread) (creg : Nat) : Except Trap Nat :=
  let v : Except Trap (Option Nat) :=
    if creg < 0x800 then .ok (userReg s r t creg)
    else match r.who with
      | .user .. => .error privTrap
      | .caster n => .ok (privReg s r.core n creg)
  match v with
  | .error x => .error x
  | .ok (some x) => .ok x
  | .ok none => .error { kind := .illegal, sub := 0x09 }

/-- Registers of a control register's value. -/
def ctlWords (creg : BitVec 12) : Nat := if cregIs64 creg then 2 else 1

/-- `ctlrd` (R255). -/
def execCtlrd (g : Guard) (d : Reg) (creg : BitVec 12) (s : State) : Host.Outcome State Fault Refusal :=
  issue s g [] [(d, ctlWords creg)] [] fun t =>
    match readCtl s s.issuer t creg.toNat with
    | .error x => .trap s x
    | .ok v => .next (s.modThread s.issuer fun t => t.setRegs d (ctlWords creg) v 0)

/-- The values SEGW may hold (R225). -/
def segwOk (v : Nat) : Bool := [0, 8, 16, 32, 64, 128].contains v

/-- The arrivals of the open instances whose segment includes thread `tidx` undone (R256). -/
def undoSegment (t : Task) (tidx : Nat) : Task :=
  let mine (i : Instance) : Bool := i.base ≤ tidx && tidx < i.base + i.width
  let who := (t.insts.filter mine).flatMap fun i => i.arrivals.map Arrival.tidx
  { t with insts := t.insts.filter fun i => !mine i
           threads := t.threads.zipIdx.map fun (th, n) =>
             if who.contains n && th.state == .xlane then { th with state := .runnable } else th }

/-- A write of SEGW (R225, R256). -/
def writeSegw (s : State) (r : ThreadRef) (v : Nat) : Eff :=
  if !segwOk v then .trap s { kind := .illegal, sub := 0x03 }
  else match s.taskOf? r with
    | none => .next s
    | some k =>
      if k.segw = v then .next s
      else
        let (place, tidx) := keyOf r.who
        let s := s.modTask r.core place fun k => undoSegment k tidx
        if (undoSegment k tidx).insts.isEmpty then .next (s.modTask r.core place fun k => { k with segw := v }) else .hold s

/-- The bits of WPCTL a write reaches (R348). -/
def wpMask : Nat := 0x8FFF

/-- A write of a control register by thread `r` (R255, R256, R314, R348, R384). -/
def writeCtl (s : State) (r : ThreadRef) (creg v : Nat) : Eff :=
  let illegal (sub : Byte) : Eff := .trap s { kind := .illegal, sub }
  let watch (f : Task → Task) : Eff := .next (s.modTask r.core (keyOf r.who).1 f)
  let core (f : Core → Core) : Eff := .next (s.modCore r.core f)
  let caster : Bool := (keyOf r.who).1 = casterPlace
  if 0x800 ≤ creg && !caster then .trap s privTrap
  else match creg with
    | 0x001 => .next (s.modThread r fun t => { t with fpctl := BitVec.ofNat 32 (v % 2 ^ 14) })
    | 0x003 => if caster then illegal 0x0A else writeSegw s r v
    | 0x020 => if caster then illegal 0x0A else watch fun k => { k with watch0 := { k.watch0 with addr := BitVec.ofNat 64 v } }
    | 0x021 =>
      if caster then illegal 0x0A
      else watch fun k => { k with watch0 := { k.watch0 with ctl := BitVec.ofNat 32 (v &&& wpMask) } }
    | 0x022 => if caster then illegal 0x0A else watch fun k => { k with watch1 := { k.watch1 with addr := BitVec.ofNat 64 v } }
    | 0x023 =>
      if caster then illegal 0x0A
      else watch fun k => { k with watch1 := { k.watch1 with ctl := BitVec.ofNat 32 (v &&& wpMask) } }
    | 0x801 => core fun c => { c with asid := BitVec.ofNat 16 v }
    | 0x802 => core fun c => { c with kslot := BitVec.ofNat 8 v }
    | 0x803 => core fun c => { c with ptroot := BitVec.ofNat 64 v &&& 0xC0000FFFFFFFFFFF }
    | 0x804 => core fun c => { c with forebase := BitVec.ofNat 64 v &&& 0x00FFFFFFFFC00000 }
    | 0x805 => core fun c => { c with callring := BitVec.ofNat 64 v }
    | 0x806 => core fun c => { c with sigvec := BitVec.ofNat 64 v }
    | _ =>
      match s.thread? r with
      | none => .next s
      | some t =>
        match readCtl s r t creg with
        | .ok _ => illegal 0x0A
        | .error x => .trap s x

/-- `ctlwr` of a register (R255): FPCTL and SEGW refuse a poisoned value. -/
def execCtlwr (g : Guard) (creg : BitVec 12) (a : Src) (s : State) : Host.Outcome State Fault Refusal :=
  issue s g [(a, ctlWords creg)] [] [] fun t =>
    let checksPoison := creg == 0x001 || (creg == 0x003 && (keyOf s.issuer.who).1 != casterPlace)
    match if checksPoison then firstPoison t [(a, 1)] else none with
    | some p => .trap s p
    | none => writeCtl s s.issuer creg.toNat (t.regsNat a.reg (ctlWords creg))

/-- `ctlwr` of an immediate value (R255). -/
def execCtlwrImm (g : Guard) (creg : BitVec 12) (n : BitVec 20) (s : State) : Host.Outcome State Fault Refusal :=
  issue s g [] [] [] fun _ => writeCtl s s.issuer creg.toNat n.toNat

end Sys2Proof.Machine
end

