-- ==== Sys2Proof/Machine/Convert.lean ====
section
/-!
DEFINITION. Conversions: `cvt`, `pack`, `unpack` (spec/05_element_isa.md R104 to R106; spec/04_numbers.md R75 to R77).
-/

namespace Sys2Proof.Machine

/-- One element converted from a float format to a float format, an integer to a float, or a float to an integer. -/
def convert (ty sty : Ty) (m : Rm) (sat : Bool) (x : Nat) : Nat × Flags :=
  if sty.isInt then
    let v := readInt sty x
    if ty.isInt then (intPlace ty sat v, 0) else ty.format.round (XVal.ofInt v) m sat
  else
    let (v, fl) := sty.format.val x
    if ty.isInt then
      let (y, f) := floatToInt ty v fl m
      (placeInt ty y, f)
    else
      let (y, f) := ty.format.round v m sat
      (y, fl ||| f)
where
  /-- R77. -/
  intPlace (ty : Ty) (sat : Bool) (v : Int) : Nat := placeInt ty (if sat then clampI ty v else v)

/-- Conversion between number types (R104). -/
def execCvt (g : Guard) (ty sty : Ty) (rm : RmField) (sat : Bool) (d : Reg) (a : Src) (s : State) :
    Host.Outcome State Fault Refusal :=
  floatOp s g (srcA sty a) [(d, tyRegs ty)] [] (!sty.isInt) (if ty.isInt && sty.isInt then none else some rm)
    (fun m t => elements ty (fun xs => convert ty sty m sat (xs.getD 0 0)) [valA t sty a])
    fun x t => t.setRegs d (tyRegs ty) x 0

/-- A packed register built from two sources (R105). -/
def execPack (g : Guard) (ty : Ty) (rm : RmField) (sat : Bool) (d : Reg) (a b : Src) (s : State) :
    Host.Outcome State Fault Refusal :=
  if ty = .b32 then
    carryOp s g [(a, 1), (b, 1)] d 1 [] fun t =>
      ((t.reg a.reg).toNat % 2 ^ 16 + (t.reg b.reg).toNat % 2 ^ 16 * 2 ^ 16, poisA t a 1 ||| poisA t b 1)
  else
    floatReg s g [(a, 1), (b, 1)] d (some rm) fun m t =>
      let e (r : Reg) : Nat × Flags :=
        let (v, fl) := fmtF32.val (t.reg r).toNat
        let (y, f) := ty.format.round v m sat
        (y, fl ||| f)
      ((e a.reg).1 + (e b.reg).1 * 2 ^ 16, (e a.reg).2 ||| (e b.reg).2)

/-- A packed register split into an even pair (R106). -/
def execUnpack (g : Guard) (ty : Ty) (d : Reg) (a : Src) (s : State) : Host.Outcome State Fault Refusal :=
  if ty = .b32 then
    carryOp s g [(a, 1)] d 2 [] fun t =>
      let x := (t.reg a.reg).toNat
      (x % 2 ^ 16 + x / 2 ^ 16 * 2 ^ 32, if t.isPois a.reg then 0b0011 else 0)
  else
    floatOp s g [(a, 1)] [(d, 2)] [] true none
      (fun m t =>
        let x := (t.reg a.reg).toNat
        let e (y : Nat) : Nat × Flags :=
          let (v, fl) := ty.format.val y
          ((fmtF32.round v m false).1, fl)
        ((e (x % 2 ^ 16)).1 + (e (x / 2 ^ 16)).1 * 2 ^ 32, (e (x % 2 ^ 16)).2 ||| (e (x / 2 ^ 16)).2))
      fun x t => t.setRegs d 2 x 0

end Sys2Proof.Machine
end

