-- ==== Sys2Proof/Machine/Crucible.lean ====
section
/-!
DEFINITION. The Crucible class and the events of the Crucibles: the checks of R125 in their order, and the effects
(spec/07_crucible_isa.md R121 to R139; spec/06_crucible_model.md R107 to R120).
-/

namespace Sys2Proof.Machine

/-! ## The checks of R125 -/

/-- The address of a scratchpad operand (R124). -/
def cruAddr (t : Thread) (a : Src) (off : Nat) : Nat := ((t.reg a.reg).toNat + 16 * off) % 2 ^ 20

/-- ILLEGAL 0x07, a misuse of a chain (R110) or equal slots of `mscale` (R125). -/
def misuseTrap : Trap := { kind := .illegal, sub := 0x07 }

/-- BOUNDS 0x01 of the first slot that the task has not (R124). -/
def slotTrap (slots : Nat) (l : List Nat) : Option Trap :=
  (l.find? fun x => slots ≤ x).map fun x => { kind := .bounds, sub := 0x01, what := 2, val := x }

/-- Steps 1 to 3 of R125 for a misuse, the slots named, and the scratchpad operands: register, OFF, bytes; of two slots or two
operands at fault the first of the list (notes/assumptions/112.md). -/
def cruFault (s : State) (r : ThreadRef) (t : Thread) (misuse : Bool) (slots : List Nat) (ops : List (Src × Nat × Nat)) :
    Option Trap :=
  if misuse then some misuseTrap
  else
    orTrap (slotTrap (((s.taskOf? r).map Task.accslots).getD 0) slots)
      (orTrap (firstPoison t (ops.map fun x => (x.1, 1)))
        (ops.findSome? fun (a, off, n) => State.operandFault (s.scratchSize r) (cruAddr t a off) n))

/-- Step 5 of R125: the image check, with the address of the image. -/
def imageTrap (f : Fmt) (k : Nat) (qt : Bool) (x : Nat) (bs : List Byte) : Option Trap :=
  if qt then (imageFault f k bs).map fun sub => { kind := .trailer, sub, addr := BitVec.ofNat 64 x } else none

/-- POISON 0x02 of the first of the slots that has a poisoned entry (R337). -/
def slotPoison (k : Task) (l : List Nat) : Option Trap :=
  (l.find? k.slotPois).map fun x => { kind := .poison, sub := 0x02, what := 2, val := x }

/-- POISON 0x03 of the first poisoned row of `n` rows of an active plane (R337). -/
def planePoison (k : Crucible) (cru row n : Nat) : Option Trap :=
  ((List.range n).find? fun i => k.apois.has (row + i)).map fun i =>
    { kind := .poison, sub := 0x03, addr := BitVec.ofNat 64 (cru * 256 + row + i) }

/-- Whether a slot is the target of a chain that step 6 of R125 waits for. -/
def chainWaits (s : State) (r : ThreadRef) (slots : List Nat) : Bool :=
  (s.core? r.core).any fun c => slots.any fun x => c.chainHolds (keyOf r.who).1 (keyOf r.who).2 x

/-! ## The named Crucible -/

/-- The Crucible an instruction names. -/
def cruOf (s : State) (r : ThreadRef) (n : Nat) : Crucible :=
  ((s.core? r.core).bind fun c => c.cru? n).getD Crucible.reset

/-- The chain the thread has open on Crucible `n`. -/
def openChain (s : State) (r : ThreadRef) (n : Nat) : Option Chain :=
  (cruOf s r n).openBy (keyOf r.who).1 (keyOf r.who).2

/-- The misuse of `mload` and `mflip` (R110): a chain open on the other Crucible, or to be restored there (R111, R114),
while this one is not held. On a part with one Crucible a chain saved on the other counts (notes/assumptions/129.md). -/
def otherChain (s : State) (r : ThreadRef) (n : Nat) : Bool :=
  (cruOf s r n).holder != some (keyOf r.who) &&
    ((openChain s r (1 - n)).isSome ||
      (s.savedPlane? r.core (keyOf r.who).1 (keyOf r.who).2 (1 - n)).any fun p => p.chain.isSome)

/-- What follows once the thread's atomics on its own scratchpad are performed (R127). -/
def afterOps (s : State) (r : ThreadRef) (k : Eff) : Eff := if s.scratchOpWaits r then .hold s else k

/-- Whether the other Crucible still has k-steps for a slot of the task: those of two chains are applied in program order
(R116). -/
def otherSteps (s : State) (r : ThreadRef) (n slot : Nat) : Bool :=
  (cruOf s r (1 - n)).jobs.any fun j => j.place == (keyOf r.who).1 && j.slot == slot

/-- The claim of R108, or the wait for it. -/
def claimed (s : State) (r : ThreadRef) (n : Nat) (k : State → Eff) : Eff :=
  match s.claim r.core (keyOf r.who).1 (keyOf r.who).2 n with
  | (true, s) => k s
  | (false, s) => .hold s

/-- A Crucible whose saved state came with the thread's shell is claimed and restored before the instruction itself
(R111). -/
def restored (s : State) (r : ThreadRef) (n : Nat) (k : State → Eff) : Eff :=
  match s.savedPlane? r.core (keyOf r.who).1 (keyOf r.who).2 n with
  | none => k s
  | some _ => claimed s r n k

/-- The trap of the first check that fails, or what follows. -/
def checked (s : State) (x : Option Trap) (k : Eff) : Eff :=
  match x with
  | some t => .trap s t
  | none => k

/-! ## Plane and chain instructions -/

/-- `mload` (R129). -/
def execMload (g : Guard) (fmt : Fmt) (ks : KStep) (qt : Bool) (cru : BitVec 1) (a : Src) (off : BitVec 16) (pr : BitVec 8)
    (s : State) : Host.Outcome State Fault Refusal :=
  issue s g [(a, 1)] [] [] fun t =>
    let r := s.issuer
    let n := cru.toNat
    afterOps s r <| restored s r n fun s =>
      let len := operandBytes fmt ks.k qt
      let x := cruAddr t a off.toNat
      let (bs, pois) := s.operandRead r (keyOf r.who).1 x len
      checked s (cruFault s r t (otherChain s r n) [] [(a, off.toNat, len)]) <|
      checked s (orTrap (imageTrap fmt ks.k qt x bs) pois) <|
      claimed s r n fun s =>
        .next (s.modCru r.core n fun k =>
          { k with shadow := k.shadow.write (pr.toNat * fmtBytes fmt 16) (planeRows fmt ks.k qt bs)
                   spois := k.spois.delRange pr.toNat ks.k })

/-- `mflip` (R107, R130). -/
def execMflip (g : Guard) (cru : BitVec 1) (s : State) : Host.Outcome State Fault Refusal :=
  issue s g [] [] [] fun _ =>
    let r := s.issuer
    let n := cru.toNat
    restored s r n fun s =>
      checked s (if otherChain s r n then some misuseTrap else none) <|
      claimed s r n fun s =>
        .next (s.modCru r.core n fun k =>
          { k with active := k.shadow, shadow := k.active, apois := k.spois, spois := k.apois })

/-- `mbegin` (R131). -/
def execMbegin (g : Guard) (fmt : Fmt) (cru : BitVec 1) (sla : BitVec 8) (s : State) : Host.Outcome State Fault Refusal :=
  issue s g [] [] [] fun t =>
    let r := s.issuer
    let n := cru.toNat
    restored s r n fun s =>
      checked s (cruFault s r t (openChain s r n).isSome [sla.toNat] []) <|
      if chainWaits s r [sla.toNat] then .hold s
      else claimed s r n fun s =>
        .next (s.modCru r.core n fun k => { k with chain := some { slot := sla.toNat, fmt, closed := false } })

/-- `mstream` (R132): the k-step joins those the engine has still to apply. -/
def execMstream (g : Guard) (fmt : Fmt) (ks : KStep) (qt : Bool) (cru : BitVec 1) (a : Src) (off : BitVec 16)
    (pr : BitVec 8) (s : State) : Host.Outcome State Fault Refusal :=
  issue s g [(a, 1)] [] [] fun t =>
    let r := s.issuer
    let n := cru.toNat
    afterOps s r <| restored s r n fun s =>
      let len := operandBytes fmt ks.k qt
      let x := cruAddr t a off.toNat
      let (bs, pois) := s.operandRead r (keyOf r.who).1 x len
      let k := cruOf s r n
      let ch := openChain s r n
      let slot := (ch.map Chain.slot).getD 0
      checked s (cruFault s r t (!(ch.any fun c => c.fmt == fmt)) [] [(a, off.toNat, len)]) <|
      checked s (orTrap (imageTrap fmt ks.k qt x bs) <| orTrap pois <|
        orTrap ((s.taskOf? r).bind fun q => slotPoison q [slot]) (planePoison k n pr.toNat ks.k)) <|
      let job : KStepJob :=
        { place := (keyOf r.who).1, slot, fmt, k := ks.k, act := bs
          rows := k.active.read (pr.toNat * fmtBytes fmt 16) (ks.k * fmtBytes fmt 16) }
      if otherSteps s r n slot then .hold s
      else .next (s.modCru r.core n fun k => { k with jobs := k.jobs ++ [job] })

/-- `mend` (R133). -/
def execMend (g : Guard) (cru : BitVec 1) (s : State) : Host.Outcome State Fault Refusal :=
  issue s g [] [] [] fun _ =>
    let r := s.issuer
    let n := cru.toNat
    restored s r n fun s =>
      checked s (if (openChain s r n).isNone then some misuseTrap else none) <|
      .next (s.closeChain r.core n)

/-! ## Slot instructions -/

/-- The task of a thread of the class changed. -/
def onTask (s : State) (r : ThreadRef) (f : Task → Task) : State := s.modTask r.core (keyOf r.who).1 f

/-- The wait of R113 and what follows. -/
def afterChains (s : State) (r : ThreadRef) (slots : List Nat) (k : Eff) : Eff :=
  if chainWaits s r slots then .hold s else k

/-- A write to the own scratchpad by the class: under FILL the full bits of its granules are set at its completion
(R127). The thread's queued stores to those bytes leave first. -/
def cruWrite (s : State) (r : ThreadRef) (x : Nat) (bs : List Byte) (fill : Bool) : Eff :=
  let (place, tidx) := keyOf r.who
  if s.storesMeet r place x bs.length || s.scratchOpWaits r then .hold s
  else
    let s := s.scratchWrite r.core place x bs false
    let fills := (List.range ((bs.length + 15) / 16)).map fun i => x / 16 + i
    .next (if fill then s.modCore r.core fun c => { c with work := c.work ++ [{ place, tidx, fills }] } else s)

/-- `mzero` (R134). -/
def execMzero (g : Guard) (sla : BitVec 8) (s : State) : Host.Outcome State Fault Refusal :=
  issue s g [] [] [] fun t =>
    let r := s.issuer
    checked s (cruFault s r t false [sla.toNat] []) <|
    afterChains s r [sla.toNat] <|
    .next (onTask s r fun k => k.putSlot sla.toNat fun _ => .zero)

/-- `minit` (R135). -/
def execMinit (g : Guard) (a : Src) (off : BitVec 16) (sla : BitVec 8) (s : State) : Host.Outcome State Fault Refusal :=
  issue s g [(a, 1)] [] [] fun t =>
    let r := s.issuer
    let (bs, pois) := s.operandRead r (keyOf r.who).1 (cruAddr t a off.toNat) 1024
    afterOps s r <|
    checked s (cruFault s r t false [sla.toNat] [(a, off.toNat, 1024)]) <|
    afterChains s r [sla.toNat] <|
    checked s pois <|
    .next (onTask s r fun k => k.putSlot sla.toNat fun e => .ofF32 (elemOf 32 ((bs.drop (4 * e)).take 4) 0))

/-- `mdrain` (R136). -/
def execMdrain (g : Guard) (ofmt : OFmt) (drm : RmField) (dsat fill : Bool) (a : Src) (off : BitVec 16) (sla : BitVec 8)
    (s : State) : Host.Outcome State Fault Refusal :=
  issue s g [(a, 1)] [] [] fun t =>
    let r := s.issuer
    checked s (cruFault s r t false [sla.toNat] [(a, off.toNat, 256 * ((ofmtTy ofmt).w / 8))]) <|
    match rmOf t drm with
    | none => .trap s rmTrap
    | some rm =>
      afterChains s r [sla.toNat] <|
      match s.taskOf? r with
      | none => .next s
      | some k =>
        checked s (slotPoison k [sla.toNat]) <|
        cruWrite s r (cruAddr t a off.toNat) (drainBytes k sla.toNat ofmt rm dsat) fill

/-- The entries of a task after `mscale` (R137). -/
def scaleTask (k : Task) (zs : Bool) (dst src : Nat) (sa sb : List Byte) : Task :=
  let k' := k.putSlot dst fun e =>
    (k.acc dst e).merge [scaledTerm (k.acc src e) (sa.getD (e / 16) 0) (sb.getD (e % 16) 0)]
  if zs then k'.putSlot src fun _ => .zero else k'

/-- `mscale` (R118, R137). Of its two slots SLA is looked at first (notes/assumptions/112.md). -/
def execMscale (g : Guard) (zs : Bool) (a b : Src) (off : BitVec 16) (slb sla : BitVec 8) (s : State) :
    Host.Outcome State Fault Refusal :=
  issue s g [(a, 1), (b, 1)] [] [] fun t =>
    let r := s.issuer
    let slots := [sla.toNat, slb.toNat]
    let (sa, pa) := s.operandRead r (keyOf r.who).1 (cruAddr t a off.toNat) 16
    let (sb, pb) := s.operandRead r (keyOf r.who).1 (cruAddr t b 0) 16
    afterOps s r <|
    checked s (cruFault s r t (sla == slb) slots [(a, off.toNat, 16), (b, 0, 16)]) <|
    afterChains s r slots <|
    checked s (orTrap pa <| orTrap pb <| (s.taskOf? r).bind fun k => slotPoison k slots) <|
    .next (onTask s r fun k => scaleTask k zs sla.toNat slb.toNat sa sb)

/-- `mstat` (R138). -/
def execMstat (g : Guard) (d : Reg) (sla : BitVec 8) (s : State) : Host.Outcome State Fault Refusal :=
  issue s g [] [(d, 1)] [] fun t =>
    let r := s.issuer
    checked s (cruFault s r t false [sla.toNat] []) <|
    afterChains s r [sla.toNat] <|
    match s.taskOf? r with
    | none => .next s
    | some k =>
      checked s (slotPoison k [sla.toNat]) <|
      .next (s.modThread r fun t => t.setReg d (BitVec.ofNat 32 (slotSummary k sla.toNat)))

/-! ## Tile conversion -/

/-- `qtile` (R139). -/
def execQtile (g : Guard) (fmt : Fmt) (ks : KStep) (fill : Bool) (a b : Src) (off : BitVec 16) (s : State) :
    Host.Outcome State Fault Refusal :=
  issue s g [(a, 1), (b, 1)] [] [] fun t =>
    let r := s.issuer
    let (bs, pois) := s.operandRead r (keyOf r.who).1 (cruAddr t b 0) (64 * ks.k)
    afterOps s r <|
    checked s (cruFault s r t false [] [(a, off.toNat, imageBytes fmt ks.k), (b, 0, 64 * ks.k)]) <|
    checked s pois <|
    cruWrite s r (cruAddr t a off.toNat) (quantImage fmt ks.k ((chunks 4 (16 * ks.k) bs).map leNat)) fill

/-! ## Events -/

/-- One k-step applied to its slot (R115). -/
def execKstepComplete (core cru : Nat) (s : State) : Host.Outcome State Fault Refusal := 
  .next (s.ifRuns (s.completeKstep core cru))

/-- The first waiting thread takes a Crucible that has become Free (R108). -/
def execCrucibleClaim (core cru : Nat) (s : State) : Host.Outcome State Fault Refusal :=
  .next (s.ifRuns (match ((s.core? core).bind fun c => c.cru? cru) with
    | none => s
    | some k =>
      match k.holder, k.waiters with
      | none, (place, tidx) :: _ => (s.claim core place tidx cru).2
      | _, _ => s))

/-- The oldest piece of work that writes full bits ends (R127). -/
def execCrucibleInstructionComplete (core : Nat) (s : State) : Host.Outcome State Fault Refusal :=
  .next (s.ifRuns (s.completeWork core fun _ => true))

end Sys2Proof.Machine
end

