-- ==== Sys2Proof/Machine/Fabric.lean ====
section
/-!
DEFINITION. The events of the fabric: credits, responses, the requests of peers, flits and lanes, and the steps of a
re-plan (spec/11_ladle_host_fabric.md R211, R212; spec/09_ordering_rules.md R168, R169; spec/15_allowances.md R272 to
R281; spec/23_errors_degraded_checkpoint.md R352, R362; spec/25_prog_ring_split.md R371).
-/

namespace Sys2Proof.Machine

namespace State

/-! ## Responses at their source (R272, R212, R178, R190) -/

/-- The lanes whose outstanding item a request carries, in order of TIDX: the thread and the place of the item. -/
def lanesOfTag (s : State) (core tag : Nat) : List (ThreadRef × Nat × Pend) :=
  (s.threadsOf core).filterMap fun r =>
    (s.thread? r).bind fun t => (t.pend.zipIdx.find? fun (p, _) => p.tag == some tag).map fun (p, k) => (r, k, p)

/-- The operations a request carries. -/
def opsOfTag (s : State) (tag : Nat) : List Rmw :=
  (s.outbox.findSome? fun o => match o with
    | .peerRequest t _ _ _ _ ops .. => if t = tag then some ops else none
    | _ => none).getD []

/-- An outstanding item answered with bytes: a load's value, or the word a barrier operation returns. -/
def answerBytes (s : State) (r : ThreadRef) (k : Nat) (p : Pend) (bs : List Byte) (marks : BitVec 4) : State :=
  let got : Arrived :=
    { value := loadedValue p.size p.sx bs, poison := loadedPoison (List.replicate (sizeBytes p.size) (marks != 0)), pred := none }
  if p.words = 0 then s.setPend r k none else s.setPend r k (some { p with tag := none, got := some got })

/-- The lanes of a request answered (R165): an atomic's old bytes become what each lane receives. -/
def answerLanes (s : State) (q : PeerReq) (lanes : List (ThreadRef × Nat × Pend)) (bs : List Byte) (marks : BitVec 4) : State :=
  let ops := s.opsOfTag q.tag
  let s :=
    if ops.isEmpty then lanes.foldl (fun s (r, k, p) => s.answerBytes r k p bs marks) s
    else if marks != 0 then
      lanes.foldl (fun s (r, k, p) => s.failPend r k { kind := .poison, sub := failSub p.kind p.dst, addr := p.va }) s
    else
      let old := leNat bs
      (lanes.zip (combine old old [] ops).1).foldl (fun s ((r, k, p), x) => s.answerPend r k { p with tag := none } x 0 none) s
  lanes.foldl (fun s (r, _, p) => s.opAcquire r p) s

/-- The phase that a thread waits for in `barwait` has completed (R267). -/
def answerWait (s : State) (r : ThreadRef) : State :=
  match (s.thread? r).map Thread.state with
  | some (.barrier (.peer ..) sc _) =>
    let s := s.passBlocked r
    if wideScope sc then s.dropClean r.core else s
  | _ => s

/-- A thread that waits in `waitaddr`, or whose store to a subscribed line is complete. -/
def answerThread (s : State) (q : PeerReq) (r : ThreadRef) (bs : List Byte) (marks : BitVec 4) : State :=
  match s.thread? r with
  | none => s
  | some t =>
    match t.state with
    | .waitaddr w =>
      match w.asked with
      | none => s
      | some (tag, why) =>
        if tag != q.tag then s
        else if marks != 0 then s.takeTrap r { kind := .poison, sub := failSub .load w.dst, addr := w.va }
        else
          let same := leNat (bs.take (sizeBytes w.size)) == w.expected.toNat
          if why = 0 then
            if same then s.modThread r fun t => { t with state := .waitaddr { w with asked := none } } else s.waitDone r w 0
          else s.waitDone r w (if same then why else 1)
    | _ => s

/-- A copy's request answered: bytes read join its buffer, bytes written are done (R195, R199). The answer
to a request of a copy that has gone is ignored. -/
def answerCopy (s : State) (core id : Nat) (q : PeerReq) (bs : List Byte) (marks : BitVec 4) : State :=
  match s.copy? core id with
  | none => s
  | some c =>
    if c.state != .running || c.asked != some q.tag then s
    else
      let s := s.modCopy core id fun k => { k with asked := none }
      if q.kind = .load then
        s.modCopy core id fun k => { k with buf := k.buf ++ (chunks 8 (bs.length / 8) bs).zipIdx.map fun (b, i) =>
          (b, marks.getLsbD ((q.off % 64 + 8 * i) / 16)) }
      else s.copyMoved core id c.sending

/-- A subscribed line of a peer arrives (R185). -/
def answerSub (s : State) (core : Nat) (q : PeerReq) (bs : List Byte) (marks : BitVec 4) : State :=
  if s.subscribed core (.peer q.dev (lineOf q.off)) then
    s.putL1 core { pa := peerPa q.dev (lineOf q.off), data := bs, dirty := 0, pois := marks, owned := false }
  else s

/-- A response with success delivered to the party that waits for it. -/
def answerOk (s : State) (q : PeerReq) (bs : List Byte) (marks : BitVec 4) : State :=
  match q.owner with
  | .copy core id => s.answerCopy core id q bs marks
  | .sub r => s.answerSub r.core q bs marks
  | .line core => s.peerLineArrives core q.dev q.off bs marks
  | .wait r => s.answerWait r
  | .gone => s
  | .thread r =>
    match s.lanesOfTag r.core q.tag with
    | [] => s.answerThread q r bs marks
    | ls => s.answerLanes q ls bs marks

/-! ## The requests of peers (R211, R212) -/

/-- The error with which this device answers a request to bytes of its local map, if it does. -/
def peerRefusal (s : State) (off size : Nat) : Option PeerAnswer :=
  if s.part.hbmBytes < off + size then some .unmapped
  else if s.inWindow off size || s.pageSlot (off / 4096) != 0 then some .refused
  else if s.marked.has (off / 4096) || s.health.retired.has (off / 4096) then some .notPresent
  else none

/-- Whether the optical links work: the package has left reset, and boot has come to stage 5, which relocks them
(R374, R378). -/
def linksUp (s : State) : Bool := s.part.fab && s.rails == .up && 5 ≤ s.stage && s.stage ≤ 7

/-- Whether the device serves requests of a peer: a failed one accepts nothing until reset (R356). -/
def servesPeer (s : State) (src : Nat) : Bool := s.linksUp && src < 64 && src != s.dev && !s.health.failed

/-- Whether a request of a peer to `size` bytes waits: for its page (R171, R299), or for a lane that its response can take. -/
def serveWaits (s : State) (src off size : Nat) : Bool :=
  s.servesPeer src && 0 < size && off % 64 + size ≤ 64 &&
    (s.lanesOff src || ((s.peerRefusal off size).isNone && s.pageBusy off))

/-- A request of a peer served, unless it waits: an error, or the answer of `f`. -/
def serve (s : State) (src off size : Nat) (f : State → Option PeerAnswer × State) : State :=
  if !s.servesPeer src || size = 0 || 64 < off % 64 + size || s.serveWaits src off size then s
  else match s.peerRefusal off size with
    | some e => s.respond src off e
    | none =>
      match f s with
      | (some a, s) => s.respond src off a
      | (none, s) => s

/-- The bytes of a line that are given written at its home, past every cache. -/
def storeMasked (s : State) (pa : Nat) (bs : List (Option Byte)) (marks : BitVec 4) : State :=
  let la := lineOf pa
  let s := s.homeReady none la
  let o := pa - la
  let data := List.replicate o 0 ++ bs.map fun b => b.getD 0
  let mask := bs.zipIdx.foldl (fun (m : BitVec 64) (b, i) => putBit m (o + i) b.isSome) 0
  (s.homeWrite la data mask marks).pushLine la

/-- A read-modify-write of a peer at its home: the old bytes, marked where they are poisoned; then nothing is written
(R354). -/
def peerRmw (s : State) (off : Nat) (m : Rmw) : PeerAnswer × State :=
  let (bs, marks) := s.readMarked off m.bytes
  if marks != 0 then (.ok bs marks, s)
  else
    let old := leNat bs
    let written := (combine old old [] [m]).2 != old || (m.new old).isSome
    (.ok bs 0, if written then s.storeHome off (leBytes m.bytes (combine old old [] [m]).2) 0 else s)

/-- The integer types an atomic request carries. -/
def atomTyOk (ty : Ty) : Bool := ty != .f32 && (ty.width == 32 || ty.width == 64)

/-- The answer to a fetching request. A peer that waits for a phase is answered when it completes (R267). -/
def peerFetching (src off : Nat) (op : PeerAtom) (s : State) : Option PeerAnswer × State :=
  match op with
  | .op o ty b =>
    if !atomTyOk ty then (none, s)
    else
      let (a, s) := s.peerRmw off (.op o ty b)
      (some a, s)
  | .cas ty e n =>
    if !atomTyOk ty then (none, s)
    else
      let (a, s) := s.peerRmw off (.cas ty e n)
      (some a, s)
  | .arrive =>
    let (bs, marks) := s.readMarked off 8
    if marks != 0 then (some (.ok bs marks), s)
    else
      let (w, phase, done) := arriveWord (leNat bs)
      let s := s.storeHome off (leBytes 8 w) 0
      (some (.ok (leBytes 8 phase.toNat) 0), if done then s.releaseBarrier (.mem off) else s)
  | .barwait phase =>
    let (bs, marks) := s.readMarked off 8
    if marks != 0 then (some (.ok bs marks), s)
    else if (leNat bs).testBit 63 != phase then (some (.ok [] 0), s)
    else (none, { s with barPeers := s.barPeers ++ [(src, off)] })
  | .barinit _ => (none, s)

/-- The answer of an atomic without its old value. -/
def completion : PeerAnswer → PeerAnswer
  | .ok _ p => .ok [] p
  | a => a

/-- The answer to a request that returns nothing but its completion. -/
def peerNonFetching (off : Nat) (op : PeerAtom) (s : State) : Option PeerAnswer × State :=
  match op with
  | .op o ty b =>
    if !atomTyOk ty then (none, s)
    else
      let (a, s) := s.peerRmw off (.op o ty b)
      (some (completion a), s)
  | .barinit n => (some (.ok [] 0), s.barinitAt 0 true (.mem off) n)
  | _ => (none, s)

/-- Bytes a request of an atomic touches. -/
def atomBytes : PeerAtom → Nat
  | .op _ ty _ | .cas ty _ _ => ty.width / 8
  | _ => 8

/-! ## The requests and the responses of flits -/

/-- `size` bytes from an offset read for a peer (R211), each unit with its mark. A peer that reads a whole line gets its new
values from then on (R169; notes/assumptions/121.md). -/
def serveRead (s : State) (src off size : Nat) : State :=
  s.serve src off size fun s =>
    let (bs, marks) := s.readMarked off size
    (some (.ok bs marks), if size = 64 && !s.peerSubs.contains (src, off) then { s with peerSubs := (src, off) :: s.peerSubs } else s)

/-- The bytes whose enable is set written for a peer. -/
def serveWrite (s : State) (src off : Nat) (bytes : List (Option Byte)) (marks : BitVec 4) : State :=
  s.serve src off bytes.length fun s => (some (.ok [] 0), s.storeMasked off bytes marks)

/-- A fetching atomic, or a barrier operation that returns a value or a completion of a phase (R266). -/
def serveFetching (s : State) (src off : Nat) (op : PeerAtom) : State :=
  if off % atomBytes op != 0 then s else s.serve src off (atomBytes op) (peerFetching src off op)

def serveNonFetching (s : State) (src off : Nat) (op : PeerAtom) : State :=
  if off % atomBytes op != 0 then s else s.serve src off (atomBytes op) (peerNonFetching off op)

/-- f32 add, min and max, answered as the atomic it extends: with the old value, or with a completion. -/
def serveFloat (s : State) (src off : Nat) (op : FloatAtom) (operand : Word) : State :=
  if off % 4 != 0 || !(op.op == .add || op.op == .min || op.op == .max) then s
  else s.serve src off 4 fun s =>
    let (a, s) := s.peerRmw off (.op op.op .f32 (operand.zeroExtend 64))
    (some (if op.fetching then a else completion a), s)

/-- A response with success or an error delivered for a request that is open (R272, R212). -/
def takeResponse (s : State) (tag : Nat) (answer : PeerAnswer) : State :=
  match s.reqs.find? fun q => q.tag == tag with
  | none => s
  | some q =>
    let s := if responseKept q then s.responseBack q.dev else s
    let s := match answer with
      | .ok bs marks => answerOk { s with reqs := s.reqs.filter fun x => x.tag != tag } q bs marks
      | _ =>
        let sub : Byte := match q.owner with
          | .thread _ | .wait _ | .sub _ => failSub q.kind q.dst
          | _ => 0xC0
        s.failRequest q { kind := .remoteFault, sub, addr := q.va }
    (s.wakeDest q.dev).goDark

/-! ## Delivery in sequence order (R279) -/

/-- What a flit carries done, for its source. -/
def performFlit (s : State) (src : Nat) : FlitBody → State
  | .read off size => s.serveRead src off size
  | .write off bytes marks => s.serveWrite src off bytes marks
  | .fetching off op => s.serveFetching src off op
  | .nonFetching off op => s.serveNonFetching src off op
  | .float off op x => s.serveFloat src off op x
  | .response tag answer => s.takeResponse tag answer

/-- The bytes that a flit's request reaches. -/
def flitReach : FlitBody → Option (Nat × Nat)
  | .read off size => some (off, size)
  | .write off bytes _ => some (off, bytes.length)
  | .fetching off op | .nonFetching off op => some (off, atomBytes op)
  | .float off .. => some (off, 4)
  | .response .. => none

/-- The flits of a source and hash lane that are next in sequence delivered, one after the other, as far as none of them waits
for its page or for a lane. -/
def deliverFlits (s : State) (src lane : Nat) : Nat → State
  | 0 => s
  | n + 1 =>
    let e := s.laneSeq src lane
    match e.held.find? fun h => h.1 == e.next with
    | none => s
    | some h =>
      if (flitReach h.2).any fun x => s.serveWaits src x.1 x.2 then s
      else
        let s := s.putSeq { e with next := e.next + 1, held := e.held.filter fun x => x.1 != h.1 }
        (s.performFlit src h.2).deliverFlits src lane n

/-- A flit of a source and hash lane (R279): discarded where its number has been delivered, held while an earlier one is
missing, delivered in order. -/
def takeFlit (s : State) (src lane seq : Nat) (x : FlitBody) : State :=
  let e := s.laneSeq src lane
  if seq < e.next then s
  else
    let held := if e.held.any fun h => h.1 == seq then e.held else e.held ++ [(seq, x)]
    (s.putSeq { e with held }).deliverFlits src lane held.length

end State

/-! ## Events -/

/-- `CREDIT_RETURN` (R272). -/
def execCreditReturn (dev : Nat) (s : State) : Host.Outcome State Fault Refusal := .next (s.creditBack dev)

/-- `RESPONSE_ARRIVAL` (R272, R212). -/
def execResponseArrival (tag : Nat) (answer : PeerAnswer) (s : State) : Host.Outcome State Fault Refusal :=
  .next (s.takeResponse tag answer).settle

/-- `READ` (R211). -/
def execRead (src off size : Nat) (s : State) : Host.Outcome State Fault Refusal := .next (s.serveRead src off size)

/-- `WRITE` (R211): the bytes whose enable is set. -/
def execWrite (src off : Nat) (bytes : List (Option Byte)) (marks : BitVec 4) (s : State) :
    Host.Outcome State Fault Refusal :=
  .next (s.serveWrite src off bytes marks)

/-- `ATOMIC_FETCHING` (R211), with the barrier operations that return a value or a completion of a phase (R266). -/
def execAtomicFetching (src off : Nat) (op : PeerAtom) (s : State) : Host.Outcome State Fault Refusal :=
  .next (s.serveFetching src off op)

/-- `ATOMIC_NON_FETCHING` (R211). -/
def execAtomicNonFetching (src off : Nat) (op : PeerAtom) (s : State) : Host.Outcome State Fault Refusal :=
  .next (s.serveNonFetching src off op)

/-- `FLOAT_ATOMIC` (R211). -/
def execFloatAtomic (src off : Nat) (op : FloatAtom) (operand : Word) (s : State) :
    Host.Outcome State Fault Refusal :=
  .next (s.serveFloat src off op operand)

/-- `FLIT_RECEIVE` (R279): a flit of a source on a hash lane, whose request or response is delivered in sequence order. -/
def execFlitReceive (src lane seq : Nat) (payload : FlitBody) (s : State) : Host.Outcome State Fault Refusal :=
  .next (if !s.servesPeer src || 8 ≤ lane then s
    else
      let known := (s.laneSeq src lane).held.any fun h => h.1 == seq
      let s := if known then s else { s with count := { s.count with received := bump s.count.received src } }
      (s.takeFlit src lane seq payload).settle)

/-- `FLIT_RESEND` (R352, R357): a flit of a transmit lane fails its CRC and is sent again; after 8 resends of one flit
that failed, or at the threshold of resent flits, the lane counts as down. -/
def execFlitResend (plane slot : Nat) (s : State) : Host.Outcome State Fault Refusal :=
  let lane := plane * 8 + slot
  .next (if !s.linksUp || 64 ≤ plane || 8 ≤ slot || s.health.lanesDown.has lane then s
    else if 8 ≤ countAt s.health.resends lane then
      (State.laneOut { s with health := { s.health with resends := eraseKey s.health.resends lane } } plane slot false).goDark.settle
    else
      let s := { s with health := { s.health with resends := bump s.health.resends lane, lanes := bump s.health.lanes lane } }
      let s := s.send (.flitResent lane)
      if State.reached (countAt s.health.lanes lane) s.thresholds.optical then (s.laneOut plane slot false).goDark.settle else s)

/-- `LANE_DOWN` (R362). -/
def execLaneDown (plane slot : Nat) (receive : Bool) (s : State) : Host.Outcome State Fault Refusal :=
  .next (if s.linksUp then (s.laneOut plane slot receive).goDark.settle else s)

/-- `PLAN_RESPONSE_BOUND` (R280 step 3, R281). -/
def execPlanResponseBound (s : State) : Host.Outcome State Fault Refusal :=
  .next (match s.commit with
    | none => s
    | some c =>
      if c.dark then s
      else
        let s := s.failUnreach (s.reqs.filter fun q => q.lane.any c.changing.contains)
        s.goDark.settle)

/-- `RELOCK` (R280 steps 5 to 7): `locked` are the lanes that arrive at this device's receivers; the peers of `late` change
lanes with it in sequences of their own that have not passed step 6, and stay HELD until they have (R371, R281). -/
def execRelock (locked : List LaneRep) (late : List Nat) (s : State) : Host.Outcome State Fault Refusal :=
  .next (match s.commit with
    | none => s
    | some c =>
      if !c.dark || c.late.isSome then s
      else (s.passStep6 c (locked.filter fun l => l.dev != s.dev) late).settle)

/-- `RELOCK_HANDSHAKE` (R280, R371): `locked` holds the lanes of this device that the peer locks and the lanes of the peer
that this device locks. A destination of a commit in progress is decided at its step 7: here, where it was late. -/
def execRelockHandshake (peer : Nat) (locked : List LaneRep) (s : State) : Host.Outcome State Fault Refusal :=
  .next (if !s.linksUp || 64 ≤ peer || peer = s.dev then s
    else
      let s := s.takeReport peer locked
      let s := s.send (.relockReport ((s.lockedIn.map Prod.fst).filter fun l => l.dev == peer))
      if !s.undecided peer then (s.decideList [peer]).2.goDark.settle
      else if s.commit.any fun c => c.late.isSome then (s.decideLate peer).settle
      else s)

end Sys2Proof.Machine
end

