-- ==== Sys2Proof/Machine/Shell.lean ====
section
/-!
DEFINITION. Context shells: their layout, sealing, `ctxsave` and `ctxload` (spec/19_contexts_translation.md R300, R303 to
R307; spec/20_system_isa.md R321 to R323; spec/22_traps_restart.md R345).
-/

namespace Sys2Proof.Machine

/-! ## Layout (R304 to R306) -/

/-- Zeros to the next multiple of 64 bytes. -/
def pad64 (l : List Byte) : List Byte := l ++ List.replicate ((64 - l.length % 64) % 64) 0

def up64 (n : Nat) : Nat := (n + 63) / 64 * 64

/-- `n` bytes at an offset, as a number. -/
def fieldAt (bs : List Byte) (o n : Nat) : Nat := leNat ((bs.drop o).take n)

/-- Whether `n` bytes at an offset are zero. -/
def zeroAt (bs : List Byte) (o n : Nat) : Bool := fieldAt bs o n == 0

/-- SPEC as a code (R78). -/
def Spec.code : Spec → Nat
  | .fin => 0 | .pinf => 1 | .ninf => 2 | .nan => 3

def Spec.ofCode : Nat → Spec
  | 0 => .fin | 1 => .pinf | 2 => .ninf | _ => .nan

/-- The 80 bytes of an accumulator entry (R78). -/
def AccEntry.bytes (e : AccEntry) : List Byte :=
  leBytes 80 (boolBit e.oow 627 + boolBit e.nz 626 + e.spec.code * 2 ^ 624 + e.v.toNat)

/-- An entry from 80 bytes; a loaded entry has no mark (R355). -/
def AccEntry.ofBytes (bs : List Byte) : AccEntry :=
  let x := leNat bs
  { v := BitVec.ofNat 624 x, spec := .ofCode (bits x 624 2), nz := x.testBit 626, oow := x.testBit 627 }

/-- Bits [639:628] of an entry are zero. -/
def accOk (bs : List Byte) : Bool := bits (leNat bs) 628 12 == 0

/-- The trap kind of a code. -/
def TrapKind.ofCode (c : Byte) : TrapKind :=
  match c.toNat with
  | 0x01 => .illegal | 0x02 => .illpair | 0x03 => .cfi | 0x04 => .priv | 0x05 => .unitAbsent | 0x06 => .fptrap
  | 0x07 => .uninit | 0x08 => .emptyreg | 0x09 => .align | 0x0A => .pageNp | 0x0B => .pagePerm | 0x0C => .bounds
  | 0x0D => .trailer | 0x0E => .poison | 0x0F => .unreach | 0x10 => .remoteFault | 0x11 => .sys | 0x12 => .brk
  | 0x13 => .watch | 0x14 => .trap | 0x15 => .signal | 0x16 => .key | 0x17 => .peerFault | 0x18 => .illegalLine
  | 0x19 => .launchBad | 0x1A => .dequeBad | 0x1B => .machineCheck
  | _ => .other c

/-- A fault record from its 64 bytes (R336). -/
def FaultRec.ofBytes (bs : List Byte) : FaultRec :=
  let w (i : Nat) := fieldAt bs (8 * i) 8
  { tidx := bits (w 0) 32 10, core := bits (w 0) 16 16
    trap := { kind := .ofCode (BitVec.ofNat 8 (w 0)), sub := BitVec.ofNat 8 (w 0 / 256), addr := BitVec.ofNat 64 (w 2)
              prog := w 3, what := bits (w 5) 16 2, val := bits (w 5) 0 16 }
    pc := BitVec.ofNat 64 (w 1), handle := BitVec.ofNat 32 (w 4 / 2 ^ 32), lid := BitVec.ofNat 32 (w 4)
    time := BitVec.ofNat 64 (w 6) }

/-- JOIN of a pending join (R305). -/
def joinWord : JoinSet → Nat
  | .seg base width => 1 * 2 ^ 62 + base % 2 ^ 10 * 2 ^ 32 + width
  | .task => 2 * 2 ^ 62
  | .mask base m => 3 * 2 ^ 62 + base % 2 ^ 10 * 2 ^ 32 + m.toNat

def joinOf (x : Nat) : JoinSet :=
  match bits x 62 2 with
  | 1 => .seg (bits x 32 10) (bits x 0 32)
  | 3 => .mask (bits x 32 10) (BitVec.ofNat 32 x)
  | _ => .task

/-- SPACE codes of a copy record (R35). -/
def spaceNum : Space → Nat
  | .global => 0 | .own => 1 | .peer => 2

def spaceOf : Nat → Space
  | 0 => .global | 1 => .own | _ => .peer

/-- The 96 bytes of a copy record (R192): every copy that is not complete is in STATE 1. -/
def Copy.bytes (k : Copy) : List Byte :=
  let st := if k.state = .complete then 2 else 1
  leBytes 32 (st * 2 ^ 220 + spaceNum k.dsp * 2 ^ 218 + spaceNum k.ssp * 2 ^ 216 + k.swz.toNat * 2 ^ 213 + boolBit k.dig 212 +
      boolBit k.fill 211 + k.id % 32 * 2 ^ 206 + k.tidx % 1024 * 2 ^ 196 + k.prog % 2 ^ 32 * 2 ^ 160 +
      k.len % 2 ^ 32 * 2 ^ 128 + k.dst.toNat * 2 ^ 64 + k.src.toNat) ++
    (if k.dig then (k.hash.map fun x => leBytes 8 x.toNat).flatten else List.replicate 64 0)

/-- A copy from its record: it continues, unless it is complete. Whether bytes below PROG under DIG were poisoned stands
nowhere in the record; `lost` says it (notes/assumptions/51.md). -/
def Copy.ofBytes (place : Nat) (acc : Accessor) (lost : Nat → Bool) (bs : List Byte) : Copy :=
  let x := fieldAt bs 0 32
  { id := bits x 206 5, place, tidx := bits x 196 10, dsp := spaceOf (bits x 218 2), ssp := spaceOf (bits x 216 2)
    swz := BitVec.ofNat 3 (bits x 213 3), dig := x.testBit 212, fill := x.testBit 211, len := bits x 128 32
    dst := BitVec.ofNat 64 (bits x 64 64), src := BitVec.ofNat 64 x, prog := bits x 160 32
    state := if bits x 220 2 = 2 then .complete else .running, dstPage := none, srcPage := none
    hash := (List.range 8).map fun i => BitVec.ofNat 64 (fieldAt bs (32 + 8 * i) 8), told := false
    hpois := x.testBit 212 && bits x 160 32 != 0 && lost (bits x 206 5), buf := [], sending := 0, asked := none, flits := 0, resDev := 0, acc }

def copyOk (bs : List Byte) : Bool :=
  let x := fieldAt bs 0 32
  bits x 222 34 == 0 && bits x 192 4 == 0 && bits x 220 2 != 3

/-- The format code of a chain. -/
def fmtNum : Fmt → Nat
  | .bf16 => 0 | .f16 => 1 | .ta8 => 2 | .ta6 => 3

def fmtOf : Nat → Fmt
  | 0 => .bf16 | 1 => .f16 | 2 => .ta8 | _ => .ta6

/-- The image of a held Crucible (R306). -/
def SavedPlane.bytes (p : SavedPlane) : List Byte :=
  let (c, slot, fmt) : Nat × Nat × Nat := match p.chain with
    | some (sl, f) => (1, sl, fmtNum f)
    | none => (0, 0, 0)
  leBytes 2 p.cru ++ leBytes 2 p.holder ++ leBytes 1 c ++ leBytes 1 slot ++ leBytes 58 fmt ++ p.active.read 0 1024 ++
    p.shadow.read 0 1024

/-- A held Crucible from its image. -/
def SavedPlane.ofBytes (bs : List Byte) : SavedPlane :=
  { cru := fieldAt bs 0 1, holder := fieldAt bs 2 2, active := Memory.write [] 0 ((bs.drop 64).take 1024)
    shadow := Memory.write [] 0 ((bs.drop 1088).take 1024), apois := [], spois := []
    chain := if fieldAt bs 4 1 = 1 then some (fieldAt bs 5 1, fmtOf (fieldAt bs 6 1)) else none }

def planeOkBytes (bs : List Byte) : Bool :=
  fieldAt bs 0 1 ≤ 1 && zeroAt bs 1 1 && fieldAt bs 4 1 ≤ 1 && fieldAt bs 6 1 ≤ 3 && zeroAt bs 7 57

/-- The scratch image: the bytes, then the full bits. -/
def scratchImage (t : Task) : List Byte :=
  t.bytes.read 0 t.scratch ++ (List.range ((t.scratch + 127) / 128)).map fun b =>
    BitVec.ofNat 8 ((List.range 8).foldl (fun n i =>
      n + boolBit (16 * (8 * b + i) < t.scratch && !t.empties.has (8 * b + i)) i) 0)

/-- The counts a header gives, and the sizes and places of the parts of the body. -/
structure ShellSizes where
  threads : Nat
  scr : Nat
  acc : Nat
  pln : Nat
  cpy : Nat
  pnd : Nat
  deriving DecidableEq, Repr

namespace ShellSizes

def of (threads scratch slots planes copies pending : Nat) : ShellSizes where
  threads := threads
  scr := scratch + (scratch + 127) / 128
  acc := slots * 20480
  pln := planes * 2112
  cpy := copies * 96
  pnd := pending * 64

/-- Offsets within the body of the parts after the thread blocks. -/
def scrAt (z : ShellSizes) : Nat := 512 * z.threads
def accAt (z : ShellSizes) : Nat := z.scrAt + up64 z.scr
def plnAt (z : ShellSizes) : Nat := z.accAt + up64 z.acc
def cpyAt (z : ShellSizes) : Nat := z.plnAt + up64 z.pln
def pndAt (z : ShellSizes) : Nat := z.cpyAt + up64 z.cpy
def body (z : ShellSizes) : Nat := z.pndAt + up64 z.pnd

end ShellSizes

/-- log2 of a width. -/
def widthLog (n : Nat) : Nat := n.log2

namespace State

/-! ## What is saved (R321 step 6) -/

/-- BSTATE and BARG of a thread. -/
def bstateOf (s : State) (r : ThreadRef) (t : Thread) : Nat × Nat :=
  let (place, tidx) := keyOf r.who
  match t.state with
  | .runnable | .xlane | .idle => (0, 0)
  | .emptyReg v => (1, v.toNat)
  | .granule c p off _ =>
    let peer := if c = r.core && p = place then 0 else (((s.task? c p).bind Task.cluster).map ClusterPos.peer).getD 0
    (2, peer * 2 ^ 20 + off / 16 * 16)
  | .waitaddr w => (3, w.va.toNat)
  | .barrier _ _ va => (4, va.toNat)
  | .join _ => (5, 0)
  | .allowance d _ _ => (6, d)
  | .copy w => (7, match w with
      | .id n => n
      | _ => 0)
  | .riser => (8, 0)
  | .syscall n => (9, (((s.core? r.core).bind fun c => callOf? c place tidx).getD 0) + n.toNat * 2 ^ 32)

/-- The record a trap of a thread would write. -/
def reportOf (s : State) (r : ThreadRef) (t : Thread) (x : Trap) : FaultRec :=
  let (place, tidx) := keyOf r.who
  { tidx, core := r.core, trap := x, pc := t.pc, handle := s.handle r.core place tidx
    lid := ((s.taskOf? r).map Task.lid).getD 0, time := s.cycle }

/-- The record a thread has in the Riser, stalled or popped. -/
def riserRecord? (s : State) (r : ThreadRef) : Option FaultRec :=
  let h := s.handle r.core (keyOf r.who).1 (keyOf r.who).2
  (s.core? r.core).bind fun c => (c.riser ++ c.stalled ++ c.popped).find? fun f => f.handle == h

/-- BSTATE, BARG, FREC and the reports left for the pending-report image, in the order of R340: a stop, the reports that came
with an earlier shell, and younger failures. A thread in a system call keeps its call. -/
def saveReports (s : State) (r : ThreadRef) (t : Thread) : (Nat × Nat) × Option FaultRec × List FaultRec :=
  let late (f : FaultRec) : FaultRec :=
    { f with core := r.core, handle := s.handle r.core (keyOf r.who).1 (keyOf r.who).2, pc := t.pc }
  let all := t.stop.toList.map (s.reportOf r t) ++ t.later.map late ++ (t.fails.map Prod.snd).map (s.reportOf r t)
  let st := s.bstateOf r t
  if st.1 = 8 then (st, s.riserRecord? r, all)
  else if st.1 = 9 then (st, none, all)
  else match all with
    | f :: fs => ((8, 0), some f, fs)
    | [] => (st, none, [])

/-- The thread block of a thread (R305). -/
def threadBlock (s : State) (r : ThreadRef) (t : Thread) : List Byte :=
  if t.exited then leBytes 512 (4 * 2 ^ 112)
  else
    let ((bst, barg), rec, _) := s.saveReports r t
    let kept := t.kept.filter fun k => k.pc == t.pc
    let (join, jpc) : Nat × Nat := match t.state with
      | .join set => if bst = 5 then (joinWord set, t.pc.toNat) else (0, 0)
      | _ => (0, 0)
    leBytes 8 t.pc.toNat ++ leBytes 4 t.fpctl.toNat ++ leBytes 1 (t.preds &&& 0xFE).toNat ++ leBytes 1 bst ++
      leBytes 2 (boolBit t.signal.isSome 0 + boolBit kept.isSome 1) ++ leBytes 8 t.full.toNat ++ leBytes 8 barg ++
      leBytes 8 join ++ leBytes 8 jpc ++ leBytes 8 t.poison.toNat ++ leBytes 8 0 ++
      (t.regs.toList.map fun x => leBytes 4 x.toNat).flatten ++
      ((kept.map fun k => k.entry.bytes).getD (List.replicate 80 0)) ++
      leBytes 48 ((kept.map fun k => k.flags.toNat).getD 0) ++ ((rec.map FaultRec.bytes).getD (List.replicate 64 0))

/-- The Crucibles of a core that threads of a task hold, as images, and those of its shell not restored yet. A shell has room
for two: where there are more, those with an open chain go first (R114; notes/assumptions/114.md). -/
def heldPlanes (c : Core) (place : Nat) (t : Task) : List SavedPlane :=
  let held := c.crus.zipIdx.filterMap fun (k, n) => match k.holder with
    | some (p, tidx) =>
      if p = place then
        some ({ cru := n, holder := tidx, active := k.active, shadow := k.shadow, apois := k.apois, spois := k.spois
                chain := (k.chain.filter fun x => !x.closed).map fun x => (x.slot, x.fmt) } : SavedPlane)
      else none
    | none => none
  let all := held ++ t.planes
  if all.length ≤ 2 then all
  else ((all.filter fun p => p.chain.isSome) ++ all.filter fun p => p.chain.isNone).take 2

/-- The copies of a task, by id. -/
def taskCopies (c : Core) (place : Nat) : List Copy :=
  (List.range copyIds).filterMap fun i => c.copies.find? fun k => k.id == i && k.place == place

/-- Every pending report of a task that is not in FREC. -/
def pendingReports (s : State) (core place : Nat) (t : Task) : List FaultRec :=
  (t.threads.zipIdx.map fun (th, n) =>
    if th.exited then [] else (s.saveReports { core, who := .user place n } th).2.2).flatten

/-- The sizes of a task's shell. -/
def shellSizes (s : State) (core place : Nat) (c : Core) (t : Task) : ShellSizes :=
  .of t.threads.length t.scratch t.accslots (heldPlanes c place t).length (taskCopies c place).length
    (s.pendingReports core place t).length

/-- Bytes 0x00 to 0xEF of a shell's header (R304). -/
def shellHeader (s : State) (core place : Nat) (c : Core) (t : Task) (ctr : DWord) : List Byte :=
  let z := s.shellSizes core place c t
  let recpa := t.recpa
  leBytes 4 0x4C454853 ++ leBytes 2 1 ++ leBytes 1 t.ctx.kslot.toNat ++
    leBytes 1 (boolBit (t.ctx.kslot != 0) 0 + boolBit t.setw.isSome 1) ++ leBytes 8 ctr.toNat ++
    leBytes 2 t.threads.length ++ leBytes 1 (widthLog t.grant) ++ leBytes 1 (widthLog (t.setw.getD t.reqw)) ++
    leBytes 4 t.segw ++ leBytes 4 t.lid.toNat ++ leBytes 4 t.ctx.ctxn ++ leBytes 4 t.coord.1.toNat ++
    leBytes 4 t.coord.2.1.toNat ++ leBytes 4 t.coord.2.2.toNat ++ leBytes 4 t.tile ++ leBytes 4 t.scratch ++
    leBytes 2 t.accslots ++ leBytes 1 (heldPlanes c place t).length ++ leBytes 1 (taskCopies c place).length ++
    leBytes 4 z.scr ++ leBytes 4 z.acc ++ leBytes 4 z.pln ++ leBytes 4 z.cpy ++ leBytes 8 recpa ++
    leBytes 8 t.watch0.addr.toNat ++ leBytes 8 t.watch1.addr.toNat ++ leBytes 4 t.watch0.ctl.toNat ++
    leBytes 4 t.watch1.ctl.toNat ++ leBytes 4 0 ++ leBytes 4 (z.pnd / 64) ++ leBytes 4 z.pnd ++ List.replicate 124 0

/-- The body of a shell in clear (R304 to R306). -/
def shellBody (s : State) (core place : Nat) (c : Core) (t : Task) : List Byte :=
  (t.threads.zipIdx.map fun (th, n) => s.threadBlock { core, who := .user place n } th).flatten ++
    pad64 (scratchImage t) ++
    (List.range t.accslots).flatMap (fun sl => (List.range 256).flatMap fun e => (t.acc sl e).bytes) ++
    pad64 ((heldPlanes c place t).flatMap SavedPlane.bytes) ++ pad64 ((taskCopies c place).flatMap Copy.bytes) ++
    (s.pendingReports core place t).flatMap FaultRec.bytes

/-! ## Sealing (R300, R303, R307) -/

/-- KS of a key slot. -/
def shellKey (s : State) (slot : Nat) (key : BitVec 256) : List Byte :=
  kdf (leBytes 32 key.toNat) "TKSHELL" (leBytes 1 slot ++ leBytes 32 (Config.bootNonce s.resetNo).toNat) 256

/-- The IV of a shell. -/
def shellIv (slot : Nat) (ctr : DWord) : List Byte := leBytes 4 slot ++ leBytes 8 ctr.toNat

/-- A shell from its header and body: sealed under a key, or plain with a zero tag. -/
def sealShell (s : State) (slot : Nat) (key : Option (BitVec 256)) (ctr : DWord) (header body : List Byte) : List Byte :=
  match key with
  | none => header ++ List.replicate 16 0 ++ body
  | some k =>
    let ks := s.shellKey slot k
    let cipher := gcmCrypt ks (shellIv slot ctr) body
    header ++ gcmTag ks (shellIv slot ctr) header cipher ++ cipher

/-- Counter values the outstanding window reaches. -/
def windowSize : Nat := 4096

/-- SHELLCTR of a slot raised by one, with the window bit of the new value set. -/
def raiseCtr (s : State) (slot : Nat) : DWord × State :=
  let k := s.keySlot slot
  let ctr := k.ctr + 1
  (ctr, s.putKeySlot { k with ctr, window := (k.window.filter fun c => ctr.toNat < c + windowSize) ++ [ctr.toNat] })

/-- Whether a counter value of a slot is current. -/
def current (s : State) (slot ctr : Nat) : Bool :=
  let k := s.keySlot slot
  k.window.contains ctr && ctr ≤ k.ctr.toNat && k.ctr.toNat < ctr + windowSize

/-! ## ctxsave (R321) -/

/-- The threads of a task. -/
def threadRefs (core place : Nat) (t : Task) : List ThreadRef :=
  (List.range t.threads.length).map fun n => { core, who := .user place n }

/-- Issue stops for a task: its threads lose their places among those that wait for a Crucible (R108, R220). -/
def stopOne (s : State) (core place : Nat) (t : Task) : State :=
  (threadRefs core place t).foldl leaveCrus (s.modTask core place fun k => { k with stopped := true })

/-- Issue stops for a task, and for every task of its cluster (step 2), for the `ctxsave` of Caster thread `n`. -/
def stopIssue (s : State) (core place n : Nat) (t : Task) : State :=
  (s.clusterTasks t).foldl (fun s (m, p, k) => s.stopOne m p k)
    ((s.stopOne core place t).modTask core place fun k => { k with saver := some n })

/-- The outstanding work of a thread done as far as it can be (steps 3 and 5); one that waits in `barwait` does so no
longer. -/
def quiet (s : State) (r : ThreadRef) : State := (((s.finishCrus r).drain r).settleThread r).dropWait r

/-- Whether a write of a copy of a task is on its way to a peer: the copy stops at its progress point once it is answered
(R197). -/
def copySends (s : State) (core place : Nat) : Bool :=
  (s.core? core).any fun c => c.copies.any fun k => k.place == place && k.sending != 0 && s.copyAsks core k.id

/-- Whether nothing of a thread is outstanding. -/
def quietNow (s : State) (r : ThreadRef) : Bool :=
  match s.thread? r with
  | none => true
  | some t =>
    t.pend.isEmpty && t.queue.isEmpty && !t.trapping && !s.peerOpen r

/-- Riser entries that are free admit the stalled records (R339). -/
def refillRiser (c : Core) : Nat → Core
  | 0 => c
  | n + 1 => refillRiser (riserEntryFree c) n

/-- A task and all that names it gone from its core (step 9). A task of a cluster keeps its allocations until the whole
cluster has gone (R147). -/
def releaseTask (s : State) (core place : Nat) (t : Task) : State :=
  let rs := threadRefs core place t
  let mine (f : FaultRec) : Bool := f.handle.toNat / 2 ^ 16 == (s.handle core place 0).toNat / 2 ^ 16
  let s := rs.foldl (fun (s : State) r => ((((s.dropReserved r).unblock r).leaveCrus r).freeCall core place (keyOf r.who).2).unsubscribe
    core (keyOf r.who) fun _ => true) s
  let s := (List.range s.part.crucibles).foldl (fun (s : State) n =>
    match (s.core? core).bind fun c => c.cru? n with
    | some k => if k.holder.any fun h => h.1 == place then s.freeCru core n else s
    | none => s) s
  let s := (((s.core? core).map fun c => taskCopies c place).getD []).foldl (fun (s : State) k => s.freeCopy core k.id) s
  let s := (s.forgetPlanes core place).modCore core fun c =>
    refillRiser { c with riser := c.riser.filter fun f => !mine f
                         stalled := c.stalled.filter fun f => !mine f
                         popped := c.popped.filter fun f => !mine f
                         work := c.work.filter fun w => w.place != place } 64
  let s := s.modTask core place fun k => { k with threads := [], insts := [], planes := [], gwait := [] }
  let gone := (s.clusterTasks t).all fun (_, _, k) => k.threads.all (·.exited)
  let all := if t.cluster.isNone then [(core, place)] else if gone then (s.clusterTasks t).map fun (n, p, _) => (n, p) else []
  all.foldl (fun (s : State) (n, p) => (s.modCore n fun c => { c with tasks := eraseKey c.tasks p }).lastTaskGone n) s

/-- The requests that name a task withdrawn. -/
def dropRequests (s : State) (core place : Nat) : State :=
  s.modCore core fun c => { c with reqs := c.reqs.filter fun q => match q with
    | .save p _ => p != place
    | .place .. => true }

/-- A task of a launch saved into a slot: the launch has one task fewer on its cores and one more saved, and a slot given by a
pre-emption is written. -/
def countSaved (s : State) (t : Task) (pa : Nat) : State :=
  let s := s.modLaunch t.launch fun l => { l with live := l.live - 1, saved := l.saved ++ [t.tile] }
  match s.preempt with
  | some p =>
    if p.launch = t.launch && p.given.contains pa then { s with preempt := some { p with written := p.written ++ [pa] } } else s
  | none => s

/-- Steps 4 to 9 for a task whose threads have nothing outstanding. -/
def saveTask (s : State) (core place pa : Nat) : State :=
  let s := s.modTask core place undoArrivals
  let s := (((s.core? core).map fun c => taskCopies c place).getD []).foldl (fun (s : State) k => s.stopCopy core k.id none) s
  match s.core? core, s.task? core place with
  | some c, some t =>
    let slot := t.ctx.kslot.toNat
    let (ctr, s) := s.raiseCtr slot
    let key := if slot = 0 then none else (s.keySlot slot).key
    let bytes := s.sealShell slot key ctr (s.shellHeader core place c t ctr) (s.shellBody core place c t)
    let s := s.devStore pa bytes
    (((s.releaseTask core place t).dropRequests core place).countSaved t pa)
  | _, _ => s

/-! ## ctxload (R307, R322) -/

/-- The sizes a header gives by its counts. -/
def headerSizes (h : List Byte) : ShellSizes :=
  .of (fieldAt h 0x10 2) (fieldAt h 0x30 4) (fieldAt h 0x34 2) (fieldAt h 0x36 1) (fieldAt h 0x37 1) (fieldAt h 0x6C 4)

/-- Whether a watchpoint control at an offset has its zero fields zero (R348). -/
def watchOk (h : List Byte) (o : Nat) : Bool := bits (fieldAt h o 4) 12 3 == 0 && bits (fieldAt h o 4) 16 16 == 0

/-- Whether a header is well formed: values, reserved fields, and sizes that agree with the counts. -/
def headerOk (h : List Byte) : Bool :=
  let z := headerSizes h
  let flags := fieldAt h 7 1
  fieldAt h 0 4 == 0x4C454853 && fieldAt h 4 2 == 1 && flags / 4 == 0 && (flags % 2 == 1) == (fieldAt h 6 1 != 0) &&
    1 ≤ fieldAt h 0x10 2 && fieldAt h 0x10 2 ≤ 1024 && 3 ≤ fieldAt h 0x13 1 && fieldAt h 0x13 1 ≤ 7 &&
    [0, 8, 16, 32, 64, 128].contains (fieldAt h 0x14 1) && zeroAt h 0x15 3 && fieldAt h 0x30 4 % 16 == 0 &&
    fieldAt h 0x30 4 ≤ 2 ^ 20 && fieldAt h 0x34 2 ≤ 256 && fieldAt h 0x36 1 ≤ 2 && fieldAt h 0x37 1 ≤ 32 &&
    fieldAt h 0x38 4 == z.scr && fieldAt h 0x3C 4 == z.acc && fieldAt h 0x40 4 == z.pln && fieldAt h 0x44 4 == z.cpy &&
    fieldAt h 0x70 4 == z.pnd && watchOk h 0x60 && watchOk h 0x64 && zeroAt h 0x68 4 && zeroAt h 0x74 124

/-- Whether the fields of a fault record that are shown as zero are zero (R4, R336). -/
def recordOk (b : List Byte) : Bool := bits (fieldAt b 0x28 8) 18 46 == 0 && zeroAt b 0x38 8

/-- Whether JOIN of a thread block has the zero fields of its form zero (R305). -/
def joinOk (x : Nat) : Bool := bits x 42 20 == 0 && (bits x 62 2 != 2 || bits x 0 42 == 0)

/-- Whether a thread block is well formed: of an exited thread all but TFLAGS is zero (R305, R307). -/
def blockOk (b : List Byte) : Bool :=
  let flags := fieldAt b 0x0E 1
  if flags.testBit 2 then flags / 8 == 0 && zeroAt b 0 14 && zeroAt b 0x0F 497
  else flags / 8 == 0 && fieldAt b 0x0D 1 ≤ 9 && !(fieldAt b 0x0C 1).testBit 0 && zeroAt b 0x0F 1 &&
    bits (fieldAt b 0x08 4) 14 18 == 0 && joinOk (fieldAt b 0x20 8) && zeroAt b 0x38 8 &&
    accOk ((b.drop 0x140).take 80) && fieldAt b 0x190 1 < 32 && zeroAt b 0x191 47 && (fieldAt b 0x0D 1 != 8 || recordOk (b.drop 0x1C0)) &&
    !pcBad (BitVec.ofNat 64 (fieldAt b 0 8))

/-- `n` parts of `k` bytes from an offset. -/
def parts (bs : List Byte) (o k n : Nat) : List (List Byte) := (List.range n).map fun i => (bs.drop (o + k * i)).take k

/-- Whether the unused bits of the last byte of full bits are zero (R306). -/
def fillsOk (scratch : Nat) (b : List Byte) : Bool :=
  scratch % 128 == 0 || (fieldAt b (scratch + scratch / 128) 1) / 2 ^ (scratch % 128 / 16) == 0

/-- Whether a body in clear is well formed. -/
def bodyOk (z : ShellSizes) (scratch : Nat) (b : List Byte) : Bool :=
  (parts b 0 512 z.threads).all blockOk && fillsOk scratch (b.drop z.scrAt) &&
    (parts b z.pndAt 64 (z.pnd / 64)).all recordOk && (parts b z.accAt 80 (z.acc / 80)).all accOk &&
    (parts b z.plnAt 2112 (z.pln / 2112)).all planeOkBytes && (parts b z.cpyAt 96 (z.cpy / 96)).all copyOk

/-- A thread from its block, runnable at its restart point unless its state says otherwise (R322 step 5). -/
def threadOf (s : State) (n : Nat) (b : List Byte) : Thread :=
  let flags := fieldAt b 0x0E 1
  let pc : DWord := BitVec.ofNat 64 (fieldAt b 0 8)
  let t := Thread.create pc
  if flags.testBit 2 then { t with exited := true }
  else
    let t := (List.range 64).foldl (fun (t : Thread) i => t.setReg (BitVec.ofNat 6 i) (BitVec.ofNat 32 (fieldAt b (0x40 + 4 * i) 4))) t
    let bst := fieldAt b 0x0D 1
    { t with
      fpctl := BitVec.ofNat 32 (fieldAt b 8 4 % 2 ^ 14), preds := BitVec.ofNat 8 (fieldAt b 0x0C 1) &&& 0xFE
      full := BitVec.ofNat 64 (fieldAt b 0x10 8), poison := BitVec.ofNat 64 (fieldAt b 0x30 8)
      signal := if flags.testBit 0 then some (Config.shellSignal (s.free + 1 + n)) else none
      kept := if flags.testBit 1 then
          some { pc, entry := .ofBytes ((b.drop 0x140).take 80), flags := BitVec.ofNat 5 (fieldAt b 0x190 1) }
        else none
      woken := if bst = 3 then some pc else none
      state := match bst with
        | 5 => .join (joinOf (fieldAt b 0x20 8))
        | 8 => .riser
        | 9 => .syscall (BitVec.ofNat 16 (fieldAt b 0x18 8 / 2 ^ 32))
        | _ => .runnable }

/-- The task of a shell. Who has arrived at a barrier word before the save stands nowhere in it (`Task.ended`). -/
def taskOfShell (s : State) (c : Core) (core : Nat) (h b : List Byte) : Task :=
  let z := headerSizes h
  let recpa := fieldAt h 0x48 8
  let scratch := fieldAt h 0x30 4
  let tile := fieldAt h 0x2C 4
  let reqw := 2 ^ fieldAt h 0x13 1
  let launch := s.launches.find? fun l => l.pa == recpa
  let cluster : Option ClusterPos := match launch with
    | some l =>
      if l.desc.clusterCores = 1 then none
      else some { origin := originOf l.desc core, clw := l.desc.clw, clh := l.desc.clh, peer := tile % l.desc.clusterCores }
    | none => none
  let fullBits := (b.drop (z.scrAt + scratch)).take ((scratch + 127) / 128)
  let accs := (List.range (256 * fieldAt h 0x34 2)).filterMap fun e =>
    let a := AccEntry.ofBytes ((b.drop (z.accAt + 80 * e)).take 80)
    if a = {} then none else some (e, a)
  let watch (o : Nat) : WatchReg :=
    { addr := BitVec.ofNat 64 (fieldAt h (0x50 + 8 * o) 8), ctl := BitVec.ofNat 32 (fieldAt h (0x60 + 4 * o) 4 &&& 0x8FFF) }
  { threads := (parts b 0 512 z.threads).zipIdx.map fun (x, n) => s.threadOf n x
    reqw, setw := none, grant := grantFor s.part c reqw, segw := fieldAt h 0x14 1, lid := BitVec.ofNat 32 (fieldAt h 0x18 4)
    coord := (BitVec.ofNat 32 (fieldAt h 0x20 4), BitVec.ofNat 32 (fieldAt h 0x24 4), BitVec.ofNat 32 (fieldAt h 0x28 4))
    tile, recpa, launch := (launch.map Launch.no).getD s.launchNo, ctx := s.context (fieldAt h 0x1C 4), scratch, base := c.baseFor scratch s.free
    bytes := Memory.write [] 0 ((b.drop z.scrAt).take scratch)
    empties := (List.range (scratch / 16)).filter fun g => !(fullBits.getD (g / 8) 0).getLsbD (g % 8)
    spois := [], gwait := [], accslots := fieldAt h 0x34 2, accs, insts := []
    arrived := [], ended := some []
    watch0 := watch 0, watch1 := watch 1
    cluster, planes := (parts b z.plnAt 2112 (z.pln / 2112)).map SavedPlane.ofBytes, stopped := cluster.isSome }

/-- The records of threads that were in the Riser go to this core's (R305), and the system calls are posted anew (R345). -/
def reenter (s : State) (core place : Nat) (b : List Byte) (n : Nat) : State :=
  let blk := (b.drop (512 * n)).take 512
  let r : ThreadRef := { core, who := .user place n }
  match (s.thread? r).map Thread.state with
  | some .riser =>
    s.enterRiser core { FaultRec.ofBytes (blk.drop 0x1C0) with core, handle := s.handle core place n }
  | some (.syscall _) => s.postCall core place n
  | _ => s

/-- The tasks of a cluster position run once every one of them is on its core (R322): there is one for each index of the
position below N (R243), since those of a cluster retire together (R147). -/
def wakeCluster (s : State) (t : Task) : State :=
  match s.launch? t.launch, t.cluster with
  | some l, some _ =>
    let c := l.desc.clusterCores
    let here := (s.clusterTasks t).filter fun x => !x.2.2.threads.isEmpty
    if here.length < min c (l.desc.total - t.tile / c * c) then s
    else here.foldl (fun (s : State) (n, p, _) => s.modTask n p fun k => { k with stopped := k.saver.isSome }) s
  | _, _ => s

/-- The effects of a `ctxload` that is accepted: the handle, and the state. -/
def loadTask (s : State) (core pa : Nat) (h b : List Byte) : Word × State :=
  match s.core? core with
  | none => (0, s)
  | some c =>
    let slot := fieldAt h 6 1
    let z := headerSizes h
    let t := s.taskOfShell c core h b
    let k := s.keySlot slot
    let s := s.putKeySlot { k with window := k.window.filter fun x => x != fieldAt h 8 8 }
    let free := s.free + z.threads + 1
    let s := { s with free := free + 32, launchNo := s.launchNo + 1 }
    match s.addTask core t with
    | none => (0, s)
    | some (place, s) =>
      let copies := (parts b z.cpyAt 96 (z.cpy / 96)).map (Copy.ofBytes place (userAccessor core t.ctx) fun id =>
        Config.shellPoison (free + id))
      let s := s.modCore core fun c => { c with copies := c.copies ++ copies, icache := [] }
      let s := (List.range z.threads).foldl (fun (s : State) n => s.reenter core place b n) s
      let s := ((parts b z.pndAt 64 (z.pnd / 64)).map FaultRec.ofBytes).foldl (fun (s : State) f =>
        s.modThread { core, who := .user place f.tidx } fun t => { t with later := t.later ++ [f] }) s
      let s := s.modCore core fun c => { c with reqs := c.reqs.filter fun q => match q with
        | .place x _ => x != pa
        | .save .. => true }
      let s := if s.preempt.any fun p => p.launch = t.launch then
          s.modCore core fun c => { c with reqs := c.reqs ++ [.save place (c.gen place)] }
        else s
      let s := s.shellLoaded t.launch pa t.tile
      (s.handle core place 0, s.wakeCluster t)

/-- Whether a counter value of a slot belongs to a shell sealed before a `kclr` under another key than the slot holds: such a
shell goes on to its tag (R324; notes/assumptions/119.md). -/
def otherKey (s : State) (slot ctr : Nat) : Bool :=
  let k := s.keySlot slot
  (k.past.find? fun p => ctr ≤ p.1).any fun p => some p.2 != k.key

/-- The checks of R322 on a header and the bytes after it, in order: a status, or the body in clear. Poisoned bytes are no
shell: a header is malformed with them, a sealed body fails its tag (notes/assumptions/126.md). -/
def shellCheck (s : State) (core pa : Nat) (h : List Byte) (poisoned : Bool) : Except Status (List Byte) :=
  let z := headerSizes h
  let slot := fieldAt h 6 1
  let ctxn := fieldAt h 0x1C 4
  let (body, torn) := s.readHomeBytes (pa + 256) z.body
  let iv := shellIv slot (BitVec.ofNat 64 (fieldAt h 8 8))
  let copies := (parts body z.cpyAt 96 (z.cpy / 96))
  let held (c : Core) (l : List (List Byte)) : Bool := l.any fun x => c.copies.any fun k => k.id == bits (fieldAt x 0 32) 206 5
  match s.core? core with
  | none => .error .noRoom
  | some c =>
    if poisoned || !headerOk h then .error .format
    else if !s.paOk pa (256 + z.body) then .error .badAddr
    else if slot = 0 && (torn || !bodyOk z (fieldAt h 0x30 4) body) then .error .format
    else if 1024 ≤ ctxn || !s.ctxValid ctxn || (s.context ctxn).kslot.toNat != slot then .error .ctxBad
    else if slot != 0 && (s.keySlot slot).key.isNone then .error .noKey
    else if slot != 0 && !s.current slot (fieldAt h 8 8) && !s.otherKey slot (fieldAt h 8 8) then .error .stale
    else if !c.fits (fieldAt h 0x10 2) (fieldAt h 0x30 4) (fieldAt h 0x34 2) then .error .noRoom
    else match (s.keySlot slot).key with
      | some key =>
        if slot = 0 then (if held c copies then .error .noRoom else .ok body)
        else
          let ks := s.shellKey slot key
          if torn || !s.current slot (fieldAt h 8 8) || gcmTag ks iv (h.take 0xF0) body != (h.drop 0xF0).take 16 then .error .tag
          else
            let clear := gcmCrypt ks iv body
            if !bodyOk z (fieldAt h 0x30 4) clear then .error .format
            else if held c (parts clear z.cpyAt 96 (z.cpy / 96)) then .error .noRoom
            else .ok clear
      | none => if held c copies then .error .noRoom else .ok body

end State

/-! ## The instructions -/

/-- `ctxsave` (R321): its checks are made once, before it stops the task. -/
def execCtxsave (g : Guard) (d : Reg) (a b : Src) (s : State) : Host.Outcome State Fault Refusal :=
  privOp s g [(a, 2), (b, 1)] [] [(d, 1)] fun n th =>
    let core := s.issuer.core
    let pa := (th.reg64 a.reg).toNat
    match s.core? core, s.named? core (th.reg b.reg) with
    | some c, some (place, _) =>
      match s.task? core place with
      | none => .next (s.answer d .noTask)
      | some t =>
        if t.threads.isEmpty then .next (s.answer d .noTask)
        else if t.saver != some n && !s.paOk pa (256 + (s.shellSizes core place c t).body) then .next (s.answer d .badAddr)
        else if t.saver != some n && t.ctx.kslot != 0 && (s.keySlot t.ctx.kslot.toNat).key.isNone then
          .next (s.answer d .noKey)
        else
          let rs := State.threadRefs core place t
          let s := rs.foldl State.quiet (s.stopIssue core place n t)
          if rs.all s.quietNow && !s.copySends core place then
            let s' := s.saveTask core place pa
            if s'.devWaits then .hold s else .next (s'.answer d .ok)
          else .hold s
    | _, _ => .next (s.answer d .noTask)

/-- `ctxload` (R322). -/
def execCtxload (g : Guard) (d : Reg) (a : Src) (s : State) : Host.Outcome State Fault Refusal :=
  privOp s g [(a, 2)] [] [(d, 2)] fun _ th =>
    let core := s.issuer.core
    let pa := (th.reg64 a.reg).toNat
    if !s.paOk pa 256 then .next ((s.answer d .badAddr).giveReg (d + 1) 0)
    else
      let (h, poisoned, s') := s.devLoad pa 256
      let n := (State.headerSizes h).body
      let s' := if State.headerOk h && s'.paOk pa (256 + n) then (s'.devLoad (pa + 256) n).2.2 else s'
      let (ans, handle, s') : Status × Word × State := match s'.shellCheck core pa h poisoned with
        | .error x => (x, 0, s')
        | .ok body =>
          let (handle, s') := s'.loadTask core pa h body
          (.ok, handle, s')
      if s'.devWaits then .hold s else .next ((s'.answer d ans).giveReg (d + 1) handle)

end Sys2Proof.Machine
end

