-- ==== Sys2Proof/Machine/LaunchEvents.lean ====
section
/-!
DEFINITION. The events of launches: doorbells, aging, dispatch, retirement and pre-emption (spec/13_launch_runners.md R230
to R248; spec/12_threads_groups.md R215; spec/08_memory_spaces.md R147).
-/

namespace Sys2Proof.Machine

namespace State

/-! ## Retirement (R215, R236) -/

/-- Whether the writes of a core can reach their homes: no page of a dirty line is busy. -/
def canFlush (s : State) (n : Nat) : Bool :=
  ((s.core? n).map fun c => (c.wbacks ++ c.l1).all fun l => l.dirty == 0 || !s.pageBusy l.pa).getD true

/-- Every write of a core at its home, and those to host memory complete: the release at `.sys` of its threads. -/
def flushDirty (s : State) (n : Nat) : State :=
  let ls := ((s.core? n).map fun c => ((c.wbacks ++ c.l1).filter (·.dirty != 0)).map L1Line.pa).getD []
  (ls.eraseDups.foldl (fun (s : State) la => (s.flushCore n la).pushLine la) s).modCore n fun c => { c with hwrites := [] }

/-- The tasks that retire together: a task, or those of its cluster that are on their cores (R147). -/
def retireSet (s : State) (core place : Nat) (t : Task) : List (Nat × Nat × Task) :=
  if t.cluster.isNone then [(core, place, t)] else (s.clusterTasks t).filter fun x => !x.2.2.threads.isEmpty

/-- A task gone from its core and its launch. -/
def retireOne (s : State) (x : Nat × Nat × Task) : State :=
  let (n, p, t) := x
  ((s.releaseTask n p t).dropRequests n p).modLaunch t.launch fun l => { l with live := l.live - 1 }

/-- Whether the stores of a task's threads have all been performed. -/
def storesDone (s : State) (x : Nat × Nat × Task) : Bool :=
  (threadRefs x.1 x.2.1 x.2.2).all fun r => ((s.thread? r).map fun t => t.queue.isEmpty).getD true

/-- The retirement of a task and its cluster, and what its launch does when it was the last. -/
def retire (s : State) (core place : Nat) (t : Task) : State :=
  let xs := s.retireSet core place t
  let ready := xs.all fun (n, p, k) => ((s.core? n).map fun c => retirable c p k).getD false
  if t.threads.isEmpty || !ready then s
  else
    let s := xs.foldl (fun (s : State) (n, p, k) => (threadRefs n p k).foldl drain s) s
    let cores := (xs.map Prod.fst).eraseDups
    if !xs.all s.storesDone || !cores.all s.canFlush then s
    else
      let s := cores.foldl flushDirty s
      (xs.foldl retireOne s).launchDone t.launch

/-! ## The end of a pre-emption (R247 steps 3 and 4) -/

/-- Whether a task of a launch is on a core. -/
def resident (s : State) (no : Nat) : Bool :=
  s.cores.any fun c => c.tasks.any fun p => p.2.launch == no && !p.2.threads.isEmpty

/-- Words written one after the other. -/
def storeWords (s : State) (pa : Nat) (l : List Nat) : State := s.devStore pa (l.flatMap (leBytes 8))

/-- The lists of a pre-empted launch written, and the launch suspended. -/
def suspendLaunch (s : State) (p : Preempt) (l : Launch) : State :=
  let kept := p.kept.filter fun a => l.shells.any fun x => x.1 == a
  let made := p.given.filter p.written.contains
  let first := kept ++ made
  let list := first ++ p.slots.filter fun a => !(first.contains a)
  let rs := ((l.runners.filter fun r => r.lo < r.hi).foldl (fun m r => insertKey m r.made r) []).map Prod.snd
  let s := s.storeWords l.desc.shellptr (list.take p.slots.length)
  let s := s.storeWords l.desc.runptr (rs.flatMap fun r => [r.lo, r.hi])
  let s := s.devStore (l.pa + 80) (leBytes 4 rs.length)
  let s := s.devStore (l.pa + 96) (leBytes 4 first.length)
  s.modLaunch l.no fun l => { l with state := .suspended, runners := [], shells := [], live := 0, frozen := false }

/-- Steps 3 and 4 of R247, once no task of the launch is left. A launch all of whose tasks retired has completed. -/
def endPreempt (s : State) : State :=
  match s.preempt with
  | none => s
  | some p =>
    if s.resident p.launch then s
    else
      let s := match s.launch? p.launch with
        | some l => s.suspendLaunch p l
        | none => s
      { s with preempt := none, regs := { s.regs with lpDone := true } }

end State

/-! ## Events -/

/-- `DOORBELL` (R230). -/
def execDoorbell (q : Nat) (s : State) : Host.Outcome State Fault Refusal := .next (s.ringBell q)

/-- `PRIORITY_AGING` (R238): launch number `k` has been ready, or dispatched, for another 2^20 AC cycles. -/
def execPriorityAging (k : Nat) (s : State) : Host.Outcome State Fault Refusal :=
  .next (s.modLaunch k fun l => if l.state == .ready || l.state == .dispatched then { l with age := min 3 (l.age + 1) } else l)

/-- `LAUNCH_DISPATCH` (R238, R241, R248). -/
def execLaunchDispatch (k : Nat) (s : State) : Host.Outcome State Fault Refusal := .next (s.orHeld ((s.dispatchLaunch k).launchDone k))

/-- `TASK_DISPATCH` (R239). -/
def execTaskDispatch (core : Nat) (s : State) : Host.Outcome State Fault Refusal :=
  .next (if s.coresRun && !s.health.failed then (s.dispatchTask core).2 else s)

/-- `TASK_RETIRE` (R215). -/
def execTaskRetire (core place : Nat) (s : State) : Host.Outcome State Fault Refusal :=
  .next (s.ifRuns (match s.task? core place with
    | some t => s.orHeld (s.retire core place t)
    | none => s))

/-- `LAUNCH_PREEMPT` (R246, R247 step 1): a write of LPREEMPT. -/
def execLaunchPreempt (value : DWord) (s : State) : Host.Outcome State Fault Refusal := .next (s.orHeld (s.startPreempt value))

/-- `PREEMPT_COMPLETE` (R247 steps 3 and 4). -/
def execPreemptComplete (s : State) : Host.Outcome State Fault Refusal := .next (s.orHeld s.endPreempt)

end Sys2Proof.Machine
end

