-- ==== Sys2Proof/Machine/HostEvents.lean ====
section
/-!
DEFINITION. The events of the host port: bias flips, snoops, page slots, eviction marks, shoot-downs,
and the device registers as the host reaches them through BAR0 (spec/09_ordering_rules.md R171;
spec/11_ladle_host_fabric.md R207 to R210; spec/19_contexts_translation.md R296 to R299;
spec/22_traps_restart.md R351; spec/26_device.md R379, R382).
-/

namespace Sys2Proof.Machine

namespace State

/-- What the host does, where the device accepts it. -/
def hostDoes (s : State) (f : State → State) : State := if s.accepts then (f s).settle else s

/-! ## Snoops (R148, R210) -/

/-- A host snoop of a line of host memory (R148): the device's dirty copies are written back, and the L2 answers with the
line; a snoop that invalidates drops the device's copies and leaves what the host then writes. -/
def snoop (s : State) (pa : Nat) (data : Option (List Byte)) : State :=
  let la := lineOf pa
  if !s.linkUp || pa < hostBase then s
  else
    let s := s.flushAll la
    let s := s.send (.snoopData la (s.readHome la 64).1)
    match data with
    | none => s
    | some d => (s.dropLine la).storeHome la ((d ++ List.replicate 64 0).take 64) 0

/-- An answer to a back-invalidate snoop (R210 step 2), with what the host wrote back. -/
def snoopAnswer (s : State) (page line : Nat) (data : Option (List Byte)) : State :=
  match s.flips.find? fun f => f.page == page with
  | none => s
  | some f =>
    if f.toHost || 64 ≤ line || f.lines.has line then s
    else
      let la := page * 4096 + 64 * line
      let s := match data with
        | some d => if s.hostRefused la 64 then s else s.storeHome la ((d ++ List.replicate 64 0).take 64) 0
        | none => s
      { s with flips := s.flips.map fun g => if g == f then { g with lines := g.lines.add line } else g }

/-! ## Device registers -/

/-- Registers that host accesses through BAR0 do not reach (R299, R351). -/
def deviceOnly (off : Nat) : Bool := off / 4096 == 6 || off / 4096 == 7

/-- Offset at which a write stands for the host's programming of the HDM decoder in configuration space (R152, R207;
notes/assumptions/71.md): one past BAR0. -/
def hdmOffset : Nat := 2 ^ 26

/-- A host write of a whole register; one that cannot complete yet changes nothing. -/
def hostRegWrite (s : State) (off : Nat) (v : DWord) : State :=
  if off = hdmOffset then { s with hdmBase := v.toNat }
  else if deviceOnly off || off % 8 != 0 then s
  else (s.regWrite off (leBytes 8 v.toNat)).getD s

end State

/-- A GO in BIASCTL for a page and a direction. -/
def biasGo (page : Nat) (toHost : Bool) : DWord := BitVec.ofNat 64 (page % 2 ^ 27 * 4096 + boolBit toHost 1 + 1)

/-- A GO in PSLOTCTL for a page and a slot. -/
def pslotGo (page slot : Nat) : DWord := BitVec.ofNat 64 (slot % 256 * 2 ^ 56 + page % 2 ^ 27 * 4096 + 1)

/-- A GO in EVICTCTL for a page and an operation. -/
def evictGo (page : Nat) (unmark : Bool) : DWord := BitVec.ofNat 64 (page % 2 ^ 27 * 4096 + boolBit unmark 1 + 1)

/-! ## Events -/

/-- `BIASCTL_TO_HOST` (R208, R209). -/
def execBiasctlToHost (page : Nat) (s : State) : Host.Outcome State Fault Refusal :=
  .next (s.hostDoes fun s => s.writeBiasctl (biasGo page true))

/-- `BIASCTL_TO_DEVICE` (R208, R210). -/
def execBiasctlToDevice (page : Nat) (s : State) : Host.Outcome State Fault Refusal :=
  .next (s.hostDoes fun s => s.writeBiasctl (biasGo page false))

/-- `BIAS_FLIP_COMPLETE` (R209 step 3, R210 step 3). -/
def execBiasFlipComplete (page : Nat) (s : State) : Host.Outcome State Fault Refusal :=
  .next (s.completeFlip page).serveHost.serveBells.settle

/-- `HOST_MEM_READ` (R171, R207). -/
def execHostMemRead (off size : Nat) (s : State) : Host.Outcome State Fault Refusal := .next (s.hostRead off size)

/-- `HOST_MEM_WRITE` (R171, R207). -/
def execHostMemWrite (off : Nat) (bytes : List Byte) (s : State) : Host.Outcome State Fault Refusal :=
  .next (s.hostWrite off bytes)

/-- `HOST_SNOOP` (R148). -/
def execHostSnoop (pa : Nat) (data : Option (List Byte)) (s : State) : Host.Outcome State Fault Refusal :=
  .next (s.snoop pa data)

/-- `PAGE_SLOT_CHANGE` (R299). -/
def execPageSlotChange (page slot : Nat) (s : State) : Host.Outcome State Fault Refusal :=
  .next (s.writePslotctl (pslotGo page slot))

/-- `PAGE_SLOT_CHANGE_COMPLETE` (R299). -/
def execPageSlotChangeComplete (s : State) : Host.Outcome State Fault Refusal :=
  .next s.completePslot.serveHost.settle

/-- `EVICT_MARK` (R351). -/
def execEvictMark (page : Nat) (s : State) : Host.Outcome State Fault Refusal := .next (s.writeEvictctl (evictGo page false))

/-- `EVICT_UNMARK` (R351, R360). -/
def execEvictUnmark (page : Nat) (s : State) : Host.Outcome State Fault Refusal := .next (s.writeEvictctl (evictGo page true))

/-- `EVICT_MARK_COMPLETE` (R351, R360). -/
def execEvictMarkComplete (s : State) : Host.Outcome State Fault Refusal := .next s.completeMark

/-- `SHOOTDOWN_POST` (R296): a write of SDCMD; while the queue is full it does not complete. -/
def execShootdownPost (value : DWord) (s : State) : Host.Outcome State Fault Refusal :=
  .next (s.hostDoes fun s => (s.writeSdcmd value).getD s)

/-- `SHOOTDOWN_COMPLETE` (R297). -/
def execShootdownComplete (s : State) : Host.Outcome State Fault Refusal := .next s.completeShoot

/-- `IMSIC_INVALIDATE_ALL` (R298). -/
def execImsicInvalidateAll (s : State) : Host.Outcome State Fault Refusal :=
  .next (s.hostDoes fun s => (s.imsicWrite 1).getD s)

/-- `IMSIC_PROCESS_QUEUE` (R298). -/
def execImsicProcessQueue (s : State) : Host.Outcome State Fault Refusal :=
  .next (s.hostDoes fun s => (s.imsicWrite 2).getD s)

/-- `DEVCFG_WRITE` (R153). -/
def execDevcfgWrite (value : DWord) (s : State) : Host.Outcome State Fault Refusal :=
  .next (s.hostDoes fun s => s.writeDevcfg value)

/-- `CASTERLD_GO` (R378, R379). -/
def execCasterldGo (value : DWord) (s : State) : Host.Outcome State Fault Refusal :=
  .next (s.hostDoes fun s => s.writeCasterld value)

/-- `HEVT_READ` (R364): the value read leaves in a message. -/
def execHevtRead (s : State) : Host.Outcome State Fault Refusal :=
  .next (if !s.linkUp then s
    else
      let v := (s.regValue 0x9000).getD 0
      s.readHevt.send (.hostReadData 0x9000 (leBytes 8 v.toNat) false))

/-- `CNTCTL_WRITE` (R382). -/
def execCntctlWrite (value : DWord) (s : State) : Host.Outcome State Fault Refusal :=
  .next (s.hostDoes fun s => s.writeCntctl value)

/-- `REGISTER_WRITE` (R4, R208, R230, R292, R379): a host write of a device register. -/
def execRegisterWrite (off : Nat) (value : DWord) (s : State) : Host.Outcome State Fault Refusal :=
  .next (s.hostDoes fun s => s.hostRegWrite off value)

/-- `BACK_INVALIDATE_RESPONSE` (R210 step 2). -/
def execBackInvalidateResponse (page line : Nat) (data : Option (List Byte)) (s : State) : Host.Outcome State Fault Refusal :=
  .next (s.snoopAnswer page line data)

end Sys2Proof.Machine
end

