-- ==== Sys2Proof/Machine/DeviceEvents.lean ====
section
/-!
DEFINITION. The events of the device itself: counters and their records, throttling, rails, reset and boot, management
and the test access port (spec/26_device.md R374 to R383; spec/19_contexts_translation.md R308, R309;
spec/23_errors_degraded_checkpoint.md R361).
-/

namespace Sys2Proof.Machine

namespace State

/-! ## Counters (R381 to R383) -/

/-- Whether a device is the one with the lowest number among those it reaches, and sends the beacon. -/
def sendsBeacon (s : State) : Bool := (List.range s.dev).all fun d => !s.reaches d

/-- Whether the lanes of the device are dark. -/
def isDark (s : State) : Bool := s.commit.any fun c => c.dark && c.late.isNone

/-- The counters that depend on timing and on the shared caches, advanced by free values to this latch. -/
def advanceCounters (s : State) : State :=
  let k := s.free
  let f (unit n : Nat) : DWord := Config.counterStep k unit n
  let c := s.count
  { s with free := k + 1
           count := { c with hbmRead := c.hbmRead + f 1024 0, hbmWrite := c.hbmWrite + f 1024 1
                             l2miss := c.l2miss + f 1024 2, hostIn := c.hostIn + f 1024 3
                             hostOut := c.hostOut + f 1024 4 }
           cores := s.cores.zipIdx.map fun (c, n) =>
             { c with count := { c.count with bank := c.count.bank + f n 3, idle := c.count.idle + f n 7 } } }

/-- The 64 bytes of a core in a record. -/
def coreCounters (k : CoreCounters) : List Byte :=
  [k.issued, k.ksteps, k.l1miss, k.bank, k.riser, k.spurious, k.parks, k.idle].flatMap fun x => leBytes 8 x.toNat

/-- A record of 20 KiB (R383). -/
def counterRecord (s : State) (isLocal : Bool) : List Byte :=
  let c := s.count
  let flits (l : List (Nat × Nat)) := (List.range 64).flatMap fun d => leBytes 8 (countAt l d)
  leBytes 8 s.tick.toNat ++ leBytes 8 s.cycle.toNat ++ leBytes 4 s.dev ++ leBytes 1 (bits s.regs.cntctl.toNat 0 5) ++
    leBytes 1 (boolBit isLocal 0 + boolBit s.mhzChanged 1) ++ leBytes 2 s.mhz ++ leBytes 4 s.cntLost.toNat ++
    List.replicate 36 0 ++
    ([c.hbmRead, c.hbmWrite, c.l2miss, c.hostIn, c.hostOut, c.corrected, c.uncorrectable].flatMap fun x => leBytes 8 x.toNat) ++
    flits c.sent ++ flits c.received ++ List.replicate 2952 0 ++ s.cores.flatMap (fun c => coreCounters c.count) ++
    List.replicate (64 * (256 - s.cores.length)) 0

/-- Records made: those written, and those on their way. -/
def recordsMade (s : State) : Word := s.regs.prod + BitVec.ofNat 32 s.records.length

/-- Where the next record goes in the ring (R382). -/
def recordAt (s : State) : Nat :=
  let v := s.regs.cntctl.toNat
  bits v 16 40 * 65536 + s.recordsMade.toNat % 2 ^ bits v 12 4 * recordBytes

/-- Whether the next record is dropped: the ring is full, or its place is barred. -/
def recordDropped (s : State) : Bool :=
  (s.recordsMade - s.regs.cons).toNat == 2 ^ bits s.regs.cntctl.toNat 12 4 || s.recordBarred s.recordAt

/-- A record goes on its way with what is latched, and is written unless a change of one of its pages holds it. -/
def streamRecord (s : State) (isLocal : Bool) : State :=
  let pa := s.recordAt
  let s : State := { s with records := s.records ++ [{ pa, bytes := s.counterRecord isLocal }], cntLost := 0 }
  (s.afterChange (recordPages pa)).writeRecords

/-- A latch with a tick number (R381, R382): a write of CNTCTL takes effect, and a record is streamed or lost. -/
def latch (s : State) (tick : DWord) (isLocal : Bool) : State :=
  let s := { s with tick, regs := { s.regs with cntctl := s.regs.cntNext.getD s.regs.cntctl, cntNext := none } }
  let s := s.advanceCounters
  let s :=
    if !s.regs.cntctl.getLsbD 8 then s
    else if s.recordDropped then { s with cntLost := s.cntLost + 1 }
    else s.streamRecord isLocal
  { s with mhzChanged := false }

/-- Whether the counters run: the device has power. -/
def latches (s : State) : Bool := s.rails == .up

/-! ## Boot (R278, R361, R378) -/

/-- The default plan: all-to-all. -/
def defaultPlan : Plan :=
  (List.range 504).map fun i => (i, { on := true, band := 0, ch := BitVec.ofNat 6 (1 + i % 63) })

/-- A boot that stops with a failure, reported over MCTP. -/
def bootFails (s : State) (code : Nat) : State :=
  let s := { s with stage := 15, failCode := code }
  s.send (.mctpReport s.bootstat)

/-- Whether the health record names nothing. -/
def recordEmpty (r : HealthRecord) : Bool := r.bays.isEmpty && r.cores.isEmpty && r.lanes.isEmpty && r.pages.isEmpty

/-- The units of the health record taken out of service (R361, R363). -/
def restoreHealth (s : State) : State :=
  let r := s.record
  let s : State := { s with
    cores := s.cores.zipIdx.map fun (c, n) =>
      { c with bays := c.bays.filter fun b => !(r.bays.contains (n, b))
               service := if r.cores.has n then .out else .running }
    health := { s.health with lanesDown := r.lanes, retired := r.pages }
    marked := r.pages }
  if recordEmpty r then s else s.replaceRequested

/-- The stages of a boot up to the wait for the Caster image. -/
def boot (s : State) (f : BootFacts) : State :=
  if !s.firmwareOk then s.bootFails 1
  else match f.config with
    | none => s.bootFails 2
    | some t =>
      if !f.healthOk then s.bootFails 4
      else
        let s := { s with thresholds := t }.restoreHealth
        if !f.hbmOk then s.bootFails 3
        else
          let s := { s with plan := if s.part.fab then defaultPlan else [] }
          let s := f.unlocked.foldl (fun (s : State) x => s.laneOut x.1 x.2.1 x.2.2) s
          { s with stage := 6 }

/-- The machine right after a reset of this one: what the firmware store and the host's memory hold stays, and the schedule and
the free values go on. -/
def afterReset (s : State) (rails : Rails) : State :=
  { State.resetOf s.part s.record s.firmware (s.resetNo + 1) with
    firmwareOk := s.firmwareOk, rails, agenda := s.agenda, free := s.free
    mem := s.mem.filter fun c => hostBase ≤ c.1, mpois := s.mpois.filter fun u => hostBase ≤ 16 * u }

/-! ## Management (R308, R309, R380) -/

/-- Whether management runs: a device stopped in stage 1 accepts nothing but a new image (R378). -/
def managed (s : State) : Bool := s.rails == .up && s.stage != 0 && !(s.stage == 15 && s.failCode < 3)

/-- The eight thresholds of the configuration record in effect. -/
def thresholdList (t : Thresholds) : List Nat :=
  [t.lane, t.bay, t.coreCorrected, t.coreUncorrectable, t.pageCorrected, t.pageUncorrectable, t.channel, t.optical]

/-- The Caster image as it was measured, byte by byte. -/
def imageBytes (s : State) : List Byte := s.image.read 0 (s.cores.length * 2 ^ 22)

/-- What the health record names, as numbers: bays by core · 4 + bay, cores, lanes, pages. -/
def recordNumbers (r : HealthRecord) : List Nat := (r.bays.map fun p => p.1 * 4 + p.2) ++ r.cores ++ r.lanes ++ r.pages

/-- The four measurements (R308). -/
def measurements (s : State) : List (List Byte) :=
  [Config.firmwareDigest s.booted, Config.configDigest (thresholdList s.thresholds),
   if s.stage = 7 then sha512 s.imageBytes else [],
   leBytes 4 s.part.feat.toNat ++ leBytes 8 (healthWord s) ++ (recordNumbers s.record).flatMap (leBytes 4)]

/-- A key staged for a slot (R308). -/
def stageKey (s : State) (slot : Nat) (key : BitVec 256) : State :=
  if slot = 0 || 255 < slot then s else s.putKeySlot { s.keySlot slot with staged := some key }

/-- What a vendor-defined message reads. The sensor readings are free values. -/
def vendorValues (s : State) : VendorItem → List Nat
  | .bootstat => [s.bootstat.toNat]
  | .health => [healthWord s]
  | .healthRecord => recordNumbers s.record
  | .sensors => (List.range 64).map fun i => (Config.sensor s.free i).toNat

end State

/-! ## Events -/

/-- `COUNTER_TICK` (R381): the device latches on its own time, and sends the beacon if it is the one that does. -/
def execCounterTick (s : State) : Host.Outcome State Fault Refusal :=
  .next (if !s.latches then s
    else if !s.part.fab || s.isDark then s.latch (s.tick + 1) true
    else if s.sendsBeacon then (s.latch (s.tick + 1) false).send (.beacon (s.tick + 1))
    else s)

/-- `TIME_BEACON` (R381). -/
def execTimeBeacon (tick : DWord) (s : State) : Host.Outcome State Fault Refusal :=
  .next (if !s.latches || !s.part.fab || s.isDark || s.sendsBeacon then s else s.latch tick false)

/-- `BEACON_TIMEOUT` (R381). -/
def execBeaconTimeout (s : State) : Host.Outcome State Fault Refusal :=
  .next (if !s.latches || (s.part.fab && !s.isDark && s.sendsBeacon) then s else s.latch (s.tick + 1) true)

/-- `THROTTLE_STEP_DOWN` (R375). -/
def execThrottleStepDown (s : State) : Host.Outcome State Fault Refusal :=
  .next (if s.rails != .up || s.mhz ≤ 400 then s else { s with mhz := s.mhz - 100, mhzChanged := true })

/-- `THROTTLE_STEP_UP` (R375). -/
def execThrottleStepUp (s : State) : Host.Outcome State Fault Refusal :=
  .next (if s.rails != .up || 800 ≤ s.mhz then s else { s with mhz := s.mhz + 100, mhzChanged := true })

/-- `THERMAL_TRIP` (R375): every core stops until reset. -/
def execThermalTrip (s : State) : Host.Outcome State Fault Refusal :=
  .next (if s.rails != .up || s.therm then s
    else
      let s := { s with therm := true }
      s.send (.mctpReport s.bootstat))

/-- The rails of a part in the order of R374; the module's stage makes its own. -/
def railOrder : Part → List Nat
  | .tk880 | .tk880m => [1, 2, 3, 4, 5, 6]
  | .tk840 => [1, 2, 3, 4, 5]

/-- `POWER_UP` (R374). -/
def execPowerUp (order : List Nat) (s : State) : Host.Outcome State Fault Refusal :=
  .next (if s.rails != .down then s
    else s.afterReset (if order == railOrder s.part || s.part == .tk880m then .up else .broken))

/-- `POWER_DOWN` (R374): whatever the order, all but the firmware store is lost. -/
def execPowerDown (_order : List Nat) (s : State) : Host.Outcome State Fault Refusal := .next (s.afterReset .down)

/-- `DEVICE_RESET` (R374, R378). -/
def execDeviceReset (facts : BootFacts) (s : State) : Host.Outcome State Fault Refusal :=
  .next (if s.rails != .up then s else (s.afterReset .up).boot facts)

/-- `FIRMWARE_UPDATE` (R378): the new image takes effect at the next reset. A failed device accepts none (R356). -/
def execFirmwareUpdate (image : Nat) (valid : Bool) (s : State) : Host.Outcome State Fault Refusal :=
  .next (if s.rails != .up || s.stage = 0 || s.health.failed then s else { s with firmware := image, firmwareOk := valid })

/-- `KEY_DELIVERY` (R308): a key outside a session is discarded. -/
def execKeyDelivery (slot : Nat) (key : BitVec 256) (inSession : Bool) (s : State) : Host.Outcome State Fault Refusal :=
  .next (if s.managed && !s.health.failed && inSession then s.stageKey slot key else s)

/-- `SPDM_REQUEST` (R308). -/
def execSpdmRequest (request : List Byte) (s : State) : Host.Outcome State Fault Refusal :=
  .next (if s.managed then s.send (.mctp (Config.spdmReply request s.measurements)) else s)

/-- `MCTP_CONTROL` (R380). -/
def execMctpControl (message : List Byte) (s : State) : Host.Outcome State Fault Refusal :=
  .next (if s.managed then { s.send (.mctp (Config.mctpReply message s.free)) with free := s.free + 1 } else s)

/-- `VENDOR_READ` (R380). -/
def execVendorRead (item : VendorItem) (s : State) : Host.Outcome State Fault Refusal :=
  .next (if s.managed then { s.send (.vendorReply item (s.vendorValues item)) with free := s.free + 1 } else s)

/-- `HEALTH_RECORD_CLEAR` (R361, R380). -/
def execHealthRecordClear (s : State) : Host.Outcome State Fault Refusal :=
  .next (if s.managed && !s.health.failed then { s with record := {} } else s)

/-- `BYPASS` (R377). -/
def execBypass (s : State) : Host.Outcome State Fault Refusal :=
  .next (if s.rails = .down then s else { s with tap := .bypass })

/-- IDCODE of a part (R377). -/
def idcodeOf : Part → Word
  | .tk880 | .tk880m => 0x188004B7
  | .tk840 => 0x184004B7

/-- `IDCODE` (R377). -/
def execIdcode (s : State) : Host.Outcome State Fault Refusal :=
  .next (if s.rails = .down then s else { s with tap := .idcode }.send (.tdo (idcodeOf s.part)))

/-- `SAMPLE_PRELOAD` (R377): the boundary-scan cells are no state of the device. -/
def execSamplePreload (s : State) : Host.Outcome State Fault Refusal :=
  .next (if s.rails = .down then s else { s with tap := .sample })

/-- `EXTEST` (R377): every core is held in reset until the next reset of the device. -/
def execExtest (s : State) : Host.Outcome State Fault Refusal :=
  .next (if s.rails = .down then s else { s with tap := .extest, extest := true })

end Sys2Proof.Machine
end

