-- ==== Sys2Proof/Machine/Errors.lean ====
section
/-!
DEFINITION. Soft errors and the health counts: corrected and uncorrectable errors of each protected structure, patrol
scrub, and the halving of the counts (spec/23_errors_degraded_checkpoint.md R352 to R357; spec/22_traps_restart.md
R350; spec/19_contexts_translation.md R300, R302).
-/

namespace Sys2Proof.Machine

namespace State

/-- An uncorrectable error counted on the device (R383). -/
def countUncorrectable (s : State) : State :=
  { s with count := { s.count with uncorrectable := s.count.uncorrectable + 1 } }

/-- Whether a core is in service. -/
def inUse (s : State) (n : Nat) : Bool := ((s.core? n).map Core.inService).getD false

/-- Whether an address lies in the part's HBM. -/
def inHbm (s : State) (pa : Nat) : Bool := pa < s.part.hbmBytes

/-- Whether an address lies in memory whose lines the L2 slices hold: the part's HBM, or the host's memory. -/
def inL2 (s : State) (pa : Nat) : Bool := s.inHbm pa || (hostBase ≤ pa && pa < 2 * hostBase)

/-- The core whose pinned window holds an address. -/
def windowCore? (s : State) (pa : Nat) : Option Nat :=
  if s.inWindow pa 1 then s.cores.findIdx? fun c => c.window.toNat ≤ pa && pa < c.window.toNat + windowBytes else none

/-- The lane position of a thread: its place among the 32 of a bay. -/
def lanePos (r : ThreadRef) : Nat := (keyOf r.who).2 % 32

/-- The translations of a core dropped, to be walked again. -/
def dropTlb (s : State) (core : Nat) : State := { s with tlb := s.tlb.filter fun e => e.core != core }

/-- A corrected error (R353): the value is as it was, and a health count grows. -/
def corrected (s : State) : ErrSite → State
  | .register t _ bay =>
    if (s.thread? t).isSome && bay < s.part.bays then s.laneError t.core bay (lanePos t) else s
  | .lane core bay lane => if s.inUse core && bay < s.part.bays && lane < 32 then s.laneError core bay lane else s
  | .scratch core .. | .acc core .. | .plane core .. | .l1 core _ => if s.inUse core then s.coreCorrected core else s
  | .icache core pa =>
    if (s.iline? core (lineOf pa)).isSome then (s.coreCorrected core).putLine core (lineOf pa) none else s
  | .tlb core => (s.dropTlb core).countCorrected
  | .hbm pa | .window _ pa _ => if s.inHbm pa then s.hbmCorrected pa else s
  | .coreState core => if s.inUse core then s.countCorrected else s
  | .deviceState => s.countCorrected
  | .l2 pa _ => if s.inL2 pa then s.countCorrected else s
  | .lineTag _ => s

/-- A register's mark set; a Caster thread that uses it is stopped for a machine check (R350 0x03). -/
def registerLost (s : State) (t : ThreadRef) (r : Reg) : State :=
  if (s.thread? t).isNone then s
  else
    let s := (s.modThread t fun k => { k with poison := putBit k.poison r.toNat true }).countUncorrectable
    match t.who with
    | .user .. => s
    | .caster n => s.dataCheck t.core 0 (· == n)

/-- Data of a pinned window lost at an address: the core whose window holds it raises a machine check, and its Caster threads
that use the data are stopped. Which do is a free value (R350; notes/assumptions/128.md). -/
def windowLost (s : State) (pa : Nat) : State :=
  match s.windowCore? pa with
  | some core =>
    if s.inUse core then
      ({ s with free := s.free + 1 } : State).dataCheck core (BitVec.ofNat 64 pa) (Config.usesLost s.free)
    else s
  | none => s

/-- A line of the L1: a clean one is dropped, of a dirty one the unit is poisoned, and goes home so (R352). -/
def l1Lost (s : State) (core pa : Nat) : State :=
  match s.l1Line? core (lineOf pa) with
  | none => s
  | some l =>
    if l.dirty = 0 then (s.modCore core fun c => { c with l1 := c.l1.erase l }).coreUncorrectable core
    else
      let u := pa % 64 / 16
      ((s.putL1 core { l with pois := putBit l.pois u true, dirty := l.dirty ||| byteMask (16 * u) 16 }).coreUncorrectable
        core).windowLost pa

/-- An uncorrectable error (R352): the data is marked, or what holds it leaves service. -/
def uncorrected (s : State) : ErrSite → State
  | .register t r _ => s.registerLost t r
  | .scratch core place off =>
    if (s.task? core place).any fun t => off < t.scratch then
      (s.modTask core place fun t => { t with spois := t.spois.add (off / 8) }).coreUncorrectable core
    else s
  | .acc core place slot elem =>
    if (s.task? core place).any fun t => slot < t.accslots && elem < 256 then
      (s.modTask core place fun t => t.putAcc slot elem { t.acc slot elem with pois := true }).coreUncorrectable core
    else s
  | .plane core cru row shadow =>
    if cru < s.part.crucibles && row < 64 && s.inUse core then
      (s.modCore core fun c => { c with crus := c.crus.modify cru fun k =>
        if shadow then { k with spois := k.spois.add row } else { k with apois := k.apois.add row } }).coreUncorrectable core
    else s
  | .l1 core pa => s.l1Lost core pa
  | .l2 pa dirty =>
    if s.inL2 pa then 
      (if dirty then ({ s with mpois := s.mpois.add (pa / 16) } : State).countUncorrectable.windowLost pa else s.countUncorrectable)
    else s
  | .icache core pa =>
    if (s.iline? core (lineOf pa)).isSome then s.putLine core (lineOf pa) none else s
  | .tlb core => s.dropTlb core
  | .hbm pa => if s.inHbm pa then (s.hbmUncorrectable pa).windowLost pa else s
  | .coreState core => if s.inUse core then (s.countUncorrectable.healthEvent 2 core).haltCore core 0xFF 0 0 0 else s
  | .deviceState => s.countUncorrectable.deviceFailed
  | .window core pa user =>
    if s.inHbm pa && s.inWindow pa 1 && s.inUse core then
      (s.hbmUncorrectable pa).dataCheck core (BitVec.ofNat 64 pa) fun n => user == some n
    else s
  | .lineTag pa =>
    if s.inHbm pa then
      let la := lineOf pa
      let s := { s with mpois := (List.range 4).foldl (fun m i => m.add (la / 16 + i)) s.mpois
                        health := { s.health with tagFails := s.health.tagFails + 1 } }
      s.windowLost pa
    else s
  | .lane .. => s

/-- Counts halved, rounding down. -/
def halve (l : List (Nat × Nat)) : List (Nat × Nat) := (l.map fun p => (p.1, p.2 / 2)).filter fun p => p.2 != 0

end State

/-- `CORRECTED_ERROR` (R353, R357). -/
def execCorrectedError (site : ErrSite) (s : State) : Host.Outcome State Fault Refusal := .next (s.corrected site).settle

/-- `UNCORRECTABLE_ERROR` (R352, R356). -/
def execUncorrectableError (site : ErrSite) (s : State) : Host.Outcome State Fault Refusal := .next (s.uncorrected site).settle

/-- `PATROL_SCRUB` (R352): a line read, and written back corrected. -/
def execPatrolScrub (pa : Nat) (corrected : Bool) (s : State) : Host.Outcome State Fault Refusal :=
  .next (if s.inHbm pa && corrected then s.hbmCorrected pa else s)

/-- `HEALTH_COUNT_HALVING` (R357). -/
def execHealthCountHalving (s : State) : Host.Outcome State Fault Refusal :=
  .next { s with
    cores := s.cores.map fun c => { c with health :=
      { lanes := State.halve c.health.lanes, bays := State.halve c.health.bays, corrected := c.health.corrected / 2
        uncorrectable := c.health.uncorrectable / 2 } }
    health := { s.health with pages := State.halve s.health.pages, pagesBad := State.halve s.health.pagesBad
                              channels := State.halve s.health.channels, lanes := State.halve s.health.lanes } }

end Sys2Proof.Machine
end

