-- ==== Sys2Proof/Machine/Fetch.lean ====
section
/-!
DEFINITION. The issue of a thread up to the instruction itself: steps 1 to 6 of R42, pairs (spec/02_encoding.md R40 to
R42), and issue selection (spec/12_threads_groups.md R216, R221 to R223).
-/

namespace Sys2Proof.Machine

/-! ## What an instruction of the pairing classes reads and writes (R40) -/

/-- Guard, register sources, destinations, predicates read as sources, predicates written. -/
structure Use where
  g    : Guard
  srcs : List (Src × Nat)
  dsts : List (Reg × Nat)
  qr   : List PredReg
  qw   : List PredReg
  deriving DecidableEq, Repr

def useReg (g : Guard) (srcs : List (Src × Nat)) (d : Reg) (n : Nat) : Use := { g, srcs, dsts := [(d, n)], qr := [], qw := [] }

/-- The use of an integer, address, float or conversion instruction. -/
def useOf (i : Instr) : Option Use :=
  match i with
  | .iadd g ty _ d a b | .isub g ty _ d a b | .imul g ty _ d a b | .imulh g ty d a b | .idiv g ty d a b
  | .irem g ty d a b | .imin g ty d a b | .imax g ty d a b | .and g ty d a b | .or g ty d a b | .xor g ty d a b =>
    some (useReg g (srcA ty a ++ srcB ty b) d (tyRegs ty))
  | .imad g ty _ d a b c => some (useReg g (srcA ty a ++ srcB ty b ++ srcA ty c) d (tyRegs ty))
  | .iabs g ty _ d a | .ineg g ty _ d a | .not g ty d a | .brev g ty d a | .mov g ty d a =>
    some (useReg g (srcA ty a) d (tyRegs ty))
  | .shl g ty d a b | .shr g ty d a b | .sra g ty d a b | .rot g ty d a b | .bfx g ty d a b =>
    some (useReg g (srcA ty a ++ srcB32 b) d (tyRegs ty))
  | .popc g ty d a | .clz g ty d a | .ctz g ty d a => some (useReg g (srcA ty a) d 1)
  | .bfi g ty d a b c => some (useReg g (srcA ty a ++ srcB ty b ++ [(c, 1)]) d (tyRegs ty))
  | .icmp g _ ty qd a b => some { g, srcs := srcA ty a ++ srcB ty b, dsts := [], qr := [], qw := [qd] }
  | .sel g ty d a b qk =>
    some { g, srcs := srcA ty a ++ srcB ty b, dsts := [(d, tyRegs ty)], qr := [qk], qw := [] }
  | .movi g ty d _ => some (useReg g [] d (tyRegs ty))
  | .lea g _ _ d a b _ => some (useReg g [(a, 2), (b, 1)] d 2)
  | .fadd g _ _ _ d a b | .fsub g _ _ _ d a b | .fmul g _ _ _ d a b | .fdiv g _ _ _ d a b | .fscale g _ _ _ d a b
  | .fmin g _ d a b | .fmax g _ d a b => some (useReg g ([(a, 1)] ++ srcB32 b) d 1)
  | .fma g _ _ _ d a b c => some (useReg g ([(a, 1)] ++ srcB32 b ++ [(c, 1)]) d 1)
  | .fabs g _ d a | .fneg g _ d a | .fclass g _ d a | .fexpo g _ d a | .fround g _ _ d a | .froundExact g _ _ d a
  | .fsqrt g _ _ _ d a | .frcp g _ _ _ d a | .frsq g _ _ _ d a | .fexp2 g _ _ _ d a | .flog2 g _ _ _ d a
  | .fsinpi g _ _ _ d a | .fcospi g _ _ _ d a => some (useReg g [(a, 1)] d 1)
  | .fcmp g _ _ qd a b => some { g, srcs := [(a, 1)] ++ srcB32 b, dsts := [], qr := [], qw := [qd] }
  | .cvt g ty sty _ _ d a => some (useReg g (srcA sty a) d (tyRegs ty))
  | .pack g _ _ _ d a b => some (useReg g [(a, 1), (b, 1)] d 1)
  | .unpack g _ d a => some (useReg g [(a, 1)] d 2)
  | _ => none

/-- The distinct registers a list of sources reads. -/
def readRegs (srcs : List (Src × Nat)) : List Reg := (srcs.flatMap fun (x, n) => operandRegs x.reg n).eraseDups

/-- The registers a use writes. -/
def Use.written (u : Use) : List Reg := u.dsts.flatMap fun (d, n) => operandRegs d n

/-- The checks of a pair whose instructions have the uses `u` and `w`, after class and the checks of slot k+1: the
sub-kind of the first that fails (R40). -/
def pairFault (u w : Use) : Option Byte :=
  let regs := readRegs (u.srcs ++ w.srcs)
  let inBank (b : Nat) := (regs.filter fun r => r.toNat % 4 = b).length
  if 4 < regs.length then some 0x02
  else if (List.range 4).any fun b => 2 < inBank b then some 0x03
  else if (u.written.any fun r => w.written.contains r) || u.qw.any fun q => w.qw.contains q then some 0x04
  else if ((readRegs w.srcs).any fun r => u.written.contains r) ||
      (u.qw.any fun q => q != 0 && (w.g.q == q || w.qr.contains q)) then some 0x05
  else none

/-- Whether a word's major is of the pairing classes (R40). -/
def pairClass (w : InstrWord) : Bool :=
  let maj := (Fields.ofWord w).maj
  0x01 ≤ maj && maj ≤ 0x3A

/-! ## Steps 2 to 6 of R42 -/

/-- Steps 2 to 5 of R42 on a word, for a part and a mode: the instruction, or the trap. -/
def checkWord (p : Part) (user : Bool) (w : InstrWord) : Except Trap Instr :=
  match step2 w with
  | some sub => .error { kind := .illegal, sub }
  | none =>
    if user && privileged w then .error { kind := .priv, sub := 0 }
    else if (namesCrucible1 w && p.crucibles < 2) || (needsFabric w && !p.fab) then .error { kind := .unitAbsent, sub := 0 }
    else match decode w with
      | .ok i => .ok i
      | .illegal sub => .error { kind := .illegal, sub }

/-- What stands at a slot of a line: one instruction, or a legal pair. -/
def checkSlot (p : Part) (user : Bool) (bs : List Byte) (k : Nat) : Except Trap (Instr × Option Instr) :=
  match checkWord p user (slotWord bs k) with
  | .error t => .error t
  | .ok i =>
    if linePair bs k then
      let bad (sub : Byte) : Except Trap (Instr × Option Instr) := .error { kind := .illpair, sub }
      if !(pairClass (slotWord bs k) && pairClass (slotWord bs (k + 1))) then bad 0x01
      else match checkWord p user (slotWord bs (k + 1)) with
        | .error _ => bad 0x06
        | .ok j =>
          match useOf i, useOf j with
          | some u, some w =>
            match pairFault u w with
            | some sub => bad sub
            | none => .ok (i, some j)
          | _, _ => bad 0x01
    else .ok (i, none)

/-! ## Step 8 for a pair (R41) -/

/-- The sources of the pair that its guards let it read, in order. -/
def pairSrcs (t : Thread) (u w : Use) : List (Src × Nat) :=
  (if guardHolds u.g t then u.srcs else []) ++ (if guardHolds w.g t then w.srcs else [])

/-- Whether a pair waits for results on their way to what it writes or to a predicate it reads, its guards apart. -/
def pairWaits (t : Thread) (u w : Use) : Bool :=
  mustWait t (u.dsts ++ w.dsts) (u.qr ++ u.qw ++ w.qr ++ w.qw)

/-! ## From a thread to its instruction -/

/-- What the issue of a thread comes to before its instruction runs. -/
inductive Ready where
  /-- Nothing runs: a trap, a report, a park or a wait. -/
  | done (s : State)
  | one (s : State) (i : Instr)
  | pair (s : State) (i j : Instr)

namespace State

/-- The instruction at a slot of a fetched line. A pair waits for the predicates of its guards before anything of it is
decided (R30, R42 step 7). -/
def readySlot (s : State) (r : ThreadRef) (t : Thread) (user : Bool) (bs : List Byte) : Ready :=
  match checkSlot s.part user bs (pcSlot t.pc) with
  | .error x => .done (s.takeTrap r x)
  | .ok (i, none) => .one s i
  | .ok (i, some j) =>
    match useOf i, useOf j with
    | some u, some w =>
      if t.predBusy u.g.q || t.predBusy w.g.q then .done s
      else match firstEmpty t (pairSrcs t u w) with
      | some (v, true) => .done (s.takeTrap r { kind := .emptyreg, sub := v.zeroExtend 8 })
      | some (v, false) => .done (State.finish r (.park s (.emptyReg v)))
      | none => if pairWaits t u w then .done s else .pair s i j
    | _, _ => .one s i

/-- The start of a thread at ENTRY, or the return of its system call, checked as a transfer (R27): none where nothing stands
in its way. -/
def startFault (s : State) (r : ThreadRef) (t : Thread) : Option State × State :=
  if !t.starting then (none, s)
  else match s.checkTarget r t.pc with
    | (.ok, s) => (none, s.modThread r fun t => { t with starting := false })
    | (.trap x, s) => (some (s.takeTrap r x), s)
    | (.check, s) => (some (s.fetchCheck r (pcLine t.pc)), s)
    | (.wait, s) => (some s, s)

/-- What stands at a thread's PC: the PC's form, the line, and steps 1 to 6 of R42. -/
def readyAt (s : State) (r : ThreadRef) (t : Thread) : Ready :=
  if pcBad t.pc then .done (s.takeTrap r { kind := .cfi, sub := 0x02, addr := t.pc })
  else match s.fetch r (pcLine t.pc) t.pc with
    | (.trap x, s) => .done (s.takeTrap r x)
    | (.check, s) => .done (s.fetchCheck r (pcLine t.pc))
    | (.wait, s) => .done s
    | (.line bs, s) => s.readySlot r t (s.accessor r).user bs

/-- The issue of a thread past its boundary: a start at ENTRY, and what stands at its PC. -/
def ready (s : State) (r : ThreadRef) : Ready :=
  match s.thread? r with
  | none => .done s
  | some t =>
    if !s.canIssue r t then .done s
    else match s.startFault r t with
      | (some s, _) => .done s
      | (none, s) => s.readyAt r t

/-- The boundary of a thread that may issue (R340): whether it goes on to its next instruction. -/
def passBoundary (s : State) (r : ThreadRef) : Bool × State :=
  match s.thread? r with
  | none => (false, s)
  | some t =>
    if !s.canIssue r t then (false, s)
    else match s.boundary r with
      | some s => (false, s)
      | none => (true, s)

/-! ## Issue selection (R216, R221 to R223) -/

/-- Wait count from which a subset is promoted (R222). -/
def promoteAt : Nat := 2048

/-- The threads of a group of a core: group `k` of a place, by TIDX, with their numbers. -/
def groupOf (s : State) (core place k : Nat) : List (Nat × Thread) :=
  let (ths, g) : List Thread × Nat :=
    if place = casterPlace then (((s.core? core).map fun c => c.casters.map Caster.thr).getD [], 8)
    else ((s.task? core place).map fun t => (t.threads, t.grant)).getD ([], 8)
  (ths.zipIdx.filter fun (_, n) => n / g = k).map fun (t, n) => (n, t)

/-- The group of a thread. -/
def groupNo (s : State) (r : ThreadRef) : Nat :=
  match r.who with
  | .caster _ => 0
  | .user place tidx => tidx / ((s.task? r.core place).map Task.grant).getD 8

/-- The threads that issue with a thread: the runnable ones of its group at its PC, by TIDX (R221). -/
def subsetOf (s : State) (r : ThreadRef) : List ThreadRef :=
  let (place, _) := keyOf r.who
  match s.thread? r with
  | none => []
  | some t =>
    (s.groupOf r.core place (s.groupNo r)).filterMap fun (n, u) =>
      let q : ThreadRef := { core := r.core, who := whoOf place n }
      if u.pc == t.pc && !u.yielded && s.canIssue q u then some q else none

/-- One candidate subset of a group: its PC, its largest wait count, its lowest thread. -/
structure Candidate where
  thread : ThreadRef
  pc     : DWord
  wait   : Nat
  deriving DecidableEq, Repr

/-- Candidate `a` goes before `b` in one group (R222). -/
def Candidate.before (a b : Candidate) : Bool :=
  if promoteAt ≤ a.wait || promoteAt ≤ b.wait then
    b.wait < a.wait || (a.wait == b.wait && a.pc.toNat < b.pc.toNat)
  else a.pc.toNat < b.pc.toNat

/-- A candidate put into a list in the order of R222. -/
def Candidate.insert (a : Candidate) : List Candidate → List Candidate
  | [] => [a]
  | b :: l => if b.before a then b :: Candidate.insert a l else a :: b :: l

/-- The candidates of a group in the order of R222: those that cannot go are passed over. -/
def groupCandidates (s : State) (core place k : Nat) : List Candidate :=
  let ths := (s.groupOf core place k).filter fun (n, t) => !t.yielded && s.canIssue { core, who := whoOf place n } t
  let pcs := (ths.map fun (_, t) => t.pc).eraseDups
  let cands := pcs.filterMap fun pc =>
    let here := ths.filter fun (_, t) => t.pc == pc
    here.head?.map fun (n, _) =>
      ({ thread := { core, who := whoOf place n }, pc
         wait := here.foldl (fun m (x : Nat × Thread) => max m x.2.wait) 0 } : Candidate)
  cands.foldl (fun l c => c.insert l) []

/-- The number round robin gives a group of a place (R223). -/
def groupKey (place k : Nat) : Nat := place * 128 + k

/-- The groups of a core in round-robin order, by task and then by group number (R223). -/
def roundRobin (c : Core) : List (Nat × Nat) :=
  let l := c.tasks.flatMap fun (p, t) => (List.range ((t.threads.length + t.grant - 1) / t.grant)).map fun k => (p, k)
  (l.filter fun x => c.rr ≤ groupKey x.1 x.2) ++ l.filter fun x => groupKey x.1 x.2 < c.rr

/-- The candidates of a core: the Caster group, promoted subsets, then the other groups in turn (R223). -/
def coreCandidates (s : State) (core : Nat) : List ThreadRef :=
  match s.core? core with
  | none => []
  | some c =>
    let user := (roundRobin c).flatMap fun (p, k) => s.groupCandidates core p k
    let promoted := (user.filter fun x => promoteAt ≤ x.wait).foldl (fun l c => c.insert l) []
    (s.groupCandidates core casterPlace 0 ++ promoted ++ user.filter fun x => x.wait < promoteAt).map (·.thread)

/-- The order in which the cores have their turn where nothing names one: from another core on at each step, upward and
downward in turn. -/
def coreOrder (s : State) : List Nat :=
  let n := s.cores.length
  let l := (List.range n).map fun i => (i + s.issueNo / 2 * 101) % n
  if s.issueNo % 2 = 0 then l else l.reverse

end State

end Sys2Proof.Machine
end

