-- ==== Sys2Proof/Machine/Events.lean ====
section
/-!
DEFINITION. The events of cores and memory: lines that arrive, promotion, results, stores and atomics performed, reports
to threads that wait, write-backs and evictions (spec/02_encoding.md R24; spec/12_threads_groups.md R222;
spec/08_memory_spaces.md R146; spec/09_ordering_rules.md R158 to R169; spec/10_memory_isa.md R177, R178;
spec/22_traps_restart.md R340 to R346). An event whose condition does not hold changes nothing.
-/

namespace Sys2Proof.Machine

namespace State

/-! ## Lines (R24) -/

/-- Whether a thread stands at a line of a physical address: it waits for that line to issue. -/
def standsAt (s : State) (pa : Nat) (r : ThreadRef) : Bool :=
  match s.thread? r with
  | none => false
  | some t =>
    let a := s.accessor r
    let dst := if a.user then (s.translate a (pcLine t.pc) .fetch).1 else s.physical (pcLine t.pc)
    s.canIssue r t && (match dst with
      | .ok (.mem m) => m == pa
      | _ => false)

/-- Machine check 0x02 of a line, for the thread that waits for it. -/
def lineCheckFails (s : State) (core pa : Nat) : State :=
  match (s.threadsOf core).find? (s.standsAt pa) with
  | some r => s.fetchCheck r (((s.thread? r).map fun t => pcLine t.pc).getD 0)
  | none => s.raiseMcheck core 0x02 0 0 (BitVec.ofNat 64 pa) 0 0

end State

/-- `LINE_ARRIVAL` (R24). -/
def execLineArrival (core pa : Nat) (s : State) : Host.Outcome State Fault Refusal :=
  let la := lineOf pa
  .next (s.ifRuns (match s.core? core, s.targetOf? la with
    | some _, some (.mem _) =>
      if s.pageBusy la then s
      else match s.lineArrives core la with
        | (false, s) => s
        | (true, s) => s.lineCheckFails core la
    | _, _ => s))

/-- `WAIT_COUNT_PROMOTION` (R222): a thread's wait count reaches 2,048. The counts of the threads of its core that have
reached it before are larger, so that the oldest promoted subset has the largest. A thread that `yield` keeps out of
selection is not promoted (R253). -/
def execWaitCountPromotion (t : ThreadRef) (s : State) : Host.Outcome State Fault Refusal :=
  .next (match s.thread? t with
    | none => s
    | some th =>
      if !s.canIssue t th || th.yielded || State.promoteAt ≤ th.wait then s
      else
        let older (th : Thread) : Thread := if State.promoteAt ≤ th.wait then { th with wait := th.wait + 1 } else th
        let s := s.modCore t.core fun c =>
          { c with tasks := c.tasks.map fun p => (p.1, { p.2 with threads := p.2.threads.map older })
                   casters := c.casters.map fun k => { k with thr := older k.thr } }
        s.modThread t fun th => { th with wait := State.promoteAt })

/-- `LOAD_DATA_ARRIVAL` (R146, R178): the `k`-th outstanding item of a thread. -/
def execLoadDataArrival (t : ThreadRef) (k : Nat) (s : State) : Host.Outcome State Fault Refusal := 
  .next (s.ifRuns (s.deliver t k).settle)

/-- `STORE_LEAVES_QUEUE` (R158). -/
def execStoreLeavesQueue (t : ThreadRef) (s : State) : Host.Outcome State Fault Refusal :=
  .next (if s.coresRun && s.storeMayLeave t then (s.performStore t).2.settle else s)

/-- `ATOMIC_AT_HOME` (R163). -/
def execAtomicAtHome (t : ThreadRef) (s : State) : Host.Outcome State Fault Refusal := 
  .next (s.ifRuns (s.performOp t).settle)

/-- `FAILURE_AFTER_ISSUE` (R177, R340): the oldest failure of a thread, or the oldest report that came with its shell. -/
def execFailureAfterIssue (t : ThreadRef) (s : State) : Host.Outcome State Fault Refusal :=
  .next (s.ifRuns (match s.thread? t with
    | none => s
    | some th =>
      if !s.reportable t th then s
      else match th.stop, th.later, th.fails with
        | none, f :: _, _ => s.takeLater t f
        | none, [], f :: _ => s.takeFailure t f.2
        | _, _, _ => s))

/-- `PEER_FAULT_STOP` (R342). -/
def execPeerFaultStop (t : ThreadRef) (s : State) : Host.Outcome State Fault Refusal :=
  .next (s.ifRuns (match s.thread? t with
    | none => s
    | some th =>
      match th.stop with
      | some x => if s.reportable t th then s.takeStop t x else s
      | none => s))

/-- `SIGNAL_DELIVERY` (R346), at a boundary at which nothing goes before it. -/
def execSignalDelivery (t : ThreadRef) (s : State) : Host.Outcome State Fault Refusal :=
  .next (s.ifRuns (match s.thread? t with
    | none => s
    | some th =>
      if s.reportable t th && th.stop.isNone && th.fails.isEmpty && (s.stoppedCopy? t).isNone && th.later.isEmpty then
        s.deliverSignal t
      else s))

/-- Whether a pushed line of a peer shows a store that was sent to it. -/
def QStore.shownBy (q : QStore) (d off : Nat) (line : List Byte) : Bool :=
  match q.target with
  | .peer e o =>
    e == d && lineOf o == off && q.sent.isSome &&
      ((line.drop (o - off)).take (sizeBytes q.size) == leBytes (sizeBytes q.size) q.data.toNat)
  | _ => false

/-- `SUBSCRIPTION_PUSH` (R169): a peer's home pushes a value, or the home slice pushes what it holds. A store of this
core that waits for its push leaves its queue once its home has answered and a push has shown it. -/
def execSubscriptionPush (core pa : Nat) (line : List Byte) (s : State) : Host.Outcome State Fault Refusal :=
  .next (s.ifRuns (match ((s.core? core).map Core.subs).getD [] |>.find? fun u => match u.target with
      | .mem la => la == pa
      | .peer d off => peerPa d off == pa
      | _ => false with
    | none => s
    | some u =>
      match u.target with
      | .mem la => s.pushLine la
      | .peer d off =>
        if line.length != 64 then s
        else
          let s := (s.putL1 core { pa, data := line, dirty := 0, pois := 0, owned := false }).touch (.push core pa)
          (s.threadsOf core).foldl (fun (s : State) r =>
            if ((s.thread? r).bind fun t => t.queue.head?).any fun q => q.shownBy d off line then
              (s.modThread r fun t => { t with queue := t.queue.modifyHead fun q => { q with pushed := true } }).performStore r |>.2
            else s) s
      | _ => s))

/-- `L1_LINE_EVICTION` (R161): a clean line is dropped, a dirty one goes home; a subscribed line stays (R185). -/
def execL1LineEviction (core pa : Nat) (s : State) : Host.Outcome State Fault Refusal :=
  let la := lineOf pa
  .next (s.ifRuns (match s.l1Line? core la with
    | none => s
    | some l =>
      if (s.core? core).any fun c => c.holdsLine la then s
      else s.modCore core fun c =>
        { c with l1 := c.l1.filter fun k => k.pa != la
                 wbacks := if l.dirty = 0 then c.wbacks else c.wbacks ++ [l] }))

/-- `WRITE_BACK_COMPLETE` (R161). -/
def execWriteBackComplete (core pa : Nat) (s : State) : Host.Outcome State Fault Refusal := .next (s.writeBackDone core (lineOf pa))

/-- `HOST_WRITE_COMPLETE` (R161 step 4): the oldest write of a line. -/
def execHostWriteComplete (core pa : Nat) (s : State) : Host.Outcome State Fault Refusal :=
  .next (s.modCore core fun c => { c with hwrites := c.hwrites.erase (lineOf pa) })

end Sys2Proof.Machine
end

