-- ==== Sys2Proof/Machine/Func.lean ====
section
/-!
DEFINITION. The eight functions of R100, from the exact mathematical value: quotients and roots by exact integer
division with a sticky bit, 2^x, log2, sin and cos by integer series carried far past any format's precision. The
inputs whose exact result is a dyadic number are taken apart first; every other result is irrational, so a value
within 2^-400 of the true one lies on the same side of every rounding boundary (notes/assumptions/7.md).
-/

namespace Sys2Proof.Machine

/-! ## Quotients and roots -/

/-- m / m' · 2^(e - e') with at least 64 significant bits. -/
def divX (neg : Bool) (m : Nat) (e : Int) (m' : Nat) (e' : Int) : XVal :=
  let k := 64 + m'.log2
  .fin neg (m * 2 ^ k / m') (e - e' - k) (m * 2 ^ k % m' != 0)

/-- One bit of an integer square root: keeps the candidate `r + 2^i` when its square fits. -/
def sqrtBits (x : Nat) : Nat → Nat → Nat
  | 0, r => r
  | i + 1, r => sqrtBits x i (if (r + 2 ^ i) * (r + 2 ^ i) ≤ x then r + 2 ^ i else r)

/-- ⌊√x⌋. -/
def isqrt (x : Nat) : Nat := sqrtBits x (x.log2 / 2 + 1) 0

/-- √(m · 2^e) with at least 60 significant bits. -/
def sqrtX (m : Nat) (e : Int) : XVal :=
  let k : Nat := 128 + (if e % 2 = 0 then 0 else 1)
  let x := m * 2 ^ k
  let s := isqrt x
  .fin false s ((e - k) / 2) (s * s != x)

/-- 1 / √(m · 2^e) with at least 60 significant bits. -/
def rsqrtX (m : Nat) (e : Int) : XVal :=
  let k : Nat := 128 + 2 * m.log2 + (if e % 2 = 0 then 0 else 1)
  let y := 2 ^ k / m
  let s := isqrt y
  .fin false s ((-e - k) / 2) (s * s * m != 2 ^ k)

/-! ## Series in fixed point: x stands for x / 2^P -/

/-- Bits after the binary point. -/
def P : Nat := 512

/-- 2^P · artanh(1 / q) = Σ 2^P / ((2k + 1) q^(2k + 1)); `t` is 2^P / q^(2k + 1). -/
def artanhInvLoop (q : Nat) : Nat → Nat → Nat → Nat → Nat
  | 0, _, _, acc => acc
  | n + 1, k, t, acc => artanhInvLoop q n (k + 1) (t / (q * q)) (acc + t / (2 * k + 1))

/-- 2^P · ln 2 = 2 artanh(1 / 3). -/
def ln2 : Nat := 2 * artanhInvLoop 3 180 0 (2 ^ P / 3) 0

/-- 2^P · arctan(1 / q), with alternating signs. -/
def arctanInvLoop (q : Nat) : Nat → Nat → Nat → Int → Int
  | 0, _, _, acc => acc
  | n + 1, k, t, acc =>
    let d : Int := (t / (2 * k + 1) : Nat)
    arctanInvLoop q n (k + 1) (t / (q * q)) (if k % 2 = 0 then acc + d else acc - d)

/-- 2^P · π, by Machin's formula. -/
def piP : Nat :=
  (16 * arctanInvLoop 5 120 0 (2 ^ P / 5) 0 - 4 * arctanInvLoop 239 40 0 (2 ^ P / 239) 0).toNat

/-- 2^P · e^(y / 2^P) for 0 ≤ y < 2^P: `t` is the k-th term. -/
def expLoop (y : Nat) : Nat → Nat → Nat → Nat → Nat
  | 0, _, _, acc => acc
  | n + 1, k, t, acc => expLoop y n (k + 1) (t * y / (2 ^ P * (k + 1))) (acc + t)

/-- 2^P · artanh(y / 2^P): `t` is y^(2k + 1). -/
def artanhLoop (y : Nat) : Nat → Nat → Nat → Nat → Nat
  | 0, _, _, acc => acc
  | n + 1, k, t, acc => artanhLoop y n (k + 1) (t * y / 2 ^ P * y / 2 ^ P) (acc + t / (2 * k + 1))

/-- 2^P · sin(y / 2^P): `t` is the magnitude of the term of power 2k + 1. -/
def sinLoop (y : Nat) : Nat → Nat → Nat → Int → Int
  | 0, _, _, acc => acc
  | n + 1, k, t, acc =>
    sinLoop y n (k + 1) (t * y / 2 ^ P * y / (2 ^ P * ((2 * k + 2) * (2 * k + 3))))
      (if k % 2 = 0 then acc + t else acc - t)

/-! ## The functions of a finite non-zero value -/

/-- 2^a for a = ±m · 2^e. -/
def exp2X (neg : Bool) (m : Nat) (e : Int) : XVal :=
  let scaled : Int :=      -- a · 2^P; an f32 value is a multiple of 2^-149
    let v : Int := m * 2 ^ (e + P).toNat
    if neg then -v else v
  let n : Int := scaled / 2 ^ P
  let f : Nat := (scaled % 2 ^ P).toNat
  if f = 0 then .fin false 1 n false
  else .fin false (expLoop (f * ln2 / 2 ^ P) 100 0 (2 ^ P) 0) (n - P) true

/-- log2 of m · 2^e. -/
def log2X (m : Nat) (e : Int) : XVal :=
  let k := m.log2
  let n : Int := e + k
  if m = 2 ^ k then XVal.ofInt n
  else
    let z := m * 2 ^ (P - k)                          -- in [2^P, 2^(P+1))
    let y := (z - 2 ^ P) * 2 ^ P / (z + 2 ^ P)
    let l : Nat := 2 * artanhLoop y 180 0 y 0 * 2 ^ P / ln2
    let t : Int := n * 2 ^ P + l
    .fin (t < 0) t.natAbs (-P : Int) true

/-- sin(π r) for r = u / 2^P in [0, 2), where u is not a multiple of 2^(P-1). -/
def sinPiFrac (u : Nat) : XVal :=
  let neg := decide (2 ^ P < u)
  let r := if neg then u - 2 ^ P else u
  let r := if 2 ^ (P - 1) < r then 2 ^ P - r else r
  .fin neg (sinLoop (r * piP / 2 ^ P) 110 0 (r * piP / 2 ^ P) 0).toNat (-P : Int) true

/-- sin(π a) for a = u / 2^P; `sz` is the sign of a zero result. -/
def sinPiUnits (u : Int) (sz : Bool) : XVal :=
  let r := (u % 2 ^ (P + 1)).toNat
  if r % 2 ^ P = 0 then .zero sz
  else if r = 2 ^ (P - 1) then .fin false 1 0 false
  else if r = 3 * 2 ^ (P - 1) then .fin true 1 0 false
  else sinPiFrac r

/-- a · 2^P mod 2^(P + 1), for a = ±m · 2^e. -/
def piUnits (neg : Bool) (m : Nat) (e : Int) : Int :=
  if 1 ≤ e then 0
  else
    let v : Int := m * 2 ^ (e + P).toNat
    if neg then -v else v

/-- sin(πa). -/
def sinPiX (neg : Bool) (m : Nat) (e : Int) : XVal := sinPiUnits (piUnits neg m e) neg

/-- cos(πa) = sin(π(a + ½)). -/
def cosPiX (neg : Bool) (m : Nat) (e : Int) : XVal := sinPiUnits (piUnits neg m e + 2 ^ (P - 1)) false

/-! ## The fixed results of R100 -/

/-- √a. -/
def sqrtV : XVal → XVal × Flags
  | .nan => (.nan, 0)
  | .zero n => (.zero n, 0)
  | .inf false => (.inf false, 0)
  | .inf true | .fin true _ _ _ => (.nan, flagNV)
  | .fin false m e _ => (sqrtX m e, 0)

/-- 1/a. -/
def rcpV : XVal → XVal × Flags
  | .nan => (.nan, 0)
  | .zero n => (.inf n, flagDZ)
  | .inf n => (.zero n, 0)
  | .fin n m e _ => (divX n 1 0 m e, 0)

/-- a/b. -/
def divV (a b : XVal) : XVal × Flags :=
  let s := a.sign != b.sign
  match a, b with
  | .nan, _ | _, .nan => (.nan, 0)
  | .zero _, .zero _ | .inf _, .inf _ => (.nan, flagNV)
  | .fin .., .zero _ => (.inf s, flagDZ)
  | .inf _, _ => (.inf s, 0)
  | _, .inf _ => (.zero s, 0)
  | .zero _, .fin .. => (.zero s, 0)
  | .fin _ m e _, .fin _ m' e' _ => (divX s m e m' e', 0)

/-- 1/√a. -/
def rsqV : XVal → XVal × Flags
  | .nan => (.nan, 0)
  | .zero n => (.inf n, flagDZ)
  | .inf false => (.zero false, 0)
  | .inf true | .fin true _ _ _ => (.nan, flagNV)
  | .fin false m e _ => (rsqrtX m e, 0)

/-- 2^a; an |a| of 2^20 or more is replaced by ±2^20, which overflows or underflows alike in every format. -/
def exp2V : XVal → XVal × Flags
  | .nan => (.nan, 0)
  | .zero _ => (.fin false 1 0 false, 0)
  | .inf n => (if n then .zero false else .inf false, 0)
  | .fin n m e _ => (if 20 ≤ e + m.log2 then exp2X n 1 20 else exp2X n m e, 0)

/-- log2 a. -/
def log2V : XVal → XVal × Flags
  | .nan => (.nan, 0)
  | .zero _ => (.inf true, flagDZ)
  | .inf false => (.inf false, 0)
  | .inf true | .fin true _ _ _ => (.nan, flagNV)
  | .fin false m e _ => (log2X m e, 0)

/-- sin(πa). -/
def sinpiV : XVal → XVal × Flags
  | .nan => (.nan, 0)
  | .inf _ => (.nan, flagNV)
  | .zero n => (.zero n, 0)
  | .fin n m e _ => (sinPiX n m e, 0)

/-- cos(πa). -/
def cospiV : XVal → XVal × Flags
  | .nan => (.nan, 0)
  | .inf _ => (.nan, flagNV)
  | .zero _ => (.fin false 1 0 false, 0)
  | .fin n m e _ => (cosPiX n m e, 0)

end Sys2Proof.Machine
end

