-- ==== Sys2Proof/Machine/Float.lean ====
section
/-!
DEFINITION. Float instructions (spec/05_element_isa.md R94 to R103): each result is RoundTo of an exact value.
-/

namespace Sys2Proof.Machine

/-- The sources of a float instruction, in the type: A and B. -/
def floatSrcs (a : Src) (b : SrcB) : List (Src × Nat) := (a, 1) :: srcB32 b

/-- A float operation that rounds, on the exact values of its sources; flags of the sources, the operation and the
rounding are merged. -/
def rounded (ty : Ty) (sat : Bool) (m : Rm) (f : List XVal → XVal × Flags) (xs : List Nat) : Nat × Flags :=
  elements ty (fun xs =>
    let vs := xs.map ty.format.val
    let (v, fl) := f (vs.map Prod.fst)
    let (y, fr) := ty.format.round v m sat
    (y, vs.foldl (fun acc v => acc ||| v.2) (fl ||| fr))) xs

/-- The value of source B in a float type. -/
def valFB (t : Thread) (b : SrcB) : Nat := valB32 t b

/-- `a` op `b`, rounded once. -/
def float2 (s : State) (g : Guard) (ty : Ty) (rm : RmField) (sat : Bool) (d : Reg) (a : Src) (b : SrcB)
    (f : Rm → XVal → XVal → XVal × Flags) : Host.Outcome State Fault Refusal :=
  floatReg s g (floatSrcs a b) d (some rm) fun m t =>
    rounded ty sat m (fun vs => f m (vs.getD 0 .nan) (vs.getD 1 .nan)) [(t.reg a.reg).toNat, valFB t b]

/-- A function of `a`, rounded once. -/
def float1 (s : State) (g : Guard) (ty : Ty) (rm : RmField) (sat : Bool) (d : Reg) (a : Src)
    (f : XVal → XVal × Flags) : Host.Outcome State Fault Refusal :=
  floatReg s g [(a, 1)] d (some rm) fun m t =>
    rounded ty sat m (fun vs => f (vs.getD 0 .nan)) [(t.reg a.reg).toNat]

/-- `fmin` and `fmax` (R96). -/
def minMax (s : State) (g : Guard) (ty : Ty) (isMax : Bool) (d : Reg) (a : Src) (b : SrcB) :
    Host.Outcome State Fault Refusal :=
  floatReg s g (floatSrcs a b) d none fun _ t =>
    elements ty (fun xs =>
      let w := 2 ^ ty.format.width
      let x := xs.getD 0 0 % w
      let y := xs.getD 1 0 % w
      (minMaxBits ty.format isMax x y, (ty.format.val x).2 ||| (ty.format.val y).2))
      [(t.reg a.reg).toNat, valFB t b]

/-- A change of the sign bit of each element (R97). -/
def signOp (s : State) (g : Guard) (ty : Ty) (d : Reg) (a : Src) (f : Nat → Nat → Nat) :
    Host.Outcome State Fault Refusal :=
  floatReg s g [(a, 1)] d none fun _ t =>
    elements ty (fun xs => (f (ty.format.width - 1) (xs.getD 0 0 % 2 ^ ty.format.width), 0)) [(t.reg a.reg).toNat]

/-- A float comparison and its NV (R98). -/
def fcond (cc : FCond) (a b : XVal × Flags) : Bool × Flags :=
  let un := a.1.isNan || b.1.isNan
  let sig := a.2 ||| b.2
  let any := if un then flagNV else 0
  match cc with
  | .eq => (!un && a.1.eqv b.1, sig)
  | .ne => (un || !a.1.eqv b.1, sig)
  | .lt => (!un && a.1.lt b.1 && !a.1.eqv b.1, any)
  | .le => (!un && (a.1.lt b.1 || a.1.eqv b.1), any)
  | .gt => (!un && b.1.lt a.1 && !a.1.eqv b.1, any)
  | .ge => (!un && (b.1.lt a.1 || a.1.eqv b.1), any)
  | .un => (un, sig)

/-- The class mask of an encoding (R99). -/
def classMask (f : Format) (x : Nat) : Nat :=
  match f with
  | .ieee e =>
    let (v, fl) := e.val x
    match v with
    | .nan => if fl = 0 then 2 else 1
    | .inf n => if n then 4 else 512
    | .zero n => if n then 32 else 64
    | .fin n m _ _ => if m < 2 ^ (e.p - 1) then (if n then 16 else 128) else (if n then 8 else 256)
  | .ta e =>
    match e.val x with
    | .nan => 2
    | .zero _ => 64
    | v => if v.sign then 8 else 256

/-- ⌊log2 |a|⌋ as a 32-bit pattern (R102). -/
def exponentOf (v : XVal) : Nat × Flags :=
  match v with
  | .nan | .zero _ => (0x80000000, flagNV)
  | .inf _ => (0x7FFFFFFF, flagNV)
  | .fin _ m e _ => (((e + m.log2) % 2 ^ 32 : Int).toNat, 0)

/-- The integral value of `a` (R103). -/
def integral (m : Rm) (exact : Bool) (v : XVal) : XVal × Flags :=
  match v with
  | .fin n x e st =>
    let (q, nx) := roundAt m n x e st 0
    (XVal.ofDyadic n q 0, if exact && nx then flagNX else 0)
  | v => (v, 0)

/-- `fround` and `fround.exact`: the result is exact in the type. -/
def roundOp (s : State) (g : Guard) (ty : Ty) (rm : RmField) (exact : Bool) (d : Reg) (a : Src) :
    Host.Outcome State Fault Refusal :=
  floatReg s g [(a, 1)] d (some rm) fun m t => rounded ty false m (fun vs => integral m exact (vs.getD 0 .nan))
    [(t.reg a.reg).toNat]

def execFadd (g : Guard) (ty : Ty) (rm : RmField) (sat : Bool) (d : Reg) (a : Src) (b : SrcB) (s : State) :
    Host.Outcome State Fault Refusal :=
  float2 s g ty rm sat d a b fun m x y => exactSum [x, y] m

def execFsub (g : Guard) (ty : Ty) (rm : RmField) (sat : Bool) (d : Reg) (a : Src) (b : SrcB) (s : State) :
    Host.Outcome State Fault Refusal :=
  float2 s g ty rm sat d a b fun m x y => exactSum [x, y.neg] m

def execFmul (g : Guard) (ty : Ty) (rm : RmField) (sat : Bool) (d : Reg) (a : Src) (b : SrcB) (s : State) :
    Host.Outcome State Fault Refusal :=
  float2 s g ty rm sat d a b fun _ x y => prod x y

/-- Fused multiply-add, rounded once. -/
def execFma (g : Guard) (ty : Ty) (rm : RmField) (sat : Bool) (d : Reg) (a : Src) (b : SrcB) (c : Src) (s : State) :
    Host.Outcome State Fault Refusal :=
  floatReg s g (floatSrcs a b ++ [(c, 1)]) d (some rm) fun m t =>
    rounded ty sat m (fun vs =>
      let (p, fp) := prod (vs.getD 0 .nan) (vs.getD 1 .nan)
      let (x, fs) := exactSum [p, vs.getD 2 .nan] m
      (x, fp ||| fs)) [(t.reg a.reg).toNat, valFB t b, (t.reg c.reg).toNat]

def execFmin (g : Guard) (ty : Ty) (d : Reg) (a : Src) (b : SrcB) (s : State) : Host.Outcome State Fault Refusal :=
  minMax s g ty false d a b

def execFmax (g : Guard) (ty : Ty) (d : Reg) (a : Src) (b : SrcB) (s : State) : Host.Outcome State Fault Refusal :=
  minMax s g ty true d a b

def execFabs (g : Guard) (ty : Ty) (d : Reg) (a : Src) (s : State) : Host.Outcome State Fault Refusal :=
  signOp s g ty d a fun k x => x % 2 ^ k

def execFneg (g : Guard) (ty : Ty) (d : Reg) (a : Src) (s : State) : Host.Outcome State Fault Refusal :=
  signOp s g ty d a fun k x => x ^^^ 2 ^ k

/-- Float comparison into a predicate. -/
def execFcmp (g : Guard) (cc : FCond) (ty : Ty) (qd : PredReg) (a : Src) (b : SrcB) (s : State) :
    Host.Outcome State Fault Refusal :=
  floatOp s g (floatSrcs a b) [] [qd] true none
    (fun _ t =>
      let (r, fl) := fcond cc (ty.format.val (t.reg a.reg).toNat) (ty.format.val (valFB t b))
      (r.toNat, fl))
    fun x t => t.setPred qd (x != 0)

/-- The class mask (R99). -/
def execFclass (g : Guard) (ty : Ty) (d : Reg) (a : Src) (s : State) : Host.Outcome State Fault Refusal :=
  floatReg s g [(a, 1)] d none fun _ t => (classMask ty.format (t.reg a.reg).toNat, 0)

def execFsqrt (g : Guard) (ty : Ty) (rm : RmField) (sat : Bool) (d : Reg) (a : Src) (s : State) :
    Host.Outcome State Fault Refusal :=
  float1 s g ty rm sat d a sqrtV

def execFrcp (g : Guard) (ty : Ty) (rm : RmField) (sat : Bool) (d : Reg) (a : Src) (s : State) :
    Host.Outcome State Fault Refusal :=
  float1 s g ty rm sat d a rcpV

def execFdiv (g : Guard) (ty : Ty) (rm : RmField) (sat : Bool) (d : Reg) (a : Src) (b : SrcB) (s : State) :
    Host.Outcome State Fault Refusal :=
  float2 s g ty rm sat d a b fun _ x y => divV x y

def execFrsq (g : Guard) (ty : Ty) (rm : RmField) (sat : Bool) (d : Reg) (a : Src) (s : State) :
    Host.Outcome State Fault Refusal :=
  float1 s g ty rm sat d a rsqV

def execFexp2 (g : Guard) (ty : Ty) (rm : RmField) (sat : Bool) (d : Reg) (a : Src) (s : State) :
    Host.Outcome State Fault Refusal :=
  float1 s g ty rm sat d a exp2V

def execFlog2 (g : Guard) (ty : Ty) (rm : RmField) (sat : Bool) (d : Reg) (a : Src) (s : State) :
    Host.Outcome State Fault Refusal :=
  float1 s g ty rm sat d a log2V

def execFsinpi (g : Guard) (ty : Ty) (rm : RmField) (sat : Bool) (d : Reg) (a : Src) (s : State) :
    Host.Outcome State Fault Refusal :=
  float1 s g ty rm sat d a sinpiV

def execFcospi (g : Guard) (ty : Ty) (rm : RmField) (sat : Bool) (d : Reg) (a : Src) (s : State) :
    Host.Outcome State Fault Refusal :=
  float1 s g ty rm sat d a cospiV

/-- `a` times 2 to the integer in B (R101). -/
def execFscale (g : Guard) (ty : Ty) (rm : RmField) (sat : Bool) (d : Reg) (a : Src) (b : SrcB) (s : State) :
    Host.Outcome State Fault Refusal :=
  floatReg s g (floatSrcs a b) d (some rm) fun m t =>
    let n := readInt (if ty = .f32 then .i32 else .i16) (valFB t b)
    rounded ty sat m (fun vs => ((vs.getD 0 .nan).scale n, 0)) [(t.reg a.reg).toNat]

def execFexpo (g : Guard) (ty : Ty) (d : Reg) (a : Src) (s : State) : Host.Outcome State Fault Refusal :=
  floatReg s g [(a, 1)] d none fun _ t => exponentOf (ty.format.val (t.reg a.reg).toNat).1

def execFround (g : Guard) (ty : Ty) (rm : RmField) (d : Reg) (a : Src) (s : State) :
    Host.Outcome State Fault Refusal :=
  roundOp s g ty rm false d a

def execFroundExact (g : Guard) (ty : Ty) (rm : RmField) (d : Reg) (a : Src) (s : State) :
    Host.Outcome State Fault Refusal :=
  roundOp s g ty rm true d a

end Sys2Proof.Machine
end

