-- ==== Sys2Proof/Machine/Integer.lean ====
section
/-!
DEFINITION. Integer and address instructions: arithmetic, division, compare, select, move and `lea`
(spec/05_element_isa.md R84, R85, R90 to R93).
-/

namespace Sys2Proof.Machine

/-- A result of R84, clamped under SAT and else wrapped. -/
def intResult (ty : Ty) (sat : Bool) (x : Int) : Nat := placeInt ty (if sat then clampI ty x else x)

/-- Truncated division with the fixed cases of R85. -/
def quot (ty : Ty) (a b : Int) : Int := if b = 0 then (if ty.isSigned then -1 else maxI ty) else a.tdiv b

/-- The remainder of truncated division (R85). -/
def rem (a b : Int) : Int := if b = 0 then a else a.tmod b

/-- An integer comparison (R90). -/
def icond (cc : ICond) (a b : Int) : Bool :=
  match cc with
  | .eq => a == b
  | .ne => a != b
  | .lt => a < b
  | .le => a ≤ b
  | .gt => b < a
  | .ge => b ≤ a

/-- Two-source integer arithmetic of R84 and R85. -/
def arith2 (s : State) (g : Guard) (ty : Ty) (sat : Bool) (d : Reg) (a : Src) (b : SrcB) (f : Int → Int → Int) :
    Host.Outcome State Fault Refusal :=
  intOp s g (srcA ty a ++ srcB ty b) d (tyRegs ty) fun t =>
    intResult ty sat (f (readInt ty (valA t ty a)) (readInt ty (valB t ty b)))

/-- One-source integer arithmetic of R84. -/
def arith1 (s : State) (g : Guard) (ty : Ty) (sat : Bool) (d : Reg) (a : Src) (f : Int → Int) :
    Host.Outcome State Fault Refusal :=
  intOp s g (srcA ty a) d (tyRegs ty) fun t => intResult ty sat (f (readInt ty (valA t ty a)))

/-- `nop` (R32). -/
def execNop (s : State) : Host.Outcome State Fault Refusal :=
  issue s { neg := false, q := 0 } [] [] [] fun _ => .next s

def execIadd (g : Guard) (ty : Ty) (sat : Bool) (d : Reg) (a : Src) (b : SrcB) (s : State) :
    Host.Outcome State Fault Refusal :=
  arith2 s g ty sat d a b fun x y => x + y

def execIsub (g : Guard) (ty : Ty) (sat : Bool) (d : Reg) (a : Src) (b : SrcB) (s : State) :
    Host.Outcome State Fault Refusal :=
  arith2 s g ty sat d a b fun x y => x - y

def execImul (g : Guard) (ty : Ty) (sat : Bool) (d : Reg) (a : Src) (b : SrcB) (s : State) :
    Host.Outcome State Fault Refusal :=
  arith2 s g ty sat d a b fun x y => x * y

/-- The upper half of the exact product. -/
def execImulh (g : Guard) (ty : Ty) (d : Reg) (a : Src) (b : SrcB) (s : State) : Host.Outcome State Fault Refusal :=
  arith2 s g ty false d a b fun x y => x * y / 2 ^ ty.width

/-- Exact product and sum with one wrap or clamp. -/
def execImad (g : Guard) (ty : Ty) (sat : Bool) (d : Reg) (a : Src) (b : SrcB) (c : Src) (s : State) :
    Host.Outcome State Fault Refusal :=
  intOp s g (srcA ty a ++ srcB ty b ++ srcA ty c) d (tyRegs ty) fun t =>
    intResult ty sat
      (readInt ty (valA t ty a) * readInt ty (valB t ty b) + readInt ty (valA t ty c))

def execIdiv (g : Guard) (ty : Ty) (d : Reg) (a : Src) (b : SrcB) (s : State) : Host.Outcome State Fault Refusal :=
  arith2 s g ty false d a b (quot ty)

def execIrem (g : Guard) (ty : Ty) (d : Reg) (a : Src) (b : SrcB) (s : State) : Host.Outcome State Fault Refusal :=
  arith2 s g ty false d a b rem

def execImin (g : Guard) (ty : Ty) (d : Reg) (a : Src) (b : SrcB) (s : State) : Host.Outcome State Fault Refusal :=
  arith2 s g ty false d a b min

def execImax (g : Guard) (ty : Ty) (d : Reg) (a : Src) (b : SrcB) (s : State) : Host.Outcome State Fault Refusal :=
  arith2 s g ty false d a b max

def execIabs (g : Guard) (ty : Ty) (sat : Bool) (d : Reg) (a : Src) (s : State) : Host.Outcome State Fault Refusal :=
  arith1 s g ty sat d a fun x => x.natAbs

def execIneg (g : Guard) (ty : Ty) (sat : Bool) (d : Reg) (a : Src) (s : State) : Host.Outcome State Fault Refusal :=
  arith1 s g ty sat d a fun x => -x

/-- Integer comparison into a predicate (R90). -/
def execIcmp (g : Guard) (cc : ICond) (ty : Ty) (qd : PredReg) (a : Src) (b : SrcB) (s : State) :
    Host.Outcome State Fault Refusal :=
  issue s g (srcA ty a ++ srcB ty b) [] [qd] fun t =>
    match firstPoison t (srcA ty a ++ srcB ty b) with
    | some p => .trap s p
    | none =>
      .next (s.modThread s.issuer fun t =>
        t.setPred qd (icond cc (readInt ty (valA t ty a)) (readInt ty (valB t ty b))))

/-- Select by a predicate; only the chosen source's mark is carried (R91). -/
def execSel (g : Guard) (ty : Ty) (d : Reg) (a : Src) (b : SrcB) (qk : PredReg) (s : State) :
    Host.Outcome State Fault Refusal :=
  carryOp s g (srcA ty a ++ srcB ty b) d (tyRegs ty) [qk] fun t =>
    if t.pred qk then (valA t ty a, poisA t a (tyRegs ty)) else (valB t ty b, poisB t b (tyRegs ty))

/-- Copy with the mark (R92). -/
def execMov (g : Guard) (ty : Ty) (d : Reg) (a : Src) (s : State) : Host.Outcome State Fault Refusal :=
  carryOp s g (srcA ty a) d (tyRegs ty) [] fun t => (valA t ty a, poisA t a (tyRegs ty))

/-- IMM, extended for the 64-bit types (R92). -/
def execMovi (g : Guard) (ty : Ty) (d : Reg) (x : Word) (s : State) : Host.Outcome State Fault Refusal :=
  intOp s g [] d (tyRegs ty) fun _ => immB ty x

/-- Base plus scaled index plus offset (R93). -/
def execLea (g : Guard) (ty : Ty) (k : BitVec 3) (d : Reg) (a : Src) (b : Src) (off : Word) (s : State) :
    Host.Outcome State Fault Refusal :=
  intOp s g [(a, 2), (b, 1)] d 2 fun t =>
    let idx : DWord := if ty = .i32 then (t.reg b.reg).signExtend 64 else (t.reg b.reg).zeroExtend 64
    (t.reg64 a.reg + (idx <<< k.toNat) + off.signExtend 64).toNat

end Sys2Proof.Machine
end

