-- ==== Sys2Proof/Machine/System.lean ====
section
/-!
DEFINITION. The privileged instructions but for `ctxsave` and `ctxload` (spec/20_system_isa.md R312 to R329;
spec/22_traps_restart.md R339, R344; spec/15_allowances.md R278, R280).
-/

namespace Sys2Proof.Machine

/-! ## rfe, halt and tlbinv (R318 to R320) -/

/-- The request of a start that was to save a task is served, whatever `ctxsave` answered (R247 step 2). -/
def State.saveServed (s : State) (core n : Nat) : State :=
  match (s.core? core).bind fun c => c.casters[n]? with
  | some k =>
    if k.cause != 4 || k.arg = 0 then s
    else match s.named? core k.arg with
      | some (place, _) => s.modCore core fun c => { c with reqs := c.reqs.filter fun q => match q with
          | .save p _ => p != place
          | .place .. => true }
      | none => s
  | none => s

/-- A Caster thread idle, or back at what a machine check interrupted (R312 step 3, R318); a machine check that waits
is served next. -/
def endStart (s : State) (core n : Nat) : State :=
  let s := s.saveServed core n
  let saved := (((s.core? core).bind fun c => c.casters[n]?).map Caster.saved).getD false
  let s := s.modCore core fun c => c.modCaster n fun k => { k with thr := { k.thr with state := .idle, wait := 0 }, cause := 0, stopping := false }
  let s := if saved then s.restoreCaster core n else s.modCore core fun c => c.modCaster n fun k => { k with call := none }
  s.serveMcheck core

/-- `rfe` (R318). -/
def execRfe (g : Guard) (s : State) : Host.Outcome State Fault Refusal :=
  privOp s g [] [] [] fun n _ =>
    let r := s.issuer
    if !s.releaseReady r .dev then State.awaitRelease s r .dev
    else if !s.drained r then .hold s
    else .stay (endStart s r.core n)

/-- `halt` (R319). -/
def execHalt (g : Guard) (s : State) : Host.Outcome State Fault Refusal :=
  privOp s g [] [] [] fun n _ => .stay (s.haltCore s.issuer.core 0xFF n 0 0)

/-- The sources of `tlbinv`. -/
def tlbSrcs : TlbSel → List (Src × Nat)
  | .all => []
  | .asid b => [(b, 1)]
  | .asidva a b => [(a, 2), (b, 1)]
  | .va a => [(a, 2)]

/-- The invalidation a `tlbinv` names. -/
def tlbShoot (t : Thread) (sel : TlbSel) : Shoot :=
  let asid (b : Src) : BitVec 16 := (t.reg b.reg).extractLsb' 0 16
  let va (a : Src) : DWord := t.reg64 a.reg &&& ~~~0xFFF#64
  match sel with
  | .all => { direct := false, tlbk := 0, asid := 0, va := 0 }
  | .asid b => { direct := false, tlbk := 1, asid := asid b, va := 0 }
  | .asidva a b => { direct := false, tlbk := 2, asid := asid b, va := va a }
  | .va a => { direct := false, tlbk := 3, asid := 0, va := va a }

/-- `tlbinv` (R297, R320). -/
def execTlbinv (g : Guard) (sel : TlbSel) (s : State) : Host.Outcome State Fault Refusal :=
  privOp s g (tlbSrcs sel) [] [] fun _ t =>
    let r := s.issuer
    let k := tlbShoot t sel
    if !s.releaseReady r .sys then State.awaitRelease s r .sys
    else if s.shootWaits k then .hold s
    else .next (s.invalidate k)

/-! ## Keys (R324) -/

/-- A key operation on the slot a register names. -/
def keyOp (s : State) (g : Guard) (d : Reg) (a : Src) (f : KeySlot → Status × State) : Host.Outcome State Fault Refusal :=
  privOp s g [(a, 1)] [] [(d, 1)] fun _ t =>
    let k := (t.reg a.reg).toNat
    if k = 0 || 255 < k then .next (s.answer d .invalid)
    else
      let (x, s) := f (s.keySlot k)
      .next (s.answer d x)

/-- The HBM pages of a key slot. -/
def slotPages (s : State) (slot : Nat) : List Nat := (s.pslots.filter fun p => p.2.toNat == slot).map Prod.fst

/-- The lines of a slot's pages when a key is installed (R300): those that lie in HBM under it verify, those under another key
do not. -/
def rekey (s : State) (slot : Nat) (last key : BitVec 256) : State :=
  let lines := (slotPages s slot).flatMap fun p => (List.range 64).map fun i => 4096 * p + 64 * i
  lines.foldl (fun (s : State) la =>
    let under := (lookup s.lineKeys la).getD last
    { s with lineKeys := if under = key then eraseKey s.lineKeys la else insertKey s.lineKeys la under }) s

/-- `kload`: the staged key installed. -/
def loadKey (s : State) (k : KeySlot) : Status × State :=
  match k.staged with
  | none => (.noKey, s)
  | some key =>
    if k.key.isSome then (.inUse, s)
    else
      let s := match k.last with
        | some last => rekey s k.slot last key
        | none => s
      (.ok, s.putKeySlot { k with key := some key, staged := none, window := [], last := some key })

/-- The L2 copies of a page's lines dropped without write-back: a line that was dirty there reads as HBM holds it, which is
not known to the model (notes/assumptions/118.md). -/
def dropL2 (s : State) (page : Nat) : State :=
  (List.range 64).foldl (fun (s : State) i =>
    let la := 4096 * page + 64 * i
    { s with free := s.free + 1
             mem := if Config.l2Dirty s.free then
                 s.mem.writeSome la ((List.range 64).map fun j => some (Config.lostByte s.free j))
               else s.mem }) s

/-- `kclr`: the key erased, with the copies of its pages' lines. -/
def clearKey (s : State) (k : KeySlot) : Status × State :=
  if s.cores.any fun c => c.tasks.any fun p => p.2.ctx.kslot.toNat == k.slot && !p.2.threads.isEmpty then (.inUse, s)
  else match k.key with
    | none => (.ok, s)
    | some key =>
      let s := (slotPages s k.slot).foldl (fun (s : State) p => dropL2 (s.dropPage p) p) s
      (.ok, s.putKeySlot { k with key := none, window := [], past := k.past ++ [(k.ctr.toNat, key)] })

/-- `kload` (R324). -/
def execKload (g : Guard) (d : Reg) (a : Src) (s : State) : Host.Outcome State Fault Refusal := keyOp s g d a (loadKey s)

/-- `kclr` (R324). -/
def execKclr (g : Guard) (d : Reg) (a : Src) (s : State) : Host.Outcome State Fault Refusal := keyOp s g d a (clearKey s)

/-! ## The Riser (R325, R326) -/

/-- The oldest record popped into memory. -/
def popRiser (s : State) (core pa : Nat) (f : FaultRec) : State :=
  ((s.devReach pa 64).storeHomeBytesBy (some core) pa f.bytes false).modCore core fun c =>
    State.riserEntryFree { c with riser := c.riser.drop 1, popped := c.popped ++ [f] }

/-- `riserpop` (R325). -/
def execRiserpop (g : Guard) (d : Reg) (a : Src) (s : State) : Host.Outcome State Fault Refusal :=
  privOp s g [(a, 2)] [] [(d, 1)] fun _ t =>
    let core := s.issuer.core
    let pa := (t.reg64 a.reg).toNat
    match ((s.core? core).map State.shownRecords).getD [] with
    | [] => .next (s.giveReg d 0)
    | f :: _ =>
      if !s.paOk pa 64 then .next (s.giveReg d 0)
      else
        let s' := popRiser s core pa f
        if s'.devWaits then .hold s else .next (s'.giveReg d f.handle)

/-- The live thread a handle names on a core. -/
def liveNamed? (s : State) (core : Nat) (h : Word) : Option (ThreadRef × Thread) :=
  (s.named? core h).bind fun (place, tidx) =>
    let r : ThreadRef := { core, who := .user place tidx }
    (s.thread? r).bind fun t => if t.exited then none else some (r, t)

/-- Whether a thread's record is in the Riser, and shown. -/
def inRiser (t : Thread) : Bool := t.state == .riser && !t.trapping

/-- Whether a thread waits on a system call. -/
def inCall (t : Thread) : Bool :=
  match t.state with
  | .syscall _ => true
  | _ => false

/-- A form of `resume`: NOTASK for a handle that names no live thread, INVALID for a mode that does not fit. The effect may
have to wait for a line. -/
def resumeWith (s : State) (g : Guard) (d : Reg) (a : Src) (travels : List (Src × Nat)) (fits : Thread → Bool)
    (f : Word → ThreadRef → Thread → Thread → Bool × State) : Host.Outcome State Fault Refusal :=
  privOp s g [(a, 1)] travels [(d, 1)] fun _ t =>
    let h := t.reg a.reg
    match liveNamed? s s.issuer.core h with
    | none => .next (s.answer d .noTask)
    | some (r, u) =>
      if !fits u then .next (s.answer d .invalid)
      else match f h r u t with
        | (true, s) => .next (s.answer d .ok)
        | (false, s) => .hold s

/-- A form of `resume` whose effect waits for nothing. -/
def resumeOp (s : State) (g : Guard) (d : Reg) (a : Src) (travels : List (Src × Nat)) (fits : Thread → Bool)
    (f : Word → ThreadRef → Thread → Thread → State) : Host.Outcome State Fault Refusal :=
  resumeWith s g d a travels fits fun h r u t => (true, f h r u t)

/-- The successor of the instruction or pair at a thread's restart point (R25), once its line is there; of one that cannot be
fetched, the next slot. -/
def successor (s : State) (r : ThreadRef) (pc : DWord) : Option DWord × State :=
  match s.fetch r (pcLine pc) pc with
  | (.line bs, s) => (some (if linePair bs (pcSlot pc) then nextPC (nextPC pc) else nextPC pc), s)
  | (.wait, s) => (none, s)
  | (_, _) => (some (nextPC pc), s)

/-- `resume.retry` (R326). -/
def execResumeRetry (g : Guard) (d : Reg) (a : Src) (s : State) : Host.Outcome State Fault Refusal :=
  resumeOp s g d a [] inRiser fun h r u _ => s.resumeAt r h u.pc

/-- `resume.skip` (R326). -/
def execResumeSkip (g : Guard) (d : Reg) (a : Src) (s : State) : Host.Outcome State Fault Refusal :=
  resumeWith s g d a [] inRiser fun h r u _ =>
    match successor s r u.pc with
    | (none, s) => (false, s)
    | (some pc, s) => (true, (s.resumeAt r h pc).modThread r fun t => { t with kept := none, starting := false })

/-- The poison marks of a value register and those that follow it. -/
def valueMarks (t : Thread) (b : Src) (n : Nat) : BitVec 4 := poisA t b n

/-- The return of a system call: v0 and v1 delivered, the call gone from the ring, and the thread runnable. -/
def returnSys (s : State) (r : ThreadRef) (x : Nat) (marks : BitVec 4) : State :=
  (s.freeCall r.core (keyOf r.who).1 (keyOf r.who).2).modThread r fun u =>
    { u.setRegs 0 2 x marks with state := .runnable, wait := 0 }

/-- `resume.sys` (R326, R344). The return is a control transfer to NextPC of the `sys` (R27): where its check fails, the
thread has its values and traps at the `sys` (notes/assumptions/113.md). -/
def execResumeSys (g : Guard) (d : Reg) (a b : Src) (s : State) : Host.Outcome State Fault Refusal :=
  resumeWith s g d a [(b, 2)] inCall fun _ r u t =>
    let x := (t.reg64 b.reg).toNat
    let marks := valueMarks t b 2
    match s.checkTarget r u.pc with
    | (.wait, s) => (false, s)
    | (.trap e, s) =>
      (true, ((returnSys s r x marks).modThread r fun u => { u with pc := prevPC u.pc }).takeTrap r e)
    | (.check, s) => (false, s.fetchCheck r (pcLine u.pc))
    | (.ok, s) => (true, returnSys s r x marks)

/-- `resume.setv` (R326). -/
def execResumeSetv (g : Guard) (d : Reg) (a b : Src) (n : Reg) (s : State) : Host.Outcome State Fault Refusal :=
  resumeOp s g d a [(b, 1)] (fun t => inRiser t || inCall t) fun _ r _ t =>
    s.modThread r fun u => u.setReg n (t.reg b.reg) (t.isPois b.reg)

/-! ## Signals (R327) -/

/-- `sigpost` (R327). -/
def execSigpost (g : Guard) (d : Reg) (a b : Src) (s : State) : Host.Outcome State Fault Refusal :=
  privOp s g [(a, 1), (b, 1)] [] [(d, 1)] fun _ t =>
    let n := t.reg b.reg
    if 63 < n.toNat then .next (s.answer d .invalid)
    else match liveNamed? s s.issuer.core (t.reg a.reg) with
      | none => .next (s.answer d .noTask)
      | some (r, u) =>
        if u.signal.isSome then .next (s.answer d .pending)
        else .next ((s.modThread r fun u => { u with signal := some (n.extractLsb' 0 6) }).answer d .ok)

/-! ## The wavelength plan (R278, R280, R328) -/

/-- The plan of 1,024 bytes: its ON entries. -/
def planOf (bs : List Byte) : Plan :=
  (List.range 512).filterMap fun i =>
    let x := leNat ((bs.drop (2 * i)).take 2)
    if x.testBit 15 then some (i, { on := true, band := BitVec.ofNat 2 (bits x 6 2), ch := BitVec.ofNat 6 x }) else none

/-- Whether a plan is valid: no ON entry on channel 0, and no band and channel twice in a plane. -/
def planOk (p : Plan) : Bool :=
  p.all (fun e => e.2.ch != 0) &&
    (List.range 64).all fun k =>
      let l := (p.filter fun e => e.1 / 8 == k).map fun e => (e.2.band, e.2.ch)
      l.eraseDups.length == l.length

/-- Whether bits [14:8] of every entry are zero (R4, R278). -/
def planZero (bs : List Byte) : Bool :=
  (List.range 512).all fun i => ((bs[2 * i + 1]?).getD 0 &&& 0x7F) == 0

/-- `planset` (R328). -/
def execPlanset (g : Guard) (d : Reg) (a : Src) (s : State) : Host.Outcome State Fault Refusal :=
  privOp s g [(a, 2)] [] [(d, 1)] fun _ t =>
    let pa := (t.reg64 a.reg).toNat
    if s.commit.isSome then .hold s
    else if !s.paOk pa 1024 then .next (s.answer d .badAddr)
    else
      let (bs, pois, s') := s.devLoad pa 1024
      let p := planOf bs
      if s'.devWaits then .hold s
      else if planOk p && planZero bs && !pois then .next ({ s' with staged := some p, planErr := false }.answer d .ok)
      else .next ({ s' with planErr := true }.answer d .invalid)

/-- The lanes whose entry differs between two plans. -/
def changingLanes (old new : Plan) : List Nat := (List.range 512).filter fun l => lookup old l != lookup new l

/-- The destinations the lanes of a plan lead to. -/
def lanesLead (s : State) (p : Plan) (lanes : List Nat) : List Nat :=
  lanes.filterMap fun l => (lookup p l).map fun e => (s.dev + e.ch.toNat) % 64

/-- The staged plan begins to be applied: HELD for every affected destination, and a drain marker on each changing lane
(R280 steps 1 and 2); where no request sent on one is open, step 3 has nothing to wait for. A commit with no changing lane is
complete. -/
def startCommit (s : State) (p : Plan) : State :=
  let changing := changingLanes s.plan p
  let s := { s with staged := none }
  if changing.isEmpty then { s with planSeq := s.planSeq + 1, planNunr := 0 }
  else
    let affected := (lanesLead s s.plan changing ++ lanesLead s p changing).eraseDups
    let s := affected.foldl (fun (s : State) x => s.modDest x fun e => { e with held := true }) s
    let s := changing.foldl (fun (s : State) l => s.send (.drainMarker l)) s
    ({ s with commit := some { plan := p, changing, affected, dark := false } } : State).goDark

/-- `plancommit` (R280, R328). -/
def execPlancommit (g : Guard) (d : Reg) (s : State) : Host.Outcome State Fault Refusal :=
  privOp s g [] [] [(d, 1)] fun _ _ =>
    if s.commit.isSome then .hold s
    else match s.staged with
      | none => .next (s.answer d .noPlan)
      | some p => .next ((startCommit s p).answer d .ok)

/-! ## Bias (R329) -/

/-- A flip requested by `biasset`: the thread holds until it has passed its last step, and then receives OK. -/
def biasOp (s : State) (g : Guard) (toHost : Bool) (d : Reg) (a : Src) : Host.Outcome State Fault Refusal :=
  privOp s g [(a, 1)] [] [(d, 1)] fun _ t =>
    let r := s.issuer
    let page := (t.reg a.reg).toNat
    if s.flips.any fun f => f.waiter == some (r, d) then .hold s
    else if 2 ^ 27 ≤ page || s.part.hbmBytes ≤ page * 4096 then .next (s.answer d .invalid)
    else .stay (s.requestFlip { page, toHost, byHost := false, waiter := some (r, d), lines := [] })

/-- `biasset.todev` (R329). -/
def execBiassetTodev (g : Guard) (d : Reg) (a : Src) (s : State) : Host.Outcome State Fault Refusal := biasOp s g false d a

/-- `biasset.tohost` (R329). -/
def execBiassetTohost (g : Guard) (d : Reg) (a : Src) (s : State) : Host.Outcome State Fault Refusal := biasOp s g true d a

end Sys2Proof.Machine
end

