-- ==== Sys2Proof/Machine/TrapInstr.lean ====
section
/-!
DEFINITION. The trap-raising class: `sys`, `brk`, `trap` and `trap.sret` (spec/22_traps_restart.md R343 to R347).
-/

namespace Sys2Proof.Machine

/-- The operands of a system call, v2 to v7 (R343). -/
def sysSrcs : List (Src × Nat) := [({ reg := 2, trap := false }, 6)]

/-- CALLRING of a thread's context-table entry; a Caster thread has no entry. -/
def callRingOf (s : State) (r : ThreadRef) : DWord := ((s.taskOf? r).map fun k => k.ctx.callring).getD 0

/-- A system call entered (R343 steps 3 and 4). -/
def enterCall (s : State) (r : ThreadRef) (n : BitVec 16) : State :=
  let s := s.modThread r fun t =>
    { t.setEmpty 0 2 with pc := nextPC t.pc, state := .syscall n, wait := 0 }
  s.postCall r.core (keyOf r.who).1 (keyOf r.who).2

/-- `sys` (R343). -/
def execSys (g : Guard) (n : BitVec 16) (s : State) : Host.Outcome State Fault Refusal :=
  issue s g sysSrcs [(0, 2)] [] fun t =>
    let r := s.issuer
    match firstPoison t sysSrcs with
    | some p => .trap s p
    | none =>
      if callRingOf s r = 0 then .trap s { kind := .sys, sub := 0 }
      else if !s.drained r then .hold s
      else .stay (enterCall s r n)

/-- `brk` (R347). -/
def execBrk (g : Guard) (n : BitVec 8) (s : State) : Host.Outcome State Fault Refusal :=
  issue s g [] [] [] fun _ => .trap s { kind := .brk, sub := n }

/-- `trap` (R347). -/
def execTrap (g : Guard) (n : BitVec 8) (a : Src) (s : State) : Host.Outcome State Fault Refusal :=
  issue s g [(a, 1)] [] [] fun t =>
    match firstPoison t [(a, 1)] with
    | some p => .trap s p
    | none => .trap s { kind := .trap, sub := n, addr := (t.reg a.reg).zeroExtend 64 }

/-- The registers a signal frame restores, each with the offset of its word (R346). -/
def frameWords : List (Reg × Nat) := [(0, 0x10), (1, 0x14), (2, 0x18), (3, 0x1C), (61, 0x20), (62, 0x28), (63, 0x2C)]

/-- A thread with the fields of a frame, its poison with them. -/
def unframe (t : Thread) (bs : List Byte) (ps : List Bool) : Thread :=
  let w (o n : Nat) : Nat := leNat ((bs.drop o).take n)
  let t := frameWords.foldl (fun (t : Thread) (r, o) =>
    t.setReg r (BitVec.ofNat 32 (w o 4)) (((ps.drop o).take 4).any id)) t
  { t with fpctl := BitVec.ofNat 32 (w 0x08 4 % 2 ^ 14), preds := BitVec.ofNat 8 (w 0x0C 1) &&& 0xFE }

/-- v61 as a source of `trap.sret`. -/
def frameSrcs : List (Src × Nat) := [({ reg := 61, trap := false }, 1)]

/-- `trap.sret` (R347). -/
def execTrapSret (g : Guard) (s : State) : Host.Outcome State Fault Refusal :=
  issue s g frameSrcs [(0, 4), (61, 3)] [1, 2, 3, 4, 5, 6, 7] fun t =>
    let r := s.issuer
    match firstPoison t frameSrcs with
    | some p => .trap s p
    | none =>
      let f := (t.reg 61).toNat % 2 ^ 20
      let at_ (kind : TrapKind) (sub : Byte) (x : Nat) : Trap := { kind, sub, addr := BitVec.ofNat 64 x }
      if f % 16 != 0 then .trap s (at_ .align 0x01 f)
      else if ((s.taskOf? r).map Task.scratch).getD 0 < f + 64 then .trap s (at_ .bounds 0x02 f)
      else if State.accessWaits t then .hold s
      else
        let place := (keyOf r.who).1
        let (bs, ps) := s.scratchRead r.core place f 64
        let (bs, ps) := forwarded t.queue (.scratch r.core place f false) bs ps
        let pc : DWord := BitVec.ofNat 64 (leNat (bs.take 8))
        if (ps.take 12).any id then .trap s (at_ .poison 0x00 f)
        else if pcBad pc then .trap s (at_ .cfi 0x02 pc.toNat)
        else .jump (s.modThread r fun t => unframe t bs ps) pc

end Sys2Proof.Machine
end

