-- ==== Sys2Proof/Machine/Dispatch.lean ====
section
/-!
DEFINITION. The dispatch of every instruction and event to its meaning.
-/

namespace Sys2Proof.Machine

def exec (i : Instr) (s : State) : Host.Outcome State Fault Refusal :=
  match i with
  | .nop => Sys2Proof.Machine.execNop s
  | .iadd g ty sat d a b => Sys2Proof.Machine.execIadd g ty sat d a b s
  | .isub g ty sat d a b => Sys2Proof.Machine.execIsub g ty sat d a b s
  | .imul g ty sat d a b => Sys2Proof.Machine.execImul g ty sat d a b s
  | .imulh g ty d a b => Sys2Proof.Machine.execImulh g ty d a b s
  | .imad g ty sat d a b c => Sys2Proof.Machine.execImad g ty sat d a b c s
  | .idiv g ty d a b => Sys2Proof.Machine.execIdiv g ty d a b s
  | .irem g ty d a b => Sys2Proof.Machine.execIrem g ty d a b s
  | .imin g ty d a b => Sys2Proof.Machine.execImin g ty d a b s
  | .imax g ty d a b => Sys2Proof.Machine.execImax g ty d a b s
  | .iabs g ty sat d a => Sys2Proof.Machine.execIabs g ty sat d a s
  | .ineg g ty sat d a => Sys2Proof.Machine.execIneg g ty sat d a s
  | .and g ty d a b => Sys2Proof.Machine.execAnd g ty d a b s
  | .or g ty d a b => Sys2Proof.Machine.execOr g ty d a b s
  | .xor g ty d a b => Sys2Proof.Machine.execXor g ty d a b s
  | .not g ty d a => Sys2Proof.Machine.execNot g ty d a s
  | .shl g ty d a b => Sys2Proof.Machine.execShl g ty d a b s
  | .shr g ty d a b => Sys2Proof.Machine.execShr g ty d a b s
  | .sra g ty d a b => Sys2Proof.Machine.execSra g ty d a b s
  | .rot g ty d a b => Sys2Proof.Machine.execRot g ty d a b s
  | .popc g ty d a => Sys2Proof.Machine.execPopc g ty d a s
  | .clz g ty d a => Sys2Proof.Machine.execClz g ty d a s
  | .ctz g ty d a => Sys2Proof.Machine.execCtz g ty d a s
  | .brev g ty d a => Sys2Proof.Machine.execBrev g ty d a s
  | .bfx g ty d a b => Sys2Proof.Machine.execBfx g ty d a b s
  | .bfi g ty d a b c => Sys2Proof.Machine.execBfi g ty d a b c s
  | .icmp g cc ty qd a b => Sys2Proof.Machine.execIcmp g cc ty qd a b s
  | .sel g ty d a b qk => Sys2Proof.Machine.execSel g ty d a b qk s
  | .mov g ty d a => Sys2Proof.Machine.execMov g ty d a s
  | .movi g ty d x => Sys2Proof.Machine.execMovi g ty d x s
  | .lea g ty k d a b off => Sys2Proof.Machine.execLea g ty k d a b off s
  | .fadd g ty rm sat d a b => Sys2Proof.Machine.execFadd g ty rm sat d a b s
  | .fsub g ty rm sat d a b => Sys2Proof.Machine.execFsub g ty rm sat d a b s
  | .fmul g ty rm sat d a b => Sys2Proof.Machine.execFmul g ty rm sat d a b s
  | .fma g ty rm sat d a b c => Sys2Proof.Machine.execFma g ty rm sat d a b c s
  | .fmin g ty d a b => Sys2Proof.Machine.execFmin g ty d a b s
  | .fmax g ty d a b => Sys2Proof.Machine.execFmax g ty d a b s
  | .fabs g ty d a => Sys2Proof.Machine.execFabs g ty d a s
  | .fneg g ty d a => Sys2Proof.Machine.execFneg g ty d a s
  | .fcmp g cc ty qd a b => Sys2Proof.Machine.execFcmp g cc ty qd a b s
  | .fclass g ty d a => Sys2Proof.Machine.execFclass g ty d a s
  | .fsqrt g ty rm sat d a => Sys2Proof.Machine.execFsqrt g ty rm sat d a s
  | .frcp g ty rm sat d a => Sys2Proof.Machine.execFrcp g ty rm sat d a s
  | .fdiv g ty rm sat d a b => Sys2Proof.Machine.execFdiv g ty rm sat d a b s
  | .frsq g ty rm sat d a => Sys2Proof.Machine.execFrsq g ty rm sat d a s
  | .fexp2 g ty rm sat d a => Sys2Proof.Machine.execFexp2 g ty rm sat d a s
  | .flog2 g ty rm sat d a => Sys2Proof.Machine.execFlog2 g ty rm sat d a s
  | .fsinpi g ty rm sat d a => Sys2Proof.Machine.execFsinpi g ty rm sat d a s
  | .fcospi g ty rm sat d a => Sys2Proof.Machine.execFcospi g ty rm sat d a s
  | .fscale g ty rm sat d a b => Sys2Proof.Machine.execFscale g ty rm sat d a b s
  | .fexpo g ty d a => Sys2Proof.Machine.execFexpo g ty d a s
  | .fround g ty rm d a => Sys2Proof.Machine.execFround g ty rm d a s
  | .froundExact g ty rm d a => Sys2Proof.Machine.execFroundExact g ty rm d a s
  | .cvt g ty sty rm sat d a => Sys2Proof.Machine.execCvt g ty sty rm sat d a s
  | .pack g ty rm sat d a b => Sys2Proof.Machine.execPack g ty rm sat d a b s
  | .unpack g ty d a => Sys2Proof.Machine.execUnpack g ty d a s
  | .setw g width => Sys2Proof.Machine.execSetw g width s
  | .shfl g mode ty d a b => Sys2Proof.Machine.execShfl g mode ty d a b s
  | .vote g mode qd qa => Sys2Proof.Machine.execVote g mode qd qa s
  | .voteBallot g d qa w => Sys2Proof.Machine.execVoteBallot g d qa w s
  | .redux g op ty rm d a => Sys2Proof.Machine.execRedux g op ty rm d a s
  | .scanx g op excl ty rm d a => Sys2Proof.Machine.execScanx g op excl ty rm d a s
  | .bcast g mode ty d a => Sys2Proof.Machine.execBcast g mode ty d a s
  | .matchLanes g mode ty d a => Sys2Proof.Machine.execMatchLanes g mode ty d a s
  | .lanes g mode d => Sys2Proof.Machine.execLanes g mode d s
  | .ld g sx size acq scope feq d m => Sys2Proof.Machine.execLd g sx size acq scope feq d m s
  | .st g size rel scope feq m b => Sys2Proof.Machine.execSt g size rel scope feq m b s
  | .pf g level base off => Sys2Proof.Machine.execPf g level base off s
  | .fence g ord scope => Sys2Proof.Machine.execFence g ord scope s
  | .ifence g scope => Sys2Proof.Machine.execIfence g scope s
  | .cflushWb g base off => Sys2Proof.Machine.execCflushWb g base off s
  | .cflushInv g base off => Sys2Proof.Machine.execCflushInv g base off s
  | .cflushMem g base off => Sys2Proof.Machine.execCflushMem g base off s
  | .lsub g qd base off => Sys2Proof.Machine.execLsub g qd base off s
  | .lunsub g base off => Sys2Proof.Machine.execLunsub g base off s
  | .atom g op ty ord scope d m b => Sys2Proof.Machine.execAtom g op ty ord scope d m b s
  | .cas g ty ord scope d m b c => Sys2Proof.Machine.execCas g ty ord scope d m b c s
  | .red g op ty rel scope m b => Sys2Proof.Machine.execRed g op ty rel scope m b s
  | .barinit g scope m b => Sys2Proof.Machine.execBarinit g scope m b s
  | .arrive g scope d m => Sys2Proof.Machine.execArrive g scope d m s
  | .barwait g scope m b => Sys2Proof.Machine.execBarwait g scope m b s
  | .dqinit g scope base off b c => Sys2Proof.Machine.execDqinit g scope base off b c s
  | .dqpush g scope qd base off b => Sys2Proof.Machine.execDqpush g scope qd base off b s
  | .dqpop g scope d qd base off => Sys2Proof.Machine.execDqpop g scope d qd base off s
  | .dqsteal g scope d qd base off => Sys2Proof.Machine.execDqsteal g scope d qd base off s
  | .waitaddr g size acq scope d m b c => Sys2Proof.Machine.execWaitaddr g size acq scope d m b c s
  | .cp g fill dig swz dsp ssp d a b c doff soff => Sys2Proof.Machine.execCp g fill dig swz dsp ssp d a b c doff soff s
  | .cpq g d a => Sys2Proof.Machine.execCpq g d a s
  | .cpwait g a => Sys2Proof.Machine.execCpwait g a s
  | .coll g base off => Sys2Proof.Machine.execColl g base off s
  | .collwait g base off => Sys2Proof.Machine.execCollwait g base off s
  | .mload g fmt ks qt cru a off pr => Sys2Proof.Machine.execMload g fmt ks qt cru a off pr s
  | .mflip g cru => Sys2Proof.Machine.execMflip g cru s
  | .mbegin g fmt cru sla => Sys2Proof.Machine.execMbegin g fmt cru sla s
  | .mstream g fmt ks qt cru a off pr => Sys2Proof.Machine.execMstream g fmt ks qt cru a off pr s
  | .mend g cru => Sys2Proof.Machine.execMend g cru s
  | .mzero g sla => Sys2Proof.Machine.execMzero g sla s
  | .minit g a off sla => Sys2Proof.Machine.execMinit g a off sla s
  | .mdrain g ofmt drm dsat fill a off sla => Sys2Proof.Machine.execMdrain g ofmt drm dsat fill a off sla s
  | .mscale g zs a b off slb sla => Sys2Proof.Machine.execMscale g zs a b off slb sla s
  | .mstat g d sla => Sys2Proof.Machine.execMstat g d sla s
  | .qtile g fmt ks fill a b off => Sys2Proof.Machine.execQtile g fmt ks fill a b off s
  | .alw g rsp d a => Sys2Proof.Machine.execAlw g rsp d a s
  | .alwq g rsp qd a n => Sys2Proof.Machine.execAlwq g rsp qd a n s
  | .alwwait g rsp a n => Sys2Proof.Machine.execAlwwait g rsp a n s
  | .bra g imm => Sys2Proof.Machine.execBra g imm s
  | .brx g a => Sys2Proof.Machine.execBrx g a s
  | .call g imm => Sys2Proof.Machine.execCall g imm s
  | .callR g a => Sys2Proof.Machine.execCallR g a s
  | .ret g => Sys2Proof.Machine.execRet g s
  | .joinSeg g => Sys2Proof.Machine.execJoinSeg g s
  | .joinTask g => Sys2Proof.Machine.execJoinTask g s
  | .joinM g a base => Sys2Proof.Machine.execJoinM g a base s
  | .exit g => Sys2Proof.Machine.execExit g s
  | .yield g => Sys2Proof.Machine.execYield g s
  | .launch g base off => Sys2Proof.Machine.execLaunch g base off s
  | .ctlrd g d creg => Sys2Proof.Machine.execCtlrd g d creg s
  | .ctlwr g creg a => Sys2Proof.Machine.execCtlwr g creg a s
  | .ctlwrImm g creg n => Sys2Proof.Machine.execCtlwrImm g creg n s
  | .sys g n => Sys2Proof.Machine.execSys g n s
  | .brk g n => Sys2Proof.Machine.execBrk g n s
  | .trap g n a => Sys2Proof.Machine.execTrap g n a s
  | .trapSret g => Sys2Proof.Machine.execTrapSret g s
  | .rfe g => Sys2Proof.Machine.execRfe g s
  | .tlbinv g sel => Sys2Proof.Machine.execTlbinv g sel s
  | .ctxsave g d a b => Sys2Proof.Machine.execCtxsave g d a b s
  | .ctxload g d a => Sys2Proof.Machine.execCtxload g d a s
  | .kload g d a => Sys2Proof.Machine.execKload g d a s
  | .kclr g d a => Sys2Proof.Machine.execKclr g d a s
  | .riserpop g d a => Sys2Proof.Machine.execRiserpop g d a s
  | .resumeRetry g d a => Sys2Proof.Machine.execResumeRetry g d a s
  | .resumeSkip g d a => Sys2Proof.Machine.execResumeSkip g d a s
  | .resumeSys g d a b => Sys2Proof.Machine.execResumeSys g d a b s
  | .resumeSetv g d a b n => Sys2Proof.Machine.execResumeSetv g d a b n s
  | .sigpost g d a b => Sys2Proof.Machine.execSigpost g d a b s
  | .planset g d a => Sys2Proof.Machine.execPlanset g d a s
  | .plancommit g d => Sys2Proof.Machine.execPlancommit g d s
  | .biassetTodev g d a => Sys2Proof.Machine.execBiassetTodev g d a s
  | .biassetTohost g d a => Sys2Proof.Machine.execBiassetTohost g d a s
  | .halt g => Sys2Proof.Machine.execHalt g s
  | .lineArrival core pa => Sys2Proof.Machine.execLineArrival core pa s
  | .waitCountPromotion t => Sys2Proof.Machine.execWaitCountPromotion t s
  | .yieldExpiry t => Sys2Proof.Machine.execYieldExpiry t s
  | .loadDataArrival t k => Sys2Proof.Machine.execLoadDataArrival t k s
  | .storeLeavesQueue t => Sys2Proof.Machine.execStoreLeavesQueue t s
  | .atomicAtHome t => Sys2Proof.Machine.execAtomicAtHome t s
  | .failureAfterIssue t => Sys2Proof.Machine.execFailureAfterIssue t s
  | .peerFaultStop t => Sys2Proof.Machine.execPeerFaultStop t s
  | .signalDelivery t => Sys2Proof.Machine.execSignalDelivery t s
  | .copyGranuleWrite core id => Sys2Proof.Machine.execCopyGranuleWrite core id s
  | .copyPageTranslate core id => Sys2Proof.Machine.execCopyPageTranslate core id s
  | .copyFaultReport t => Sys2Proof.Machine.execCopyFaultReport t s
  | .copyComplete core id => Sys2Proof.Machine.execCopyComplete core id s
  | .collectiveComplete k inputs => Sys2Proof.Machine.execCollectiveComplete k inputs s
  | .collectiveFail k fcode => Sys2Proof.Machine.execCollectiveFail k fcode s
  | .kstepComplete core cru => Sys2Proof.Machine.execKstepComplete core cru s
  | .crucibleClaim core cru => Sys2Proof.Machine.execCrucibleClaim core cru s
  | .crossLaneComplete core place pc base => Sys2Proof.Machine.execCrossLaneComplete core place pc base s
  | .joinRelease core place pc => Sys2Proof.Machine.execJoinRelease core place pc s
  | .waitaddrWake t => Sys2Proof.Machine.execWaitaddrWake t s
  | .waitaddrTimeout t => Sys2Proof.Machine.execWaitaddrTimeout t s
  | .spuriousWake t => Sys2Proof.Machine.execSpuriousWake t s
  | .subscriptionPush core pa line => Sys2Proof.Machine.execSubscriptionPush core pa line s
  | .creditReturn dev => Sys2Proof.Machine.execCreditReturn dev s
  | .responseArrival tag answer => Sys2Proof.Machine.execResponseArrival tag answer s
  | .read src off size => Sys2Proof.Machine.execRead src off size s
  | .write src off bytes marks => Sys2Proof.Machine.execWrite src off bytes marks s
  | .atomicFetching src off op => Sys2Proof.Machine.execAtomicFetching src off op s
  | .atomicNonFetching src off op => Sys2Proof.Machine.execAtomicNonFetching src off op s
  | .floatAtomic src off op operand => Sys2Proof.Machine.execFloatAtomic src off op operand s
  | .flitReceive src lane seq payload => Sys2Proof.Machine.execFlitReceive src lane seq payload s
  | .flitResend plane slot => Sys2Proof.Machine.execFlitResend plane slot s
  | .laneDown plane slot receive => Sys2Proof.Machine.execLaneDown plane slot receive s
  | .planResponseBound => Sys2Proof.Machine.execPlanResponseBound s
  | .relock locked late => Sys2Proof.Machine.execRelock locked late s
  | .relockHandshake peer locked => Sys2Proof.Machine.execRelockHandshake peer locked s
  | .doorbell q => Sys2Proof.Machine.execDoorbell q s
  | .priorityAging k => Sys2Proof.Machine.execPriorityAging k s
  | .launchDispatch k => Sys2Proof.Machine.execLaunchDispatch k s
  | .taskDispatch core => Sys2Proof.Machine.execTaskDispatch core s
  | .taskRetire core place => Sys2Proof.Machine.execTaskRetire core place s
  | .launchPreempt value => Sys2Proof.Machine.execLaunchPreempt value s
  | .preemptComplete => Sys2Proof.Machine.execPreemptComplete s
  | .casterStart core cause => Sys2Proof.Machine.execCasterStart core cause s
  | .machineCheck core sub w1 w2 => Sys2Proof.Machine.execMachineCheck core sub w1 w2 s
  | .biasctlToHost page => Sys2Proof.Machine.execBiasctlToHost page s
  | .biasctlToDevice page => Sys2Proof.Machine.execBiasctlToDevice page s
  | .biasFlipComplete page => Sys2Proof.Machine.execBiasFlipComplete page s
  | .hostMemRead off size => Sys2Proof.Machine.execHostMemRead off size s
  | .hostMemWrite off bytes => Sys2Proof.Machine.execHostMemWrite off bytes s
  | .hostSnoop pa data => Sys2Proof.Machine.execHostSnoop pa data s
  | .pageSlotChange page slot => Sys2Proof.Machine.execPageSlotChange page slot s
  | .evictMark page => Sys2Proof.Machine.execEvictMark page s
  | .evictUnmark page => Sys2Proof.Machine.execEvictUnmark page s
  | .evictMarkComplete => Sys2Proof.Machine.execEvictMarkComplete s
  | .shootdownPost value => Sys2Proof.Machine.execShootdownPost value s
  | .shootdownComplete => Sys2Proof.Machine.execShootdownComplete s
  | .imsicInvalidateAll => Sys2Proof.Machine.execImsicInvalidateAll s
  | .imsicProcessQueue => Sys2Proof.Machine.execImsicProcessQueue s
  | .devcfgWrite value => Sys2Proof.Machine.execDevcfgWrite value s
  | .casterldGo value => Sys2Proof.Machine.execCasterldGo value s
  | .hevtRead => Sys2Proof.Machine.execHevtRead s
  | .cntctlWrite value => Sys2Proof.Machine.execCntctlWrite value s
  | .registerWrite off value => Sys2Proof.Machine.execRegisterWrite off value s
  | .counterTick => Sys2Proof.Machine.execCounterTick s
  | .timeBeacon tick => Sys2Proof.Machine.execTimeBeacon tick s
  | .beaconTimeout => Sys2Proof.Machine.execBeaconTimeout s
  | .throttleStepDown => Sys2Proof.Machine.execThrottleStepDown s
  | .throttleStepUp => Sys2Proof.Machine.execThrottleStepUp s
  | .thermalTrip => Sys2Proof.Machine.execThermalTrip s
  | .powerUp order => Sys2Proof.Machine.execPowerUp order s
  | .powerDown order => Sys2Proof.Machine.execPowerDown order s
  | .deviceReset facts => Sys2Proof.Machine.execDeviceReset facts s
  | .firmwareUpdate image valid => Sys2Proof.Machine.execFirmwareUpdate image valid s
  | .keyDelivery slot key inSession => Sys2Proof.Machine.execKeyDelivery slot key inSession s
  | .spdmRequest request => Sys2Proof.Machine.execSpdmRequest request s
  | .mctpControl message => Sys2Proof.Machine.execMctpControl message s
  | .vendorRead item => Sys2Proof.Machine.execVendorRead item s
  | .healthRecordClear => Sys2Proof.Machine.execHealthRecordClear s
  | .bypass => Sys2Proof.Machine.execBypass s
  | .idcode => Sys2Proof.Machine.execIdcode s
  | .samplePreload => Sys2Proof.Machine.execSamplePreload s
  | .extest => Sys2Proof.Machine.execExtest s
  | .correctedError site => Sys2Proof.Machine.execCorrectedError site s
  | .uncorrectableError site => Sys2Proof.Machine.execUncorrectableError site s
  | .patrolScrub pa corrected => Sys2Proof.Machine.execPatrolScrub pa corrected s
  | .healthCountHalving => Sys2Proof.Machine.execHealthCountHalving s
  | .signalRequest core => Sys2Proof.Machine.execSignalRequest core s
  | .pageSlotChangeComplete => Sys2Proof.Machine.execPageSlotChangeComplete s
  | .crucibleInstructionComplete core => Sys2Proof.Machine.execCrucibleInstructionComplete core s
  | .l1LineEviction core pa => Sys2Proof.Machine.execL1LineEviction core pa s
  | .writeBackComplete core pa => Sys2Proof.Machine.execWriteBackComplete core pa s
  | .hostWriteComplete core pa => Sys2Proof.Machine.execHostWriteComplete core pa s
  | .backInvalidateResponse page line data => Sys2Proof.Machine.execBackInvalidateResponse page line data s

end Sys2Proof.Machine
end

