-- ==== Sys2Proof/Machine/Schedule.lean ====
section
/-!
DEFINITION. Who has the next turn: the issue of a thread with its subset (spec/12_threads_groups.md R221 to R223;
spec/02_encoding.md R41), and, where the schedule names none, what the machine does of itself: the events that its
engines, queues and reports have due, and else issue selection.
-/

namespace Sys2Proof.Machine

/-- Whether a write has touched what a waiter of core `n` waits on (R270). -/
def State.wakes (s : State) (n : Nat) (w : AddrWait) : Bool :=
  match w.target with
  | .mem pa => s.touched.contains (.line (lineOf pa)) || s.touched.contains (.own n (lineOf pa))
  | .scratch c p off _ => s.touched.contains (.granule c p (off / 16))
  | .peer d off => s.touched.contains (.push n (peerPa d (lineOf off)))
  | .mmio _ => false

/-- Whether a touched place can still wake a thread that waits (R270). -/
def State.waitedFor (s : State) (t : Touch) : Bool :=
  s.cores.zipIdx.any fun (c, n) =>
    let hit (th : Thread) : Bool := match th.state with
      | .waitaddr w => ({ s with touched := [t] } : State).wakes n w
      | _ => false
    (c.tasks.any fun p => p.2.threads.any hit) || c.casters.any fun k => hit k.thr

/-- The time of a step passes: CYCLE advances by a free number of cycles (R11), and what no waiter waits for any more is no
longer noted. -/
def State.tickCycle (s : State) : State :=
  { s with cycle := s.cycle + BitVec.ofNat 64 (Config.acCycles s.issueNo), issueNo := s.issueNo + 1
           touched := s.touched.filter s.waitedFor }

/-- Whether a thread stands at a PC and may issue there: for the second instruction of a pair, at slot k + 1 once the first
has completed (R41). -/
def State.issuesAt (s : State) (r : ThreadRef) (pc : DWord) : Bool :=
  ((s.thread? r).map fun t => t.pc == pc && s.canIssue r t).getD false

/-- A thread of an issue that is past its boundary and its fetch: its PC, and the instruction or the pair that stands there. -/
structure Lane where
  thread : ThreadRef
  pc     : DWord
  first  : Instr
  second : Option Instr
  deriving DecidableEq, Repr

/-- The boundaries of the threads of a subset (R340), one after the other: those that go on to their instruction. -/
def passBoundaries : List ThreadRef → State → List ThreadRef × State
  | [], s => ([], s)
  | r :: rs, s =>
    let (go, s) := s.passBoundary r
    let (l, s) := passBoundaries rs s
    (if go then r :: l else l, s)

/-- Steps 1 to 6 of R42 for the threads of a subset, by TIDX: those that come to their instruction. -/
def fetchLanes : List ThreadRef → State → List Lane × State
  | [], s => ([], s)
  | r :: rs, s =>
    let pc := ((s.thread? r).map Thread.pc).getD 0
    match s.ready r with
    | .done s => fetchLanes rs s
    | .one s i => let (l, s) := fetchLanes rs s; ({ thread := r, pc, first := i, second := none } :: l, s)
    | .pair s i j => let (l, s) := fetchLanes rs s; ({ thread := r, pc, first := i, second := some j } :: l, s)

/-- The instruction of a lane, or its pair. -/
def runLane (x : Lane) (s : State) : Host.Outcome State Fault Refusal :=
  let s : State := { s with issuer := x.thread }
  if !s.issuesAt x.thread x.pc then .next s
  else match x.second with
    | none => exec x.first s
    | some j =>
      match exec x.first s with
      | .next s' => if s'.issuesAt x.thread (x.pc + 1) then exec j s' else .next s'
      | o => o

/-- The watchpoints of a thread's task. -/
def State.watches (s : State) (r : ThreadRef) : WatchReg × WatchReg :=
  match s.taskOf? r with
  | some k => (k.watch0, k.watch1)
  | none => ({}, {})

def State.setWatches (s : State) (r : ThreadRef) (w : WatchReg × WatchReg) : State :=
  match r.who with
  | .user place _ => s.modTask r.core place fun k => { k with watch0 := w.1, watch1 := w.2 }
  | .caster _ => s

/-- A watchpoint after the lanes of an issue: as one lane and those behind it left it. -/
def watchAfter (old one rest : WatchReg) : WatchReg := if rest = old then one else rest

/-- The lanes of an issue, one after the other (R176, R221), each matched on its own against the watchpoints as they stood
at the issue (R348). -/
def runLanes : List Lane → State → Host.Outcome State Fault Refusal
  | [], s => .next s
  | x :: xs, s =>
    match runLane x s with
    | .next s' =>
      if xs.isEmpty then .next s'
      else
        let old := s.watches x.thread
        let one := s'.watches x.thread
        match runLanes xs (s'.setWatches x.thread old) with
        | .next s'' =>
          let rest := s''.watches x.thread
          .next (s''.setWatches x.thread (watchAfter old.1 one.1 rest.1, watchAfter old.2 one.2 rest.2))
        | o => o
    | o => o

/-- The issue of the threads of a subset (R221): their boundaries, their one instruction fetched and checked for each, and
then its effect for each. A thread that traps stops no other of its issue (R176, R342). -/
def runSubset (l : List ThreadRef) (s : State) : Host.Outcome State Fault Refusal :=
  let (l, s) := passBoundaries l s
  let (xs, s) := fetchLanes l s
  runLanes xs s

/-- The turn of a thread's subset; its core's round robin moves on to the next group (R223). -/
def issueSubset (r : ThreadRef) (s : State) : Host.Outcome State Fault Refusal :=
  let l := s.subsetOf r
  if !l.contains r then .next s
  else
    let s := match r.who with
      | .user place _ => s.modCore r.core fun c => { c with rr := State.groupKey place (s.groupNo r) + 1 }
      | .caster _ => s
    runSubset l s

/-- Whether a turn left a thread where it stood without an issue: it is held, and passed over (R228). -/
def held (r : ThreadRef) (s s' : State) : Bool :=
  ((s.core? r.core).map fun c => c.count.issued) == ((s'.core? r.core).map fun c => c.count.issued) &&
    ((s.thread? r).map fun t => (t.pc, t.state)) == ((s'.thread? r).map fun t => (t.pc, t.state))

/-- The first of the threads whose subset is not held issues; what a held one began stays begun. -/
def firstTurn : List ThreadRef → State → Host.Outcome State Fault Refusal
  | [], s => .next s
  | r :: rs, s =>
    match issueSubset r s with
    | .next s' => if held r s s' then firstTurn rs s' else .next s'
    | o => o

/-- The turn of the group of a thread: of its candidates the first in the order of R222 that is not held issues. -/
def runTurn (r : ThreadRef) (s : State) : Host.Outcome State Fault Refusal :=
  firstTurn ((s.groupCandidates r.core (keyOf r.who).1 (s.groupNo r)).map (·.thread)) s

/-! ## What is due -/

/-- The threads of every core. -/
def State.allThreads (s : State) : List ThreadRef := (List.range s.cores.length).flatMap s.threadsOf

/-- The events that a thread's queues, results and reports may have due. -/
def State.threadEvents (s : State) (r : ThreadRef) : List Instr :=
  match s.thread? r with
  | none => []
  | some t =>
    (if t.stop.isSome then [.peerFaultStop r] else []) ++
      (if t.fails.isEmpty && t.later.isEmpty then [] else [.failureAfterIssue r]) ++
      (if (s.stoppedCopy? r).isSome then [.copyFaultReport r] else []) ++
      (if t.signal.isSome then [.signalDelivery r] else []) ++
      (if t.queue.isEmpty then [] else [.storeLeavesQueue r]) ++
      (if t.pend.isEmpty then [] else .atomicAtHome r :: (List.range t.pend.length).map (.loadDataArrival r)) ++
      (match t.state with
        | .waitaddr w => if s.wakes r.core w then [.waitaddrWake r] else []
        | _ => [])

/-- The events of the engines of a core and of its tasks. -/
def State.coreEvents (s : State) (n : Nat) : List Instr :=
  match s.core? n with
  | none => []
  | some c =>
    let insts (place : Nat) := (s.insts n place).map fun i => Instr.crossLaneComplete n place i.pc i.base
    let joins (place : Nat) (l : List Thread) := (l.filterMap fun t => match t.state with
      | .join .. => some t.pc
      | _ => none).eraseDups.map (Instr.joinRelease n place)
    (match nextCause? c with
        | some k => [Instr.casterStart n k]
        | none => []) ++
      (c.copies.flatMap fun k => [Instr.copyGranuleWrite n k.id, .copyComplete n k.id]) ++
      (c.crus.zipIdx.flatMap fun (k, i) =>
        (if k.jobs.isEmpty then [] else [Instr.kstepComplete n i]) ++
          (if k.holder.isNone && !k.waiters.isEmpty then [Instr.crucibleClaim n i] else [])) ++
      (if c.work.isEmpty then [] else [.crucibleInstructionComplete n]) ++
      (c.tasks.flatMap fun p => insts p.1 ++ joins p.1 p.2.threads ++ [Instr.taskRetire n p.1]) ++
      insts casterPlace ++ joins casterPlace (c.casters.map Caster.thr) ++
      (c.wbacks.map fun l => Instr.writeBackComplete n l.pa) ++ (c.hwrites.map fun pa => Instr.hostWriteComplete n pa) ++
      (if s.launches.any fun l => l.state == .dispatched && l.runners.any fun r => r.lo < r.hi then [.taskDispatch n]
        else [])

/-- The events of the device. -/
def State.deviceEvents (s : State) : List Instr :=
  (s.flips.map fun f => Instr.biasFlipComplete f.page) ++
    (if s.pslotBusy.isSome then [.pageSlotChangeComplete] else []) ++
    (if s.evicting.isSome then [.evictMarkComplete] else []) ++
    (if s.shoots.isEmpty then [] else [.shootdownComplete]) ++
    (s.colls.zipIdx.flatMap fun (c, k) =>
      (if collTwin s c then [Instr.collectiveFail k 0x01] else []) ++
        (if (collMembers c.mask).any fun d => d != s.dev && s.unreach d then [Instr.collectiveFail k 0x02] else []) ++
        [Instr.collectiveComplete k []]) ++
    (s.seqs.flatMap fun e => (e.held.find? fun h => h.1 == e.next).toList.map fun h => Instr.flitReceive e.dev e.lane h.1 h.2) ++
    (if s.preempt.isSome then [.preemptComplete] else []) ++ (s.launches.map fun l => Instr.launchDispatch l.no)

/-- The events that may be due, those of threads first. -/
def State.dueEvents (s : State) : List Instr :=
  s.allThreads.flatMap s.threadEvents ++ s.coreOrder.flatMap s.coreEvents ++ s.deviceEvents

/-- The first of the events that changes the machine happens. -/
def firstEvent : List Instr → State → Option (Host.Outcome State Fault Refusal)
  | [], _ => none
  | e :: es, s =>
    match exec e s with
    | .next s' => if s' = s then firstEvent es s else some (.next s')
    | o => some o

/-- Whether no thread of a core is runnable but those that `yield` keeps out: they are candidates again at once (R253). -/
def State.onlyYielded (s : State) (n : Nat) : Bool :=
  (s.threadsOf n).all fun r => (s.thread? r).all fun t => t.yielded || !s.canIssue r t

/-- The threads that `yield` keeps out of issue selection. -/
def State.yieldedThreads (s : State) (l : List ThreadRef) : List Instr :=
  l.filterMap fun r => if (s.thread? r).any Thread.yielded then some (.yieldExpiry r) else none

/-- The yields that end because their core has no other runnable thread. -/
def State.yieldsDue (s : State) : List Instr :=
  (List.range s.cores.length).flatMap fun n => if s.onlyYielded n then s.yieldedThreads (s.threadsOf n) else []

/-- What only the passing of time brings to threads that wait: the end of a `yield`, a timeout at `waitaddr`, and the
re-read of a peer's word that nothing pushes (R253, R270). -/
def State.timeEvents (s : State) : List Instr :=
  s.yieldedThreads s.allThreads ++ s.allThreads.filterMap fun r =>
    match (s.thread? r).map Thread.state with
    | some (.waitaddr w) =>
      if w.timeout != 0 then some (.waitaddrTimeout r)
      else match w.target with
        | .peer .. => some (.waitaddrWake r)
        | _ => none
    | _ => none

/-- The threads that may issue and have not been promoted. -/
def State.unpromoted (s : State) : List ThreadRef :=
  s.allThreads.filter fun r => (s.thread? r).any fun t => s.canIssue r t && !t.yielded && t.wait < State.promoteAt

/-- One step in 128 promotes a thread in turn, and another brings one of the events of time, so that in the end every
thread comes to its turn (R222, R253, R270; notes/assumptions/17.md). -/
def State.timeDue (s : State) : List Instr :=
  let pick (l : List Instr) : List Instr := (l[s.issueNo / 128 % l.length]?).toList
  if s.issueNo % 128 = 0 then pick (s.unpromoted.map Instr.waitCountPromotion)
  else if s.issueNo % 128 = 64 then pick s.timeEvents
  else []

/-- A step with no turn named: an event of the machine's own that is due; or else issue selection; or else, where no thread
is left to issue, an event of time. -/
def ownTurn (s : State) : Host.Outcome State Fault Refusal :=
  match firstEvent (s.timeDue ++ s.dueEvents ++ s.yieldsDue) s with
  | some o => o
  | none =>
    match firstTurn (s.coreOrder.flatMap s.coreCandidates) s with
    | .next s' => if s' = s then (firstEvent s.timeEvents s).getD (.next s) else .next s'
    | o => o

end Sys2Proof.Machine
end

