-- ==== Sys2Proof/Machine/Step.lean ====
section
/-!
DEFINITION. One step of the machine: the turn the schedule names, or the turn the machine takes of itself
(spec/12_threads_groups.md R221 to R223; spec/22_traps_restart.md R340); and the state with one instruction placed where
the next step fetches it.
-/

namespace Sys2Proof.Machine

/-- One step. -/
def step (s : State) : Host.Outcome State Fault Refusal :=
  let s := s.tickCycle
  match s.agenda with
  | .issue r :: rest => runTurn r { s with agenda := rest }
  | .event e :: rest => exec e { s with agenda := rest }
  | [] => ownTurn s

/-- The state with an instruction where the next step fetches: its line in HBM, a thread that stands at it, and the
turn of that thread. The table's words are 96-bit instruction words. -/
def State.withFetchWord (s : State) (nbits w : Nat) : State :=
  let v := w % 2 ^ nbits
  { s with cores := s.cores.modify 0 (placedCore v), tlb := [], therm := false, extest := false
           mem := (placedTables s.mem).write placedLine (placedBytes v), agenda := [.issue (placedThread v)] }

end Sys2Proof.Machine
end

