-- ==== Sys2Proof/Machine/Golmen.lean ====
section
/-!
DEFINITION. golmen's statements (spec/03_assembly.md R44 to R50): a line of Emben source as a label, a directive's words,
or the fields of one instruction with what its IMM still needs. None stands for golmen's rejection of a line
(notes/assumptions/100.md).
-/

namespace Sys2Proof.Machine.Golmen

/-! ## Characters -/

def isLower (c : Char) : Bool := 'a' ≤ c && c ≤ 'z'

def isDigit (c : Char) : Bool := '0' ≤ c && c ≤ '9'

/-- A character a name begins with (R44). -/
def nameStart (c : Char) : Bool := isLower c || ('A' ≤ c && c ≤ 'Z') || c == '_'

def nameChar (c : Char) : Bool := nameStart c || isDigit c

def isBlank (c : Char) : Bool := c == ' ' || c == '\t' || c == '\r'

/-- The pieces of a text between the characters of a kind. -/
def splitAt (p : Char → Bool) : List Char → List (List Char)
  | [] => [[]]
  | c :: cs =>
    match splitAt p cs with
    | [] => [[c]]
    | x :: xs => if p c then [] :: x :: xs else (c :: x) :: xs

/-- A text without the blanks at its ends. -/
def trim (cs : List Char) : List Char := ((cs.dropWhile isBlank).reverse.dropWhile isBlank).reverse

/-- A line without its comment (R44). -/
def stripComment : List Char → List Char
  | '/' :: '/' :: _ => []
  | c :: cs => c :: stripComment cs
  | [] => []

/-! ## Numbers and expressions (R47) -/

def hexDigit? (c : Char) : Option Nat :=
  if isDigit c then some (c.toNat - 48)
  else if 'a' ≤ c && c ≤ 'f' then some (c.toNat - 87)
  else if 'A' ≤ c && c ≤ 'F' then some (c.toNat - 55)
  else none

/-- The number of digits in a base, the most significant first. -/
def digits? (base : Nat) (cs : List Char) : Option Nat :=
  if cs.isEmpty then none
  else cs.foldl (fun n c => n.bind fun n => (hexDigit? c).bind fun d => if d < base then some (n * base + d) else none)
    (some 0)

def natOf? : List Char → Option Nat
  | '0' :: 'x' :: cs => digits? 16 (cs.filter (· != '_'))
  | '0' :: 'b' :: cs => digits? 2 cs
  | cs => digits? 10 cs

def intOf? : List Char → Option Int
  | '-' :: cs => (digits? 10 cs).map fun n => -(n : Int)
  | cs => (natOf? cs).map fun n => (n : Int)

/-- m · 10^e: exact where it is a binary fraction, else with far more bits than any format keeps and a sticky bit. -/
def decimal (neg : Bool) (m : Nat) (e : Int) : XVal :=
  let n := (-e).toNat
  if 0 ≤ e then XVal.ofDyadic neg (m * 10 ^ e.toNat) 0
  else if m % 5 ^ n = 0 then XVal.ofDyadic neg (m / 5 ^ n) e
  else
    let k := 4 * n + 64
    .fin neg (m * 2 ^ k / 5 ^ n) (e - k) true

/-- The number after `e` of a float literal. -/
def exponent? : List Char → Option Int
  | '-' :: cs => (digits? 10 cs).map fun n => -(n : Int)
  | '+' :: cs => (digits? 10 cs).map fun n => (n : Int)
  | cs => (digits? 10 cs).map fun n => (n : Int)

/-- A float literal as its sign, digits and power of ten; a decimal point or an exponent makes it one. -/
def floatDigits? (cs : List Char) : Option (Nat × Int) :=
  match splitAt (fun c => c == 'e') cs with
  | [x] =>
    match splitAt (· == '.') x with
    | [a, b] => (digits? 10 (a ++ b)).map fun n => (n, -(b.length : Int))
    | _ => none
  | [x, y] => (exponent? y).bind fun e =>
    match splitAt (· == '.') x with
    | [a] => (digits? 10 a).map fun n => (n, e)
    | [a, b] => (digits? 10 (a ++ b)).map fun n => (n, e - b.length)
    | _ => none
  | _ => none

/-- A float literal. -/
def float? (cs : List Char) : Option XVal :=
  let (neg, cs) := match cs with
    | '-' :: cs => (true, cs)
    | cs => (false, cs)
  if cs == "inf".toList then some (.inf neg)
  else if cs == "nan".toList && !neg then some .nan
  else if !cs.head?.any isDigit then none
  else (floatDigits? cs).map fun (m, e) => decimal neg m e

/-- A label with what is added to its address. -/
structure Ref where
  label : String
  plus  : Int
  deriving DecidableEq, Repr

def label? (cs : List Char) : Option String :=
  if cs.head?.any nameStart && cs.all nameChar && cs.length ≤ 63 then some (String.ofList cs) else none

/-- `label`, `label+c`, `label-c`. -/
def ref? (cs : List Char) : Option Ref :=
  let name := cs.takeWhile nameChar
  (label? name).bind fun label =>
    match cs.drop name.length with
    | [] => some { label, plus := 0 }
    | '+' :: n => (natOf? n).map fun n => { label, plus := n }
    | '-' :: n => (natOf? n).map fun n => { label, plus := -(n : Int) }
    | _ => none

/-- A value written in a source. -/
inductive Val where
  | num (n : Int)
  | float (x : XVal)
  | addr (r : Ref)
  | lo32 (r : Ref)
  | hi32 (r : Ref)
  deriving DecidableEq, Repr

/-- A sum of numbers, `n+c` or `n-c` and on: the form R46 calls a character-free expression (notes/assumptions/107.md).
`acc` is what stands to the left, `neg` whether a minus follows it. -/
def sumOf? (fuel : Nat) (acc : Int) (neg : Bool) (cs : List Char) : Option Int :=
  match fuel with
  | 0 => none
  | fuel + 1 =>
    let part := cs.takeWhile fun c => c != '+' && c != '-'
    (natOf? (trim part)).bind fun n =>
      let v := if neg then acc - n else acc + n
      match cs.drop part.length with
      | '+' :: rest => sumOf? fuel v false rest
      | '-' :: rest => sumOf? fuel v true rest
      | _ => some v

/-- A number, or a sum of numbers whose first may be negative. -/
def intExpr? (cs : List Char) : Option Int :=
  match intOf? cs with
  | some n => some n
  | none =>
    match cs with
    | '-' :: r => if r.head?.any isDigit && !(['0', 'x'].isPrefixOf r || ['0', 'b'].isPrefixOf r)
        then sumOf? (r.length + 1) 0 true r else none
    | _ => if cs.head?.any isDigit then sumOf? (cs.length + 1) 0 false cs else none

/-- The text between `f(` and `)`. -/
def within (f : String) (cs : List Char) : Option (List Char) :=
  let head := f.toList ++ ['(']
  if head.isPrefixOf cs && cs.getLast? == some ')' then some (trim ((cs.drop head.length).dropLast)) else none

def val? (cs : List Char) : Option Val :=
  match float? cs, intExpr? cs with
  | some x, _ => some (.float x)
  | none, some n => some (.num n)
  | none, none =>
    match within "lo32" cs, within "hi32" cs with
    | some e, _ => (ref? e).map .lo32
    | none, some e => (ref? e).map .hi32
    | none, none => (ref? cs).map .addr

/-- The 32-bit IMM of a number of a type, where it fits. -/
def immNum? (ty : Ty) (n : Int) : Option Word :=
  match ty with
  | .i64 => if -2 ^ 31 ≤ n && n < 2 ^ 31 then some (BitVec.ofInt 32 n) else none
  | .n64 => if 0 ≤ n && n < 2 ^ 32 then some (BitVec.ofInt 32 n) else none
  | ty => if -2 ^ (ty.width - 1) ≤ n && n < 2 ^ ty.width then some ((BitVec.ofInt ty.width n).zeroExtend 32) else none

/-- The encoding of a number in a float format, where it is exact there. -/
def exact? (f : Format) (x : XVal) : Option Nat :=
  let code := (f.round x .rne false).1
  let y := (f.val code).1
  let cut := match x with
    | .fin _ _ _ sticky => sticky
    | _ => false
  if !cut && (y.isNan && x.isNan || y.eqv x) then some code else none

/-- The integer that an exact value is. -/
def intOfX? : XVal → Option Int
  | .zero _ => some 0
  | .fin neg m e false =>
    let n := (-e).toNat
    if m % 2 ^ n = 0 then some ((if neg then -1 else 1) * (m * 2 ^ e.toNat / 2 ^ n : Nat)) else none
  | _ => none

/-- The IMM of a float literal of a type, where it is exact there: in the low bits, and in both halves for a packed type.
`b32` is no number's type (notes/assumptions/107.md). -/
def immFloat? (ty : Ty) (x : XVal) : Option Word :=
  match ty with
  | .f32 | .f16 | .bf16 | .ta8 | .ta6 => (exact? ty.format x).map (BitVec.ofNat 32)
  | .f16x2 | .bf16x2 => (exact? ty.format x).map fun c => BitVec.ofNat 32 (c * 2 ^ 16 + c)
  | .b32 => none
  | _ => (intOfX? x).bind (immNum? ty)

/-! ## Suffixes (R49) -/

/-- The classes of suffixes, each a field. -/
inductive Cls where
  | ty | sty | aty | fmt | rm | drm | sat | dsat | size | ord | scope | feqLd | feqSt | swz | cpSwz | cpFill | dig
  | ks | qt | cru | ofmt | fill | zs | rsp | tlbk | dir | minor | excl
  deriving DecidableEq, Repr

def tyTokens : List (String × Nat) :=
  [("i32", 0), ("n32", 1), ("i64", 2), ("n64", 3), ("i16", 4), ("n16", 5), ("i8", 6), ("n8", 7), ("f32", 8), ("f16", 9),
    ("bf16", 10), ("f16x2", 11), ("bf16x2", 12), ("ta8", 13), ("ta6", 14), ("b32", 15)]

def rmTokens : List (String × Nat) := [("rne", 1), ("rtz", 2), ("rdn", 3), ("rup", 4), ("rna", 5)]

def swzTokens : List (String × Nat) :=
  [("swz1", 1), ("swz2", 2), ("swz3", 3), ("swz4", 4), ("swz5", 5), ("swz6", 6), ("swz7", 7)]

/-- The tokens of a class with their codes; those of `minor` are the root's own. -/
def Cls.tokens : Cls → List (String × Nat)
  | .ty | .sty | .aty => tyTokens
  | .fmt => [("bf16", 0), ("f16", 1), ("ta8", 2), ("ta6", 3)]
  | .rm | .drm => rmTokens
  | .sat | .dsat => [("sat", 1)]
  | .size => [("b8", 0), ("b16", 1), ("b32", 2), ("b64", 3), ("b128", 4)]
  | .ord => [("acq", 1), ("rel", 2), ("ar", 3)]
  | .scope => [("thr", 0), ("task", 1), ("core", 2), ("clu", 3), ("dev", 4), ("dom", 5), ("sys", 6)]
  | .feqLd => [("wait", 1), ("take", 2), ("peek", 3)]
  | .feqSt => [("fill", 4), ("fillw", 5)]
  | .swz | .cpSwz => swzTokens
  | .cpFill | .fill => [("fill", 1)]
  | .dig => [("dig", 1)]
  | .ks => [("k16", 0), ("k32", 1), ("k64", 2)]
  | .qt => [("qt", 1)]
  | .cru => [("c0", 0), ("c1", 1)]
  | .ofmt => [("of32", 0), ("obf16", 1), ("of16", 2)]
  | .zs => [("zs", 1)]
  | .rsp => [("rsp", 1)]
  | .tlbk => [("all", 0), ("asid", 1), ("asidva", 2), ("va", 3)]
  | .dir => [("todev", 0), ("tohost", 1)]
  | .minor => []
  | .excl => [("excl", 1)]

/-- Where a class's code goes: MIN or MOD, and its lowest bit. -/
def Cls.place : Cls → Bool × Nat
  | .aty | .minor => (true, 0)
  | .excl => (true, 3)
  | .ty | .size | .cru | .rsp | .tlbk | .dir => (false, 0)
  | .fmt => (false, 1)
  | .rm | .cpFill | .ks => (false, 4)
  | .scope | .dig => (false, 5)
  | .cpSwz | .qt => (false, 6)
  | .sat | .ofmt => (false, 7)
  | .ord => (false, 8)
  | .sty | .drm => (false, 9)
  | .swz => (false, 10)
  | .dsat => (false, 12)
  | .feqLd | .feqSt | .fill => (false, 13)
  | .zs => (false, 14)

/-- A code put into the fields of a word. -/
def Cls.put (c : Cls) (code : Nat) (f : Fields) : Fields :=
  let (inMin, lo) := c.place
  if inMin then { f with min := f.min ||| BitVec.ofNat 9 (code * 2 ^ lo) }
  else { f with mod := f.mod ||| BitVec.ofNat 16 (code * 2 ^ lo) }

/-! ## Roots -/

/-- How many registers a register operand stands for. -/
inductive Wid where
  | one | pair | ty | sty | aty | size | creg
  deriving DecidableEq, Repr

/-- An operand's place in the word (R46, R48). -/
inductive Opd where
  | d (w : Wid) | qd | a (w : Wid) | qa | b (w : Wid) | c (w : Wid) | qc
  /-- Source B, or an immediate of TYPE in its place; `bShift`: one register or a 32-bit count. -/
  | bImm | bShift
  | mem | gmem
  /-- A Crucible operand with OFF (R121), and the second one of `qtile` in SB. -/
  | cmem | cmemB
  /-- The operands of `cp` (R193). -/
  | cpDst | cpSrc
  /-- `n` bits of IMM from `lo` on, and a signed 32-bit IMM. -/
  | imm (lo n : Nat) | off | immTy
  | target | creg
  deriving DecidableEq, Repr

/-- One assembly form of a root. -/
structure Root where
  name   : String
  maj    : Nat
  ops    : List Opd
  /-- The classes of its suffixes; a class before another takes a token both have. -/
  cls    : List Cls := []
  /-- Its own tokens, with MIN. -/
  minors : List (String × Nat) := []
  /-- Classes whose token may not be left out. -/
  must   : List Cls := []
  /-- Codes of classes left out (R50). -/
  dflt   : List (Cls × Nat) := []
  /-- Tokens without which this form is not the one meant. -/
  only   : List (Cls × Nat) := []
  /-- MIN and MOD bits of the form itself. -/
  min    : Nat := 0
  mod    : Nat := 0
  deriving DecidableEq, Repr

def i3 (name : String) (maj : Nat) (cls : List Cls) : Root :=
  { name, maj, ops := [.d .ty, .a .ty, .bImm], cls := .ty :: cls }

def i2 (name : String) (maj : Nat) (cls : List Cls) : Root := { name, maj, ops := [.d .ty, .a .ty], cls := .ty :: cls }

def f3 (name : String) (maj : Nat) (cls : List Cls) : Root := { i3 name maj cls with dflt := [(.ty, 8)] }

def f2 (name : String) (maj : Nat) (cls : List Cls) : Root := { i2 name maj cls with dflt := [(.ty, 8)] }

def sh (name : String) (maj : Nat) : Root := { name, maj, ops := [.d .ty, .a .ty, .bShift], cls := [.ty] }

def cond : List (String × Nat) := [("eq", 0), ("ne", 1), ("lt", 2), ("le", 3), ("gt", 4), ("ge", 5)]

/-- Integer and address roots (R84 to R93). -/
def rootsInt : List Root :=
  [{ name := "nop", maj := 0, ops := [] }, i3 "iadd" 0x01 [.sat], i3 "isub" 0x02 [.sat], i3 "imul" 0x03 [.sat],
    i3 "imulh" 0x04 [], { i3 "imad" 0x05 [.sat] with ops := [.d .ty, .a .ty, .bImm, .c .ty] }, i3 "idiv" 0x06 [],
    i3 "irem" 0x07 [], i3 "imin" 0x08 [], i3 "imax" 0x09 [], i2 "iabs" 0x0A [.sat], i2 "ineg" 0x0B [.sat],
    i3 "and" 0x0C [], i3 "or" 0x0D [], i3 "xor" 0x0E [], i2 "not" 0x0F [], sh "shl" 0x10, sh "shr" 0x11, sh "sra" 0x12,
    sh "rot" 0x13] ++
  [{ i2 "popc" 0x14 [] with ops := [.d .one, .a .ty] }, { i2 "clz" 0x15 [] with ops := [.d .one, .a .ty] },
    { i2 "ctz" 0x16 [] with ops := [.d .one, .a .ty] }, i2 "brev" 0x17 [], sh "bfx" 0x18,
    { i3 "bfi" 0x19 [] with ops := [.d .ty, .a .ty, .bImm, .c .one] },
    { i3 "icmp" 0x1A [.minor] with ops := [.qd, .a .ty, .bImm], minors := cond, must := [.minor] },
    { i3 "sel" 0x1B [] with ops := [.d .ty, .a .ty, .bImm, .qc] }, i3 "sel" 0x1B [], i2 "mov" 0x1C [],
    { name := "movi", maj := 0x1D, ops := [.d .ty, .immTy], cls := [.ty] },
    { name := "lea", maj := 0x1E, ops := [.d .pair, .a .pair, .b .one, .off], cls := [.ty, .minor]
      minors := [("s0", 0), ("s1", 1), ("s2", 2), ("s3", 3), ("s4", 4), ("s5", 5), ("s6", 6), ("s7", 7)] }]

/-- Float and conversion roots (R94 to R106). -/
def rootsFloat : List Root :=
  [f3 "fadd" 0x20 [.rm, .sat], f3 "fsub" 0x21 [.rm, .sat], f3 "fmul" 0x22 [.rm, .sat],
    { f3 "fma" 0x23 [.rm, .sat] with ops := [.d .ty, .a .ty, .bImm, .c .ty] }, f3 "fmin" 0x24 [], f3 "fmax" 0x25 [],
    f2 "fabs" 0x26 [], f2 "fneg" 0x27 [],
    { f3 "fcmp" 0x28 [.minor] with ops := [.qd, .a .ty, .bImm], minors := cond ++ [("un", 6)] }, f2 "fclass" 0x29 [],
    f2 "fsqrt" 0x2A [.rm, .sat], f2 "frcp" 0x2B [.rm, .sat], f3 "fdiv" 0x2C [.rm, .sat], f2 "frsq" 0x2D [.rm, .sat],
    f2 "fexp2" 0x2E [.rm, .sat], f2 "flog2" 0x2F [.rm, .sat], f2 "fsinpi" 0x30 [.rm, .sat],
    f2 "fcospi" 0x31 [.rm, .sat]] ++
  [f3 "fscale" 0x32 [.rm, .sat], f2 "fexpo" 0x33 [], { f2 "fround" 0x34 [.rm, .minor] with minors := [("exact", 1)] },
    { name := "cvt", maj := 0x38, ops := [.d .ty, .a .sty], cls := [.ty, .sty, .rm, .sat], must := [.ty, .sty] },
    { name := "pack", maj := 0x39, ops := [.d .one, .a .one, .b .one], cls := [.ty, .rm, .sat], must := [.ty] },
    { name := "unpack", maj := 0x3A, ops := [.d .pair, .a .one], cls := [.ty], must := [.ty] }]

def redTokens : List (String × Nat) := [("add", 0), ("min", 1), ("max", 2), ("and", 3), ("or", 4), ("xor", 5)]

/-- Cross-lane roots (R257 to R265). -/
def rootsXlane : List Root :=
  [{ name := "setw", maj := 0x40, ops := [.imm 0 32] },
    { name := "shfl", maj := 0x41, ops := [.d .ty, .a .ty, .bShift], cls := [.ty, .minor], dflt := [(.ty, 15)]
      minors := [("idx", 0), ("up", 1), ("down", 2), ("xor", 3)] },
    { name := "vote", maj := 0x42, ops := [.qd, .qa], cls := [.ty, .minor], dflt := [(.ty, 15)]
      minors := [("all", 0), ("any", 1), ("uni", 2)] },
    { name := "vote", maj := 0x42, ops := [.d .one, .qa, .imm 0 2], cls := [.ty, .minor], dflt := [(.ty, 15)]
      minors := [("ballot", 3)], must := [.minor] },
    { name := "redux", maj := 0x43, ops := [.d .ty, .a .ty], cls := [.ty, .rm, .minor], minors := redTokens },
    { name := "scanx", maj := 0x44, ops := [.d .ty, .a .ty], cls := [.ty, .rm, .minor, .excl], minors := redTokens },
    { name := "bcast", maj := 0x45, ops := [.d .ty, .a .ty], cls := [.ty, .minor], dflt := [(.ty, 15)]
      minors := [("first", 0), ("last", 1)] },
    { name := "match", maj := 0x46, ops := [.d .one, .a .ty], cls := [.ty, .minor], dflt := [(.ty, 15)]
      minors := [("first", 0), ("count", 1)] },
    { name := "lanes", maj := 0x47, ops := [.d .one], cls := [.ty, .minor], dflt := [(.ty, 1)]
      minors := [("pos", 0), ("count", 1), ("rank", 2), ("grant", 3)] }]

/-- A MIN of `atom` and `red` holds the operation above TYPE (R173, R187). -/
def atomTokens (l : List (String × Nat)) : List (String × Nat) := l.map fun (s, k) => (s, 16 * k)

/-- Memory roots and atomics (R173, R174, R187). -/
def rootsMem : List Root :=
  let ldCls : List Cls := [.minor, .size, .ord, .scope, .feqLd, .swz]
  [{ name := "ld", maj := 0x48, ops := [.d .size, .mem], cls := ldCls, minors := [("sx", 1)], dflt := [(.size, 2)] },
    { name := "ld", maj := 0x48, ops := [.d .size, .mem, .qc], cls := ldCls, minors := [("sx", 1)]
      dflt := [(.size, 2)], only := [(.feqLd, 3)] },
    { name := "st", maj := 0x49, ops := [.mem, .b .size], cls := [.size, .ord, .scope, .feqSt, .swz]
      dflt := [(.size, 2)] },
    { name := "pf", maj := 0x4A, ops := [.gmem], cls := [.minor], minors := [("l1", 0), ("l1w", 1), ("l2", 2)] },
    { name := "fence", maj := 0x4B, ops := [], cls := [.ord, .scope] },
    { name := "ifence", maj := 0x4C, ops := [], cls := [.scope] },
    { name := "cflush", maj := 0x4D, ops := [.gmem], cls := [.minor], minors := [("wb", 0), ("inv", 1), ("mem", 2)] },
    { name := "lsub", maj := 0x4E, ops := [.qd, .gmem] }, { name := "lunsub", maj := 0x4F, ops := [.gmem] },
    { name := "atom", maj := 0x50, ops := [.d .aty, .mem, .b .aty], cls := [.minor, .aty, .size, .ord, .scope, .swz]
      minors := atomTokens (redTokens ++ [("exch", 6)]) },
    { name := "cas", maj := 0x51, ops := [.d .aty, .mem, .b .aty, .c .aty], cls := [.aty, .size, .ord, .scope, .swz] },
    { name := "red", maj := 0x52, ops := [.mem, .b .aty], cls := [.minor, .aty, .size, .ord, .scope, .swz]
      minors := atomTokens redTokens }]

/-- Synchronisation, Ladle and collective roots (R193, R200 to R205, R271). -/
def rootsSync : List Root :=
  [{ name := "barinit", maj := 0x58, ops := [.mem, .b .one], cls := [.size, .scope, .swz], dflt := [(.size, 3)] },
    { name := "arrive", maj := 0x59, ops := [.d .one, .mem], cls := [.size, .scope, .swz], dflt := [(.size, 3)] },
    { name := "barwait", maj := 0x5A, ops := [.mem, .b .one], cls := [.size, .scope, .swz], dflt := [(.size, 3)] },
    { name := "dqinit", maj := 0x5B, ops := [.gmem, .b .pair, .c .one], cls := [.size, .scope] },
    { name := "dqpush", maj := 0x5C, ops := [.qd, .gmem, .b .pair], cls := [.size, .scope] },
    { name := "dqpop", maj := 0x5D, ops := [.d .pair, .gmem, .qc], cls := [.size, .scope] },
    { name := "dqsteal", maj := 0x5E, ops := [.d .pair, .gmem, .qc], cls := [.size, .scope] },
    { name := "waitaddr", maj := 0x5F, ops := [.d .one, .mem, .b .size, .c .one], cls := [.size, .ord, .scope, .swz]
      dflt := [(.size, 2)] },
    { name := "cp", maj := 0x60, ops := [.d .one, .cpDst, .cpSrc, .c .one], cls := [.cpFill, .dig, .cpSwz] },
    { name := "cpq", maj := 0x61, ops := [.d .one, .a .one] }, { name := "cpwait", maj := 0x62, ops := [.a .one] },
    { name := "coll", maj := 0x63, ops := [.gmem] }, { name := "collwait", maj := 0x64, ops := [.gmem] }]

/-- Crucible roots (R122). -/
def rootsCru : List Root :=
  [{ name := "mload", maj := 0x68, ops := [.cmem, .imm 0 8], cls := [.fmt, .ks, .qt, .cru], must := [.fmt, .ks] },
    { name := "mflip", maj := 0x69, ops := [], cls := [.cru] },
    { name := "mbegin", maj := 0x6A, ops := [.imm 0 8], cls := [.fmt, .cru], must := [.fmt] },
    { name := "mstream", maj := 0x6B, ops := [.cmem, .imm 0 8], cls := [.fmt, .ks, .qt, .cru], must := [.fmt, .ks] },
    { name := "mend", maj := 0x6C, ops := [], cls := [.cru] }, { name := "mzero", maj := 0x6D, ops := [.imm 0 8] },
    { name := "minit", maj := 0x6E, ops := [.imm 0 8, .cmem] },
    { name := "mdrain", maj := 0x6F, ops := [.imm 0 8, .cmem], cls := [.ofmt, .drm, .dsat, .fill], must := [.ofmt] },
    { name := "mscale", maj := 0x70, ops := [.imm 0 8, .imm 8 8, .cmem, .b .one], cls := [.zs] },
    { name := "mstat", maj := 0x71, ops := [.d .one, .imm 0 8] },
    { name := "qtile", maj := 0x72, ops := [.cmem, .cmemB], cls := [.fmt, .ks, .fill], must := [.fmt, .ks] }]

/-- Allowance, control and trap-raising roots (R249, R282, R343, R347). -/
def rootsCtl : List Root :=
  [{ name := "alw", maj := 0x74, ops := [.d .one, .a .one], cls := [.rsp] },
    { name := "alwq", maj := 0x75, ops := [.qd, .a .one, .imm 0 24], cls := [.rsp] },
    { name := "alwwait", maj := 0x76, ops := [.a .one, .imm 0 24], cls := [.rsp] },
    { name := "bra", maj := 0x78, ops := [.target] }, { name := "brx", maj := 0x79, ops := [.a .pair] },
    { name := "call", maj := 0x7A, ops := [.target] },
    { name := "call", maj := 0x7A, ops := [.a .pair], cls := [.minor], minors := [("r", 1)], must := [.minor] },
    { name := "ret", maj := 0x7B, ops := [] },
    { name := "join", maj := 0x7C, ops := [], cls := [.minor], minors := [("seg", 0), ("task", 1)] },
    { name := "join", maj := 0x7C, ops := [.a .one, .imm 0 10], cls := [.minor], minors := [("m", 2)], must := [.minor] },
    { name := "exit", maj := 0x7D, ops := [] }, { name := "yield", maj := 0x7E, ops := [] },
    { name := "launch", maj := 0x7F, ops := [.gmem] }, { name := "ctlrd", maj := 0x80, ops := [.d .creg, .creg] },
    { name := "ctlwr", maj := 0x81, ops := [.creg, .a .creg] },
    { name := "ctlwr", maj := 0x81, ops := [.creg, .imm 12 20], min := 1 },
    { name := "sys", maj := 0x84, ops := [.imm 0 16] }, { name := "brk", maj := 0x85, ops := [.imm 0 8] },
    { name := "trap", maj := 0x86, ops := [.imm 0 8, .a .one] },
    { name := "trap", maj := 0x86, ops := [], cls := [.minor], minors := [("sret", 1)], must := [.minor] }]

/-- Privileged roots (R315). -/
def rootsPriv : List Root :=
  [{ name := "rfe", maj := 0x88, ops := [] }, { name := "tlbinv", maj := 0x89, ops := [], cls := [.tlbk], only := [(.tlbk, 0)] },
    { name := "tlbinv", maj := 0x89, ops := [.b .one], cls := [.tlbk], only := [(.tlbk, 1)] },
    { name := "tlbinv", maj := 0x89, ops := [.a .pair, .b .one], cls := [.tlbk], only := [(.tlbk, 2)] },
    { name := "tlbinv", maj := 0x89, ops := [.a .pair], cls := [.tlbk], only := [(.tlbk, 3)] },
    { name := "ctxsave", maj := 0x8A, ops := [.d .one, .a .pair, .b .one] },
    { name := "ctxload", maj := 0x8B, ops := [.d .pair, .a .pair] },
    { name := "kload", maj := 0x8C, ops := [.d .one, .a .one] }, { name := "kclr", maj := 0x8D, ops := [.d .one, .a .one] },
    { name := "riserpop", maj := 0x8E, ops := [.d .one, .a .pair] },
    { name := "resume", maj := 0x8F, ops := [.d .one, .a .one], cls := [.minor], minors := [("retry", 0), ("skip", 1)] },
    { name := "resume", maj := 0x8F, ops := [.d .one, .a .one, .b .pair], cls := [.minor], minors := [("sys", 2)]
      must := [.minor] },
    { name := "resume", maj := 0x8F, ops := [.d .one, .a .one, .b .one, .imm 0 6], cls := [.minor]
      minors := [("setv", 3)], must := [.minor] },
    { name := "sigpost", maj := 0x90, ops := [.d .one, .a .one, .b .one] },
    { name := "planset", maj := 0x91, ops := [.d .one, .a .pair] }, { name := "plancommit", maj := 0x92, ops := [.d .one] },
    { name := "biasset", maj := 0x93, ops := [.d .one, .a .one], cls := [.dir] }, { name := "halt", maj := 0x94, ops := [] }]

def roots : List Root :=
  rootsInt ++ rootsFloat ++ rootsXlane ++ rootsMem ++ rootsSync ++ rootsCru ++ rootsCtl ++ rootsPriv

/-- The control registers by name (R256, R314). -/
def cregs : List (String × Nat) :=
  [("FPCTL", 0x001), ("GRANT", 0x002), ("SEGW", 0x003), ("LANE", 0x004), ("TIDX", 0x005), ("TCNT", 0x006),
    ("COORD0", 0x008), ("COORD1", 0x009), ("COORD2", 0x00A), ("LAUNCH", 0x00B), ("CORE", 0x00C), ("DEV", 0x00D),
    ("CYCLE", 0x010), ("WPADDR0", 0x020), ("WPCTL0", 0x021), ("WPADDR1", 0x022), ("WPCTL1", 0x023), ("FEAT", 0x040)] ++
  [("MODE", 0x800), ("ASID", 0x801), ("KSLOT", 0x802), ("PTROOT", 0x803), ("FOREBASE", 0x804), ("CALLRING", 0x805),
    ("SIGVEC", 0x806), ("RISERHEAD", 0x807), ("RISERCNT", 0x808), ("SHELLCTR", 0x809), ("HEALTH", 0x80A),
    ("PLANSTAT", 0x80B)]

/-- Registers of 64 bits (R256, R314). -/
def wideCregs : List Nat := [0x010, 0x020, 0x022, 0x800, 0x803, 0x804, 0x805, 0x806, 0x807, 0x809, 0x80A, 0x80B]

/-! ## Operands (R46, R48) -/

/-- What the IMM of an instruction still needs when labels have their places. -/
inductive Patch where
  | none
  | target (r : Ref)
  | lo (r : Ref)
  | hi (r : Ref)
  deriving DecidableEq, Repr

/-- A number with one spelling: decimal digits without a leading zero. -/
def plainNat? (cs : List Char) : Option Nat := if cs.length > 1 && cs.head? == some '0' then none else digits? 10 cs

/-- `v0` to `v63`. -/
def vreg? : List Char → Option Nat
  | 'v' :: cs => (plainNat? cs).bind fun n => if n < 64 then some n else none
  | _ => none

/-- `q0` to `q7`. -/
def qreg? : List Char → Option Nat
  | 'q' :: cs => (plainNat? cs).bind fun n => if n < 8 then some n else none
  | _ => none

/-- A register operand of `n` registers: the first, and whether `.t` follows. -/
def regOf? (n : Nat) (cs : List Char) : Option (Nat × Bool) :=
  let (trap, cs) := match cs.reverse with
    | 't' :: '.' :: r => (true, r.reverse)
    | _ => (false, cs)
  match splitAt (· == ':') cs with
  | [x] => (vreg? x).map fun k => (k, trap)
  | [x, y] => (vreg? x).bind fun k => (vreg? y).bind fun m => if 1 < n && m = k + n - 1 then some (k, trap) else none
  | _ => none

/-- The registers an operand stands for, from the fields of the suffixes. -/
def Wid.regs (w : Wid) (f : Fields) : Nat :=
  match w with
  | .one => 1
  | .pair => 2
  | .ty => if (Ty.ofCode f.ty).is64 then 2 else 1
  | .sty => if (Ty.ofCode f.sty).is64 then 2 else 1
  | .aty => if (Ty.ofCode (f.min.extractLsb' 0 4)).is64 then 2 else 1
  | .size => if f.size == 3 then 2 else if f.size == 4 then 4 else 1
  | .creg => if wideCregs.contains (f.imm.extractLsb' 0 12).toNat then 2 else 1

/-- The base and the offset of a memory operand: `x:[vn+c]` with its space, the peer number in it. -/
def memOf? (cs : List Char) : Option (List Char × (Nat × Bool) × Int) :=
  match splitAt (· == '[') cs with
  | [sp, rest] =>
    if rest.getLast? != some ']' then none
    else
      let body := rest.dropLast
      let base := trim (body.takeWhile fun c => c != '+' && c != '-')
      let wide := sp == "g:".toList
      (regOf? (if wide then 2 else 1) base).bind fun r =>
        match trim (body.dropWhile fun c => c != '+' && c != '-') with
        | [] => some (sp, r, 0)
        | '+' :: n => (natOf? (trim n)).map fun n => (sp, r, (n : Int))
        | '-' :: n => (natOf? (trim n)).map fun n => (sp, r, -(n : Int))
        | _ => none
  | _ => none

/-- SPACE and the peer number of an operand's prefix. -/
def spaceOf? (sp : List Char) : Option (Nat × Nat) :=
  if sp == "g:".toList then some (0, 0)
  else if sp == "s:".toList then some (1, 0)
  else match sp with
    | 'p' :: r => if r.getLast? == some ':' then (plainNat? r.dropLast).bind fun k => if k < 16 then some (2, k) else none
      else none
    | _ => none

def Fields.orImm (f : Fields) (lo n : Nat) : Fields := { f with imm := f.imm ||| BitVec.ofNat 32 (n * 2 ^ lo) }

def Fields.putA (f : Fields) (r : Nat × Bool) : Fields := { f with sa := BitVec.ofNat 6 r.1, fa := bit1 r.2 }
def Fields.putB (f : Fields) (r : Nat × Bool) : Fields := { f with sb := BitVec.ofNat 6 r.1, fb := bit1 r.2 }
def Fields.putC (f : Fields) (r : Nat × Bool) : Fields := { f with sc := BitVec.ofNat 6 r.1, fc := bit1 r.2 }

/-- A value as IMM of a type (R47). The halves of an address are 32-bit values, which no narrower field holds; for a whole
address R55 has no relocation of an IMM, and it is refused (notes/assumptions/107.md). -/
def immVal? (ty : Ty) (f : Fields) (v : Val) : Option (Fields × Patch) :=
  match v with
  | .num n => (immNum? ty n).map fun x => ({ f with imm := x }, .none)
  | .float x => (immFloat? ty x).map fun x => ({ f with imm := x }, .none)
  | .lo32 r => if ty.width < 32 then none else some (f, .lo r)
  | .hi32 r => if ty.width < 32 then none else some (f, .hi r)
  | .addr _ => none

/-- Source B as a register of `n` registers, or as an immediate of a type. -/
def srcBOf? (n : Nat) (ty : Ty) (f : Fields) (cs : List Char) : Option (Fields × Patch) :=
  match regOf? n cs with
  | some r => some (Fields.putB f r, .none)
  | none => (val? cs).bind (immVal? ty (Cls.put .ty 0x100 f))

/-- An operand of `cp`: a side's space, base and offset in units of 16 bytes (R193). -/
def cpSide? (cs : List Char) : Option (Nat × (Nat × Bool) × Nat) :=
  (memOf? cs).bind fun (sp, r, c) => (spaceOf? sp).bind fun (space, k) =>
    if k = 0 && c % 16 = 0 && -524288 ≤ c && c ≤ 524272 then some (space, r, (c / 16 % 65536).toNat) else none

/-- One operand put into the fields. -/
def operand? (f : Fields) (o : Opd) (cs : List Char) : Option (Fields × Patch) :=
  let plain (f : Fields) : Option (Fields × Patch) := some (f, .none)
  match o with
  | .d w => (regOf? (w.regs f) cs).bind fun r => if r.2 then none else plain { f with dst := BitVec.ofNat 6 r.1 }
  | .qd => (qreg? cs).bind fun k => plain { f with dst := BitVec.ofNat 6 k }
  | .a w => (regOf? (w.regs f) cs).bind fun r => plain (Fields.putA f r)
  | .qa => (qreg? cs).bind fun k => plain { f with sa := BitVec.ofNat 6 k }
  | .b w => (regOf? (w.regs f) cs).bind fun r => plain (Fields.putB f r)
  | .c w => (regOf? (w.regs f) cs).bind fun r => plain (Fields.putC f r)
  | .qc => (qreg? cs).bind fun k => plain { f with sc := BitVec.ofNat 6 k }
  | .bImm => srcBOf? (Wid.regs .ty f) (Ty.ofCode f.ty) f cs
  | .bShift => srcBOf? 1 .b32 f cs
  | .mem => (memOf? cs).bind fun (sp, r, c) => (spaceOf? sp).bind fun (space, k) =>
      let x := c + (k : Int) * 2 ^ 20
      if -2 ^ 31 ≤ c && c < 2 ^ 31 && x < 2 ^ 31 then
        plain (Fields.putA { f with mod := f.mod ||| BitVec.ofNat 16 (space * 8), imm := BitVec.ofInt 32 x } r)
      else none
  | .gmem => (memOf? cs).bind fun (sp, r, c) =>
      if sp == "g:".toList && -2 ^ 31 ≤ c && c < 2 ^ 31 then plain (Fields.putA { f with imm := BitVec.ofInt 32 c } r)
      else none
  | .cmem => (memOf? cs).bind fun (sp, r, c) =>
      if sp == "s:".toList && 0 ≤ c && c % 16 = 0 && c ≤ 1048560 then
        plain (Fields.orImm (Fields.putA f r) 16 (c / 16).toNat)
      else none
  | .cmemB => (memOf? cs).bind fun (sp, r, c) =>
      if sp == "s:".toList && c = 0 && !cs.contains '+' && !cs.contains '-' then plain (Fields.putB f r) else none
  | .cpDst => (cpSide? cs).bind fun (sp, r, n) =>
      plain (Fields.orImm (Fields.putA { f with mod := f.mod ||| BitVec.ofNat 16 sp } r) 16 n)
  | .cpSrc => (cpSide? cs).bind fun (sp, r, n) =>
      plain (Fields.orImm (Fields.putB { f with mod := f.mod ||| BitVec.ofNat 16 (sp * 4) } r) 0 n)
  | .imm lo n => (val? cs).bind fun
      | .num x => if 0 ≤ x && x < 2 ^ n then plain (Fields.orImm f lo x.toNat) else none
      | v => if n = 32 then immVal? .b32 f v else none
  | .off => (val? cs).bind (immVal? .i64 f)
  | .immTy => (val? cs).bind (immVal? (Ty.ofCode f.ty) f)
  | .target => (ref? cs).bind fun r => if r.plus = 0 then some (f, .target r) else none
  | .creg => (((cregs.find? fun p => p.1.toList == cs).map (·.2)).or (natOf? cs)).bind fun x =>
      if x < 4096 then plain (Fields.orImm f 0 x) else none

/-- The operands in order; a control register is read first, since its width is that of the other operand. -/
def operands? : List Opd → List (List Char) → Fields → Option (Fields × Patch)
  | [], [], f => some (f, .none)
  | [.d .creg, .creg], [x, y], f => (operand? f .creg y).bind fun (f, _) => operand? f (.d .creg) x
  | o :: os, x :: xs, f => (operand? f o x).bind fun (f, p) => (operands? os xs f).map fun (f, q) =>
      (f, if p == .none then q else p)
  | _, _, _ => none

/-! ## Instructions -/

/-- One suffix token: the first class of the root, not used yet, that has it. Of an atomic's tokens the first `.b32` is its
type, whatever stands before it, and a second one its size (R49). -/
def suffix? (r : Root) (used : List Cls) (seen : List (List Char)) (tok : List Char) : Option (Cls × Nat) :=
  let cls := if r.cls.contains .aty && tok == "b32".toList then [if seen.contains tok then Cls.size else Cls.aty] else r.cls
  cls.findSome? fun c =>
    if used.contains c then none
    else ((if c == .minor then r.minors else c.tokens).find? fun p => p.1.toList == tok).map fun p => (c, p.2)

/-- The suffixes of an instruction put into the fields, with the classes left out (R50). -/
def suffixes? (r : Root) (toks : List (List Char)) (f : Fields) : Option Fields :=
  let step (acc : Option (List Cls × List (List Char) × Fields)) (tok : List Char) :
      Option (List Cls × List (List Char) × Fields) :=
    acc.bind fun (used, seen, f) => (suffix? r used seen tok).map fun (c, k) => (c :: used, tok :: seen, c.put k f)
  (toks.foldl step (some ([], [], f))).bind fun (used, _, f) =>
    let code (c : Cls) : Nat := f.mod.toNat / 2 ^ c.place.2
    if (r.must.any fun c => !used.contains c) || (r.only.any fun (c, k) => code c % 4 != k) then none
    else
      let f := r.dflt.foldl (fun f (c, k) => if used.contains c then f else c.put k f) f
      -- SIZE of an atomic is that of its type; a token must agree (R173).
      if r.cls.contains .aty then
        let z : BitVec 3 := if (Ty.ofCode (f.min.extractLsb' 0 4)).is64 then 3 else 2
        if used.contains .size && f.size != z then none else some (Cls.put .size z.toNat f)
      else some f

/-- The forms of a root tried: the fields of an instruction that the decoder accepts (R50). -/
def form? (g : Guard) (toks : List (List Char)) (ops : List (List Char)) (r : Root) : Option (Fields × Patch) :=
  let f : Fields := { g.fields (BitVec.ofNat 8 r.maj) with min := BitVec.ofNat 9 r.min, mod := BitVec.ofNat 16 r.mod }
  (suffixes? r toks f).bind fun f => (operands? r.ops ops f).bind fun (f, p) =>
    match decode f.pack with
    | .ok _ => some (f, p)
    | .illegal _ => none

/-- A guard `(qk)` or `(!qk)` and what follows it (R45). -/
def guard? (cs : List Char) : Option (Option Guard × List Char) :=
  match cs with
  | '(' :: r =>
    let body := r.takeWhile (· != ')')
    if body.length = r.length then none
    else
      let rest := trim (r.drop (body.length + 1))
      match body with
      | '!' :: q => (qreg? q).map fun k => (some { neg := true, q := BitVec.ofNat 3 k }, rest)
      | q => (qreg? q).map fun k => (some { neg := false, q := BitVec.ofNat 3 k }, rest)
  | cs => some (none, cs)

/-- The operands of a statement, separated by commas. -/
def operandList (cs : List Char) : List (List Char) :=
  if (trim cs).isEmpty then [] else (splitAt (· == ',') cs).map trim

/-- The words of a text. -/
def words (cs : List Char) : List (List Char) := (splitAt isBlank cs).filter fun w => !w.isEmpty

/-- An instruction: its fields and the patch of its IMM. A guard on `nop` is an error (R45). -/
def instr? (cs : List Char) : Option (Fields × Patch) :=
  (guard? cs).bind fun (g, cs) =>
    let head := cs.takeWhile fun c => !isBlank c
    let ops := operandList (cs.drop head.length)
    match splitAt (· == '.') head with
    | name :: toks =>
      if g.isSome && name == "nop".toList then none
      else (roots.filter fun r => r.name.toList == name).findSome? (form? (g.getD { neg := false, q := 0 }) toks ops)
    | [] => none

/-- A label may not be spelt as a register, a mnemonic or a control register (R44). -/
def labelName? (cs : List Char) : Option String :=
  if (vreg? cs).isSome || (qreg? cs).isSome || (roots.any fun r => r.name.toList == cs) ||
      cregs.any (fun p => p.1.toList == cs) then none
  else label? cs

/-- A line's label, and the rest (R44). -/
def splitLabel (cs : List Char) : Option (Option String × List Char) :=
  let name := cs.takeWhile nameChar
  match name, cs.drop name.length with
  | _ :: _, ':' :: rest => (labelName? name).map fun l => (some l, trim rest)
  | _, _ => some (none, cs)

end Sys2Proof.Machine.Golmen
end

