-- ==== Sys2Proof/Machine/Image.lean ====
section
/-!
DEFINITION. golmen's directives, the filling of lines, the module image and its loader (spec/03_assembly.md R51 to R58).
None stands for a source that golmen rejects and for an image that the loader refuses.
-/

namespace Sys2Proof.Machine

namespace Golmen

/-! ## What has been assembled so far -/

/-- One slot of the text: the fields, the patch of its IMM, and whether it is the first of a pair. -/
structure Slot where
  fields : Fields
  patch  : Patch
  pair   : Bool
  deriving DecidableEq, Repr

/-- A place that holds an address: its offset in the section, the kind of its relocation, the label. -/
structure Hole where
  off  : Nat
  kind : Nat
  ref  : Ref
  deriving DecidableEq, Repr

/-- A `.launch` block: its keys, and the defaults in force where it opens (R51, R52). -/
structure LaunchSrc where
  name    : String
  width   : Nat
  scratch : Nat
  acc     : Nat
  keys    : List (String × List (List Char))
  deriving DecidableEq, Repr

/-- A block that is open (R52). -/
inductive Block where
  | launch (l : LaunchSrc)
  | tile (fmt : String) (rows cols : Nat) (vals : List (List Char))
  deriving DecidableEq, Repr

/-- The sections of an image (R55). -/
inductive Sec where
  | text | data | launch
  deriving DecidableEq, Repr

def Sec.code : Sec → Nat
  | .text => 0 | .data => 1 | .launch => 2

/-- The assembler between two lines. What stands before the first `.text` or `.data` goes to the text
(notes/assumptions/107.md). -/
structure Asm where
  sec     : Sec := .text
  text    : List Slot := []
  data    : List Byte := []
  holes   : List Hole := []
  /-- Labels with their places: a slot of the text by number, an offset in the data, a record by number. -/
  labels  : List (String × Sec × Nat) := []
  waiting : List String := []
  /-- Slots marked by `.target` and return points. -/
  marks   : List Nat := []
  markNext : Bool := false
  /-- Instructions of a `.pair` still to come. -/
  pairLeft : Nat := 0
  /-- Labels exported by `.entry`, with their SEGW. -/
  entries : List (String × Nat) := []
  launches : List LaunchSrc := []
  block   : Option Block := none
  /-- Defaults of the launch records that follow. -/
  width   : Nat := 32
  scratch : Nat := 0
  acc     : Nat := 0
  deriving DecidableEq, Repr

namespace Asm

def nopSlot : Slot := { fields := Fields.ofWord 0, patch := .none, pair := false }

/-- The labels that wait take the place given. -/
def bind (s : Asm) (sec : Sec) (at_ : Nat) : Asm :=
  { s with labels := s.labels ++ s.waiting.map fun l => (l, sec, at_), waiting := [] }

/-- The labels that wait take the current place of the section. -/
def bindHere (s : Asm) : Asm := if s.sec = .text then s.bind .text s.text.length else s.bind .data s.data.length

/-- `nop` up to the end of the line. -/
def closeLine (s : Asm) : Asm := { s with text := s.text ++ List.replicate ((5 - s.text.length % 5) % 5) nopSlot }

/-- Lines of `nop` until the text has `n` lines. -/
def padLines (s : Asm) (n : Nat) : Asm :=
  let s := s.closeLine
  { s with text := s.text ++ List.replicate (5 * n - s.text.length) nopSlot }

/-- Zero bytes until the data has `n` bytes. -/
def padData (s : Asm) (n : Nat) : Asm := { s with data := s.data ++ List.replicate (n - s.data.length) 0 }

/-- One instruction in the next slot (R53, R54). -/
def emit (s : Asm) (f : Fields) (p : Patch) : Option Asm :=
  if s.sec != .text then none
  else if s.pairLeft = 1 && (!s.waiting.isEmpty || s.markNext) then none
  else
    let n := s.text.length
    let s := s.bind .text n
    let marks := (if s.markNext then [n] else []) ++ (if f.maj == 0x7A || f.maj == 0x84 then [n + 1] else [])
    some { s with text := s.text ++ [{ fields := f, patch := p, pair := s.pairLeft == 2 }], marks := s.marks ++ marks
                  markNext := false, pairLeft := s.pairLeft - 1 }

/-- Bytes in the data, with the address that fills them. -/
def datum (s : Asm) (bs : List Byte) (hole : Option (Nat × Ref)) : Option Asm :=
  if s.sec = .text then none
  else
    let n := s.data.length
    let s := s.bind .data n
    some { s with data := s.data ++ bs, holes := s.holes ++ (hole.map fun (k, r) => { off := n, kind := k, ref := r }).toList }

/-- One value of `.word`; it and `.quad` have no type in which a float literal could be encoded
(notes/assumptions/107.md). -/
def word (s : Asm) (cs : List Char) : Option Asm :=
  match val? cs with
  | some (.num n) => (immNum? .b32 n).bind fun x => s.datum (leBytes 4 x.toNat) none
  | some (.lo32 r) => s.datum (leBytes 4 0) (some (2, r))
  | some (.hi32 r) => s.datum (leBytes 4 0) (some (3, r))
  | _ => none

/-- One value of `.quad`: a number, an address, or a half of one in the low word. -/
def quad (s : Asm) (cs : List Char) : Option Asm :=
  match val? cs with
  | some (.num n) => if -2 ^ 63 ≤ n && n < 2 ^ 64 then s.datum (leBytes 8 (BitVec.ofInt 64 n).toNat) none else none
  | some (.addr r) => s.datum (leBytes 8 0) (some (1, r))
  | some (.lo32 r) => s.datum (leBytes 8 0) (some (2, r))
  | some (.hi32 r) => s.datum (leBytes 8 0) (some (3, r))
  | _ => none

/-! ## Tiles (R52) -/

/-- A value of a tile as an exact number. -/
def tileVal? (cs : List Char) : Option XVal :=
  match float? cs, intOf? cs with
  | some x, _ => some x
  | none, some n => some (XVal.ofInt n)
  | none, none => none

/-- A value of a tile of signed integers of `w` bits, exact there. -/
def tileInt? (w : Nat) (cs : List Char) : Option Nat :=
  ((tileVal? cs).bind intOfX?).bind fun n => if -2 ^ (w - 1) ≤ n && n < 2 ^ (w - 1) then some (BitVec.ofInt w n).toNat else none

/-- Values turned into codes, all or none. -/
def codes? (f : List Char → Option Nat) (vals : List (List Char)) : Option (List Nat) :=
  vals.foldr (fun v l => (f v).bind fun c => l.map fun l => c :: l) (some [])

/-- The bytes of a tile: rows of codes, or the image of quantised rows, of at most 4,096 columns (R79). A value of a
quantised tile is rounded to f32 first. Rows of `ta6` fill whole bytes (notes/assumptions/107.md). -/
def tileBytes? (fmt : String) (rows cols : Nat) (vals : List (List Char)) : Option (List Byte) :=
  let flat (w : Nat) (c : Option (List Nat)) : Option (List Byte) := c.map fun c => ((chunks cols rows c).map (packRow w)).flatten
  let float (f : Format) := flat f.width (codes? (fun v => (tileVal? v).bind (exact? f)) vals)
  let quant (f : Fmt) : Option (List Byte) :=
    if rows != 16 || cols = 0 || cols % 32 != 0 || 4096 < cols then none
    else (codes? (fun v => (tileVal? v).map fun x => (fmtF32.round x .rne false).1) vals).map (quantImage f cols)
  if vals.length != rows * cols then none
  else match fmt with
    | "f32" => float (.ieee fmtF32)
    | "f16" => float (.ieee fmtF16)
    | "bf16" => float (.ieee fmtBf16)
    | "ta8" => float (.ta fmtTa8)
    | "ta6" => if cols % 4 = 0 then float (.ta fmtTa6) else none
    | "i8" => flat 8 (codes? (tileInt? 8) vals)
    | "i32" => flat 32 (codes? (tileInt? 32) vals)
    | "qta8" => quant .ta8
    | "qta6" => quant .ta6
    | _ => none

/-! ## Directives (R51) -/

/-- A width of 8 to 128. -/
def width? (n : Nat) : Option Nat := if [8, 16, 32, 64, 128].contains n then some n else none

/-- A statement inside a block, or its `.end`. The values of a tile stand on any lines, between commas or blanks
(notes/assumptions/107.md). -/
def inBlock (s : Asm) (b : Block) (cs : List Char) : Option Asm :=
  let ws := words cs
  if ws == [".end".toList] then
    match b with
    | .launch l =>
      if s.launches.any fun x => x.name == l.name then none
      else some { s with launches := s.launches ++ [l], block := none }
    | .tile fmt rows cols vals =>
      (tileBytes? fmt rows cols vals).bind fun bs =>
        ({ s with block := none }.padData ((s.data.length + 63) / 64 * 64)).datum bs none
  else match b with
    | .launch l =>
      match ws with
      | [] => some s
      | k :: _ =>
        let key := String.ofList k
        if l.keys.any fun p => p.1 == key then none
        else some { s with block := some (.launch { l with keys := l.keys ++ [(key, operandList (cs.drop k.length))] }) }
    | .tile fmt rows cols vals =>
      let new := (splitAt (fun c => c == ',' || isBlank c) cs).filter fun w => !w.isEmpty
      some { s with block := some (.tile fmt rows cols (vals ++ new)) }

/-- `.segw`: the write of SEGW, and the entry it belongs to. -/
def segw (s : Asm) (n : Nat) : Option Asm :=
  if !(List.contains [0, 8, 16, 32, 64, 128] n) then none
  else (instr? ("ctlwr SEGW, ".toList ++ (Nat.toDigits 10 n))).bind fun (f, p) =>
    ({ s with entries := match s.entries.getLast? with
        | some e => s.entries.dropLast ++ [(e.1, n)]
        | none => [] }).emit f p

/-- `.tile` in data: its format, rows and cols. -/
def openTile (s : Asm) (f r c : List Char) : Option Asm :=
  if s.sec = .text then none
  else (natOf? r).bind fun r => (natOf? c).map fun c => { s with block := some (.tile (String.ofList f) r c []) }

/-- A directive. A comma or a blank stands after the format of `.tile`, and `.line` in data, which has no lines, is an
error (notes/assumptions/107.md). -/
def directive (s : Asm) (name : String) (ops : List (List Char)) : Option Asm :=
  let num (f : Nat → Option Asm) : Option Asm := match ops with
    | [x] => (natOf? x).bind f
    | _ => none
  let text := s.sec = .text
  if s.pairLeft != 0 then none
  else match name, ops with
    | ".text", [] => some { s.bindHere with sec := .text }
    | ".data", [] => some { s.bindHere with sec := .data }
    | ".align", _ => num fun n =>
        if n = 0 || 2 ^ n.log2 != n || (text && n < 64) then none
        else if text then let m := (s.text.length + 4) / 5 * 64; some (s.padLines ((m + n - 1) / n * n / 64))
        else some (s.padData ((s.data.length + n - 1) / n * n))
    | ".offset", _ => num fun n =>
        if text then if n % 64 != 0 || n < (s.text.length + 4) / 5 * 64 then none else some (s.padLines (n / 64))
        else if n < s.data.length then none else some (s.padData n)
    | ".line", [] => if text then some s.closeLine else none
    | ".pair", [] =>
        if !text then none else some { (if s.text.length % 5 = 4 then s.closeLine else s) with pairLeft := 2 }
    | ".target", [] => some { s with markNext := true }
    | ".entry", [l] => (labelName? l).map fun l => { s with entries := s.entries ++ [(l, 0)] }
    | ".width", _ => num fun n => (width? n).map fun n => { s with width := n }
    | ".segw", _ => num s.segw
    | ".scratch", _ => num fun n => if n % 16 != 0 || 1048576 < n then none else some { s with scratch := n }
    | ".acc", _ => num fun n => if 256 < n then none else some { s with acc := n }
    | ".launch", [n] => (label? n).map fun n => { s with block := some (.launch { name := n, width := s.width, scratch := s.scratch, acc := s.acc, keys := [] }) }
    | ".word", _ :: _ => ops.foldl (fun s x => s.bind fun s => s.word x) (some s)
    | ".quad", _ :: _ => ops.foldl (fun s x => s.bind fun s => s.quad x) (some s)
    | ".tile", [f, r, c] => s.openTile f r c
    | ".tile", [x, c] => match words x with
      | [f, r] => s.openTile f r c
      | _ => none
    | _, _ => none

/-- One line of the source (R44). -/
def line (s : Asm) (cs : List Char) : Option Asm :=
  let cs := trim (stripComment cs)
  match s.block with
  | some b => if cs.isEmpty then some s else s.inBlock b cs
  | none =>
    (splitLabel cs).bind fun (label, cs) =>
      let known (l : String) := s.labels.any (fun x => x.1 == l) || s.waiting.contains l
      if label.any known then none
      else
        let s := { s with waiting := s.waiting ++ label.toList }
        if cs.isEmpty then some s
        else if cs.head? == some '.' then
          let name := cs.takeWhile fun c => !isBlank c
          s.directive (String.ofList name) (operandList (cs.drop name.length))
        else (instr? cs).bind fun (f, p) => s.emit f p

/-- A source, line by line; an open block or pair at its end is an error. -/
def ofSource (src : List String) : Option Asm :=
  (src.foldl (fun (s : Option Asm) l => s.bind fun s => s.line l.toList) (some {})).bind fun s =>
    if s.block.isSome || s.pairLeft != 0 then none else some s.bindHere.closeLine

/-! ## Places of labels -/

/-- PC offset of a slot by its number. -/
def slotOff (n : Nat) : Nat := n / 5 * 64 + n % 5

/-- Section and offset of a label. -/
def place? (s : Asm) (l : String) : Option (Sec × Nat) :=
  (s.labels.find? fun x => x.1 == l).map fun (_, sec, n) => (sec, if sec = .text then slotOff n else n)

/-- The slot of a label of the text. -/
def slotOf? (s : Asm) (l : String) : Option Nat :=
  (s.labels.find? fun x => x.1 == l && x.2.1 == .text).map fun x => x.2.2

/-! ## Lines (R53, R54) -/

/-- The word of a slot, with a relative target in its IMM (R26). -/
def slotWord? (s : Asm) (n : Nat) (x : Slot) : Option InstrWord :=
  match x.patch with
  | .target r => (s.slotOf? r.label).bind fun m =>
      let d := ((m / 5 : Nat) - (n / 5 : Nat) : Int) * 8 + (m % 5 : Nat)
      if -2 ^ 31 ≤ d && d < 2 ^ 31 then some ({ x.fields with imm := BitVec.ofInt 32 d }).pack else none
  | .lo r | .hi r => (s.place? r.label).map fun (_, o) =>
      ({ x.fields with imm := BitVec.ofInt 32 (o + r.plus) }).pack
  | .none => some x.fields.pack

/-- The slots that get TGT: labels that a branch names, entries, marks. -/
def targets (s : Asm) : List Nat :=
  s.marks ++ (s.entries.filterMap fun e => s.slotOf? e.1) ++ s.text.filterMap fun x => match x.patch with
    | .target r => s.slotOf? r.label
    | _ => none

/-- Whether the pair at slot `n` is legal (R40). -/
def pairOk (s : Asm) (n : Nat) : Bool :=
  match s.text[n]?, s.text[n + 1]? with
  | some x, some y =>
    pairClass x.fields.pack && pairClass y.fields.pack &&
      match decode x.fields.pack, decode y.fields.pack with
      | .ok i, .ok j =>
        match useOf i, useOf j with
        | some u, some w => (pairFault u w).isNone
        | _, _ => false
      | _, _ => false
  | _, _ => false

/-- A line of the text as its 64 bytes; no `nop` slot has its TGT bit. -/
def lineBytes? (s : Asm) (n : Nat) : Option (List Byte) :=
  let tgts := s.targets
  let slots := (s.text.drop (5 * n)).take 5
  let ok := slots.zipIdx.all fun (x, k) => !x.pair || (s.pairOk (5 * n + k) && !tgts.contains (5 * n + k + 1))
  let words := slots.zipIdx.foldr (fun (x, k) l => (s.slotWord? (5 * n + k) x).bind fun w => l.map fun l => leBytes 12 w.toNat ++ l)
    (some [])
  let low := slots.zipIdx.foldl (fun v (x, k) =>
    v + boolBit (tgts.contains (5 * n + k) && x.fields.maj != 0) k + boolBit x.pair (5 + k)) 0
  if !ok then none
  else words.map fun ws =>
    let bs := ws ++ leBytes 4 (low + 2 ^ 24)
    ws ++ leBytes 4 (low + lineParity bs * 2 ^ 16 + 2 ^ 24)

/-! ## Launch records (R52) -/

/-- The operands of a key as numbers below the bounds given, with the defaults for those left out. -/
def nums? (ops : Option (List (List Char))) (ranges : List (Nat × Nat)) (dflt : Option (List Nat)) : Option (List Nat) :=
  match ops with
  | none => dflt
  | some l =>
    if l.length != ranges.length then none
    else (l.zip ranges).foldr (fun (x, lo, hi) r => (natOf? x).bind fun n => if lo ≤ n && n ≤ hi then r.map (n :: ·) else none)
      (some [])

/-- An address of a record: a label expression to be filled in, or, where `value` allows it, a number. -/
def addr? (ops : Option (List (List Char))) (value : Bool) (off : Nat) : Option (Nat × List Hole) :=
  match ops with
  | none => some (0, [])
  | some [x] => match val? x with
    | some (.num n) => if value && 0 ≤ n && n < 2 ^ 64 then some (n.toNat, []) else none
    | some (.addr r) => some (0, [{ off, kind := 1, ref := r }])
    | some (.lo32 r) => some (0, [{ off, kind := 2, ref := r }])
    | some (.hi32 r) => some (0, [{ off, kind := 3, ref := r }])
    | _ => none
  | some _ => none

def orderOf? (ops : Option (List (List Char))) : Option Nat :=
  match ops with
  | none => some 0
  | some [x] => ["d0", "d1", "morton", "serp"].findIdx? fun o => o.toList == x
  | some _ => none

/-- The 128 bytes of the record at `off` of its section, with its holes; its successor list lies at `succ` of the data. -/
def record? (s : Asm) (off : Nat) (l : LaunchSrc) (succ : Nat) : Option (List Byte × List Hole) := do
  let key (k : String) := (l.keys.find? fun p => p.1 == k).map (·.2)
  let known := ["prio", "flags", "lid", "entry", "args", "origin", "size", "cluster", "threads", "width", "scratch", "acc",
    "ext", "tile", "order", "pred", "succ", "completion"]
  if l.keys.any fun p => !known.contains p.1 then none
  let one (k : String) (lo hi : Nat) (dflt : Option Nat) : Option Nat :=
    (nums? (key k) [(lo, hi)] (dflt.map fun d => [d])).map fun l => l.headD 0
  let two (k : String) (hi : Nat) : Option (List Nat) := nums? (key k) [(0, hi), (0, hi)] (some [0, 0])
  let prio ← one "prio" 0 3 (some 0)
  let flags ← one "flags" 0 65535 (some 0)
  let lid ← one "lid" 0 (2 ^ 32 - 1) (some 0)
  let entry ← match key "entry" with
    | some [l] => if s.entries.any fun e => e.1.toList == l then some (String.ofList l) else none
    | _ => none
  let (args, h1) ← addr? (key "args") true (off + 16)
  let origin ← two "origin" 15
  let size ← two "size" 4
  let cluster ← two "cluster" 2
  let threads ← one "threads" 1 1024 none
  let width ← (one "width" 8 128 (some l.width)).bind width?
  let scratch ← one "scratch" 0 1048576 (some l.scratch)
  let acc ← one "acc" 0 256 (some l.acc)
  let ext ← nums? (key "ext") [(1, 2 ^ 21 - 1), (1, 2 ^ 21 - 1), (1, 2 ^ 21 - 1)] none
  let ts ← nums? (key "tile") [(1, 65535), (1, 65535), (1, 65535)] none
  let order ← orderOf? (key "order")
  let pred ← one "pred" 0 (2 ^ 32 - 1) (some 0)
  let names := (key "succ").getD []
  let (completion, h2) ← addr? (key "completion") false (off + 72)
  if scratch % 16 != 0 || 65535 < names.length then none
  let at_ (l : List Nat) (i : Nat) := l.getD i 0
  let ws := [1 + prio * 2 ^ 8 + flags * 2 ^ 16 + lid * 2 ^ 32, 0, args,
    at_ origin 0 + at_ origin 1 * 2 ^ 4 + at_ size 0 * 2 ^ 8 + at_ size 1 * 2 ^ 11 + at_ cluster 0 * 2 ^ 14 +
      at_ cluster 1 * 2 ^ 17 + threads * 2 ^ 32 + width.log2 * 2 ^ 48,
    scratch + acc * 2 ^ 32, at_ ext 0 + at_ ext 1 * 2 ^ 21 + at_ ext 2 * 2 ^ 42,
    at_ ts 0 + at_ ts 1 * 2 ^ 16 + at_ ts 2 * 2 ^ 32 + order * 2 ^ 48, pred + names.length * 2 ^ 32,
    if names.isEmpty then 0 else succ, completion, 0, 0, 0, 0, 0, 0]
  some ((ws.map (leBytes 8)).flatten, { off := off + 8, kind := 1, ref := { label := entry, plus := 0 } } :: h1 ++ h2)

/-- The names a record's `succ` key lists. -/
def succNames (l : LaunchSrc) : List (List Char) := ((l.keys.find? fun p => p.1 == "succ").map (·.2)).getD []

end Asm

/-! ## The module (R55) -/

/-- A relocation item: where, its kind, its target section, and bits [63:32] of the offset for kinds 2 and 3. -/
structure Reloc where
  off  : Nat
  kind : Nat
  sec  : Nat
  high : Nat
  deriving DecidableEq, Repr

/-- A module: its sections, its entries (PC offset, SEGW, name) and its relocations by image offset. -/
structure Module where
  xo      : Bool
  text    : List Byte
  data    : List Byte
  launch  : List Byte
  entries : List (Nat × Nat × List Byte)
  relocs  : List Reloc
  textVa  : Nat
  dataVa  : Nat
  launchVa : Nat
  deriving DecidableEq, Repr

/-- Bytes padded with zeros to a multiple of `n`. -/
def padTo (n : Nat) (bs : List Byte) : List Byte := bs ++ List.replicate ((n - bs.length % n) % n) 0

/-- The field of a hole filled with the offset of its label, and its relocation. -/
def fillHole (s : Asm) (base : Nat) (bs : List Byte) (h : Hole) : Option (List Byte × Reloc) :=
  (s.place? h.ref.label).map fun (sec, o) =>
    let v := (BitVec.ofInt 64 (o + h.ref.plus)).toNat
    let n := if h.kind = 1 then 8 else 4
    (bs.take h.off ++ leBytes n v ++ bs.drop (h.off + n),
      { off := base + h.off, kind := h.kind, sec := sec.code, high := if h.kind = 1 then 0 else v / 2 ^ 32 })

/-- Every hole of a section filled. -/
def fillHoles (s : Asm) (base : Nat) (bs : List Byte) (hs : List Hole) : Option (List Byte × List Reloc) :=
  hs.foldl (fun acc h => acc.bind fun (bs, rs) => (fillHole s base bs h).map fun (bs, r) => (bs, rs ++ [r])) (some (bs, []))

/-- The successor lists at the end of the data (R52): the data with them, their offsets, and where each entry lies; none
where a name is no launch's. -/
def succLists (s : Asm) : Option (List Byte × List Nat × List Nat) :=
  s.launches.foldl (fun acc l => acc.bind fun (d, offs, at_) =>
      let names := Asm.succNames l
      let d := if names.isEmpty then d else padTo 8 d
      let recs := names.foldr (fun x r => (s.launches.findIdx? fun y => y.name.toList == x).bind fun i =>
        r.map (i :: ·)) (some [])
      recs.map fun recs => (d ++ (recs.map fun i => leBytes 8 (128 * i)).flatten, offs ++ [d.length],
        at_ ++ (List.range names.length).map fun i => d.length + 8 * i))
    (some (s.data, [], []))

/-- A source assembled. -/
def assemble (src : List String) : Option Module := do
  let s ← Asm.ofSource src
  let lines ← (List.range (s.text.length / 5)).foldr (fun n l => (s.lineBytes? n).bind fun b => l.map (b :: ·)) (some [])
  let text := lines.flatten
  let (data, offs, succAt) ← succLists s
  let data := padTo 64 data
  let recs ← (s.launches.zipIdx.zip offs).foldr
    (fun ((l, i), o) r => (s.record? (128 * i) l o).bind fun x => r.map (x :: ·)) (some [])
  let launch := (recs.map (·.1)).flatten
  let dataBase := 128 + text.length
  let launchBase := dataBase + data.length
  let textRelocs := s.text.zipIdx.filterMap fun (x, n) =>
    let item (kind : Nat) (r : Ref) : Option Reloc := (s.place? r.label).map fun (sec, o) =>
      { off := 128 + n / 5 * 64 + n % 5 * 12, kind, sec := sec.code, high := (BitVec.ofInt 64 (o + r.plus)).toNat / 2 ^ 32 }
    match x.patch with
    | .lo r => item 2 r
    | .hi r => item 3 r
    | _ => none
  let (data, dataRelocs) ← fillHoles s dataBase data s.holes
  let (launch, launchRelocs) ← fillHoles s launchBase launch ((recs.map (·.2)).flatten)
  -- SUCCPTR of a record with successors is an address in the data.
  let succRelocs := (succAt.map fun o => { off := dataBase + o, kind := 1, sec := 2, high := 0 : Reloc }) ++
    s.launches.zipIdx.filterMap fun (l, i) => if (Asm.succNames l).isEmpty then none
    else some { off := launchBase + 128 * i + 64, kind := 1, sec := 1, high := 0 }
  let entries ← s.entries.foldr (fun (l, w) r => (s.slotOf? l).bind fun n =>
    r.map ((Asm.slotOff n, w, (l.toList.take 16).map fun c => BitVec.ofNat 8 c.toNat) :: ·)) (some [])
  some { xo := false, text, data, launch, entries, relocs := textRelocs ++ dataRelocs ++ launchRelocs ++ succRelocs
         textVa := 0x0000010000000000, dataVa := 0x0000020000000000, launchVa := 0x0000030000000000 }

/-- The image of a module (R55). -/
def Module.image (m : Module) : List Byte :=
  let header := [0x4D4C4F47 + 2 ^ 32 + boolBit m.xo 40, m.text.length, m.data.length, m.launch.length / 128, m.entries.length,
    m.relocs.length, m.textVa, m.dataVa, m.launchVa, 0, 0, 0, 0, 0, 0, 0]
  let entry (e : Nat × Nat × List Byte) : List Byte :=
    leBytes 8 e.1 ++ leBytes 8 e.2.1 ++ (e.2.2 ++ List.replicate 16 0).take 16
  let reloc (r : Reloc) : List Byte := leBytes 8 r.off ++ leBytes 4 (r.kind + r.sec * 2 ^ 8) ++ leBytes 4 r.high
  let body := padTo 64 ((header.map (leBytes 8)).flatten ++ m.text ++ m.data ++ m.launch)
  padTo 64 (body ++ (m.entries.map entry).flatten) ++ (m.relocs.map reloc).flatten

/-! ## The loader (R55, R56) -/

/-- The header and tables of an image; none where its magic or version is another, a reserved bit of the header is not
zero, or it is shorter than it says. -/
def parseImage (bs : List Byte) : Option Module :=
  let w (i : Nat) := leNat ((bs.drop (8 * i)).take 8)
  let up (n : Nat) := (n + 63) / 64 * 64
  let nText := w 1
  let nData := w 2
  let nLaunch := 128 * w 3
  let entries := up (128 + nText + nData + nLaunch)
  let relocs := up (entries + 32 * w 4)
  if bits (w 0) 0 32 != 0x4D4C4F47 || bits (w 0) 32 8 != 1 || bits (w 0) 41 23 != 0 || nText % 64 != 0 || nData % 64 != 0 ||
      ((List.range 7).any fun i => w (9 + i) != 0) || bs.length < relocs + 16 * w 5 then none
  else
    let cut (o n : Nat) := (bs.drop o).take n
    some
      { xo := (w 0).testBit 40, text := cut 128 nText, data := cut (128 + nText) nData
        launch := cut (128 + nText + nData) nLaunch
        entries := (List.range (w 4)).map fun i => (leNat (cut (entries + 32 * i) 8), leNat (cut (entries + 32 * i + 8) 1),
          cut (entries + 32 * i + 16) 16)
        relocs := (List.range (w 5)).map fun i =>
          let o := relocs + 16 * i
          { off := leNat (cut o 8), kind := leNat (cut (o + 8) 1), sec := leNat (cut (o + 9) 3), high := leNat (cut (o + 12) 4) }
        textVa := w 6, dataVa := w 7, launchVa := w 8 }

/-- PAR of the line at an offset of the text computed again (R23). -/
def fixParity (text : List Byte) (off : Nat) : List Byte :=
  let o := off / 64 * 64
  let line := (text.drop o).take 64
  text.take (o + 62) ++ [BitVec.ofNat 8 (lineParity line)] ++ text.drop (o + 63)

/-- One relocation applied to the three sections, which lie one after the other from offset 128 of the image; none where
the item is malformed or names an offset outside its section. -/
def applyReloc (m : Module) (r : Reloc) : Option Module :=
  let n := if r.kind = 1 then 8 else 4
  let (base, size) := if r.sec = 0 then (m.textVa, m.text.length) else if r.sec = 1 then (m.dataVa, m.data.length)
    else (m.launchVa, m.launch.length)
  let patch (bs : List Byte) (o : Nat) : Option (List Byte) :=
    let found := leNat ((bs.drop o).take n)
    let target := if r.kind = 1 then found else found + r.high * 2 ^ 32
    if size < target then none
    else
      let v := (base + target) % 2 ^ 64
      some (bs.take o ++ leBytes n (if r.kind = 3 then v / 2 ^ 32 else v) ++ bs.drop (o + n))
  let o := r.off - 128
  let nt := m.text.length
  let nd := m.data.length
  if r.kind = 0 || 3 < r.kind || 2 < r.sec || r.off < 128 || (r.kind = 1 && r.high != 0) then none
  else if o + n ≤ nt then (patch m.text o).map fun t => { m with text := fixParity t o }
  else if nt ≤ o && o + n ≤ nt + nd then (patch m.data (o - nt)).map fun d => { m with data := d }
  else if nt + nd ≤ o && o + n ≤ nt + nd + m.launch.length then
    (patch m.launch (o - nt - nd)).map fun l => { m with launch := l }
  else none

/-- An image as it is to be placed: its module with every relocation applied. -/
def loadImage (bs : List Byte) : Option Module :=
  (parseImage bs).bind fun m => m.relocs.foldl (fun m r => m.bind fun m => applyReloc m r) (some m)

/-- The sections of a module, each with its address. -/
def Module.sections (m : Module) : List (Nat × List Byte) := [(m.textVa, m.text), (m.dataVa, m.data), (m.launchVa, m.launch)]

end Golmen

namespace State

/-- Bytes copied to virtual addresses, line by line, for an accessor; none where an address does not translate. -/
def copyBytes (s : State) (a : Accessor) : List (DWord × List Byte) → Option State
  | [] => some s
  | (va, bs) :: rest =>
    match s.devWrite a va bs with
    | (true, s) => s.copyBytes a rest
    | (false, _) => none

/-- A page mapped execute-only: X set, R and W clear in its leaf (R150, R310). -/
def mapExecuteOnly (s : State) (a : Accessor) (va : DWord) : State :=
  match s.walk a.ptroot va.toNat with
  | .leaf pte at_ _ => s.storeHome at_ (leBytes 8 ((pte ||| 0x8) &&& ~~~0x6#64).toNat) 0
  | .fault _ | .wait => s

/-- A module loaded into memory: its sections copied to their addresses, in the address space of an accessor (R56), and its
text mapped execute-only where XO is set (R310). A refused image loads nothing. -/
def loadModule (s : State) (a : Accessor) (image : List Byte) : Option State :=
  (Golmen.loadImage image).bind fun m =>
    (s.copyBytes a (m.sections.flatMap fun (va, bs) =>
      (chunks 64 (bs.length / 64) bs).zipIdx.map fun (l, i) => (BitVec.ofNat 64 (va + 64 * i), l))).map fun s =>
      if !m.xo then s
      else (List.range ((m.text.length + 4095) / 4096)).foldl (fun s i => s.mapExecuteOnly a (BitVec.ofNat 64 (m.textVa + 4096 * i)))
        { s with tlb := [] }

end State

end Sys2Proof.Machine
end

