-- ==== Sys2Proof/Machine/Shard.lean ====
section
/-!
DEFINITION. Checkpoints as the Agbeac libraries write and read them: shards, manifests and a restore
(spec/23_errors_degraded_checkpoint.md R366 to R368). No instruction acts on these forms; `cp.dig` forms their digests (notes/assumptions/103.md).
-/

namespace Sys2Proof.Machine

/-! ## Boxes -/

/-- A box of a tensor: its first coordinate and its end, exclusive, in each of four dimensions. -/
structure Box where
  lo : List Nat
  hi : List Nat
  deriving DecidableEq, Repr

namespace Box

/-- The extents of a box. -/
def extents (b : Box) : List Nat := b.hi.zipWith (· - ·) b.lo

/-- The number of elements of a box. -/
def volume (b : Box) : Nat := b.extents.foldl (· * ·) 1

/-- Whether a coordinate lies in a box. -/
def holds (b : Box) (x : List Nat) : Bool :=
  ((b.lo.zip b.hi).zip x).all fun ((l, h), c) => decide (l ≤ c) && decide (c < h)

/-- Whether two boxes have no element in common. -/
def apart (a b : Box) : Bool :=
  ((a.lo.zip a.hi).zip (b.lo.zip b.hi)).any fun ((al, ah), (bl, bh)) => decide (min ah bh ≤ max al bl)

/-- Whether a box lies in the tensor of the given shape and is none with an end before its first coordinate. -/
def within (b : Box) (shape : List Nat) : Bool :=
  ((b.lo.zip b.hi).zip shape).all fun ((l, h), n) => decide (l ≤ h) && decide (h ≤ n)

/-- Place of the element at a coordinate, dimension 0 fastest (R366). -/
def place (b : Box) (x : List Nat) : Nat :=
  ((b.lo.zip x).zip b.extents).foldr (fun ((l, c), n) k => (c - l) + n * k) 0

/-- The coordinate of the `k`-th element. -/
def coord : List (Nat × Nat) → Nat → List Nat
  | [], _ => []
  | (l, n) :: r, k => (l + k % n) :: coord r (k / n)

/-- The coordinates of a box, dimension 0 fastest. -/
def coords (b : Box) : List (List Nat) := (List.range b.volume).map (coord (b.lo.zip b.extents))

end Box

/-- Boxes that are disjoint and whose union is the whole tensor: they lie in it, no two meet, and their elements are as
many as its own (R367). -/
def tiles (shape : List Nat) (bs : List Box) : Bool :=
  bs.all (·.within shape) && (bs.zipIdx.all fun (a, i) => bs.zipIdx.all fun (b, j) => i == j || a.apart b) &&
    (bs.map Box.volume).foldl (· + ·) 0 == shape.foldl (· * ·) 1

/-! ## Shards (R366) -/

/-- A shard: the element type, the rank, the tensor's name, its shape, the box, and the bytes of its elements. -/
structure Shard where
  ty    : Ty
  rank  : Nat
  name  : List Byte
  shape : List Nat
  box   : Box
  data  : List Byte
  deriving DecidableEq, Repr

namespace Shard

def magic : Nat := 0x44524853

/-- Bytes of an element. -/
def elemBytes (t : Ty) : Nat := (t.width + 7) / 8

/-- NAMEH: the first 8 bytes of the digest of the name. -/
def nameh (name : List Byte) : List Byte := (sha512 name).take 8

/-- Four 64-bit values. -/
def four (l : List Nat) : List Byte := (l.map (leBytes 8)).flatten

/-- The data padded with zeros to a multiple of 16 bytes. -/
def padded (l : List Byte) : List Byte := l ++ List.replicate ((16 - l.length % 16) % 16) 0

/-- L16: LEN rounded up to 16. -/
def l16 (len : Nat) : Nat := (len + 15) / 16 * 16

/-- Offset of the digest, which lies directly after the data. -/
def digestAt (len : Nat) : Nat := 0x80 + l16 len

/-- Whether a shard has the form of R366: rank 1 to 4, four dimensions with extent 1 beyond the rank, a box in the
tensor, and LEN bytes of data. -/
def ok (s : Shard) : Bool :=
  decide (1 ≤ s.rank) && decide (s.rank ≤ 4) && s.shape.length == 4 && s.box.lo.length == 4 && s.box.hi.length == 4 &&
    (s.shape.drop s.rank).all (· == 1) && s.box.within s.shape &&
    s.data.length == s.box.volume * elemBytes s.ty

/-- DIGEST: as a `cp.dig` of the padded data writes it (R196). -/
def digest (s : Shard) : List Byte := sha512 (padded s.data)

/-- The image of a shard. -/
def image (s : Shard) : List Byte :=
  leBytes 4 magic ++ leBytes 2 1 ++ leBytes 1 s.ty.code.toNat ++ leBytes 1 s.rank ++ nameh s.name ++ four s.shape ++
    four s.box.lo ++ four s.box.hi ++ leBytes 8 s.data.length ++ leBytes 8 0 ++ padded s.data ++ s.digest

/-- What the image of a shard holds, as its reader finds it: NAMEH, shape, box, element type, data and DIGEST. -/
structure View where
  nameh  : List Byte
  ty     : Ty
  rank   : Nat
  shape  : List Nat
  box    : Box
  len    : Nat
  data   : List Byte
  digest : List Byte
  deriving DecidableEq, Repr

/-- A shard's image read; none where it is not of this form. -/
def read (bs : List Byte) : Option View :=
  let num (o n : Nat) : Nat := leNat ((bs.drop o).take n)
  let nums (o : Nat) : List Nat := (List.range 4).map fun i => num (o + 8 * i) 8
  let len := num 0x70 8
  let v : View :=
    { nameh := (bs.drop 8).take 8, ty := Ty.ofCode (BitVec.ofNat 4 (num 6 1)), rank := num 7 1, shape := nums 0x10
      box := { lo := nums 0x30, hi := nums 0x50 }, len, data := (bs.drop 0x80).take (l16 len)
      digest := (bs.drop (digestAt len)).take 64 }
  if num 0 4 = magic ∧ num 4 2 = 1 ∧ num 6 1 < 16 ∧ 1 ≤ v.rank ∧ v.rank ≤ 4 ∧ (v.shape.drop v.rank).all (· == 1) = true ∧
      v.box.within v.shape = true ∧ len = v.box.volume * elemBytes v.ty ∧ num 0x78 8 = 0 ∧
      bs.length = digestAt len + 64 then some v
  else none

/-- Steps 1 and 2 of a restore: the digest that `cp.dig` writes is not poisoned (R354), and agrees with DIGEST and with
the manifest's entry. -/
def verified (v : View) (entry : List Byte) (poisoned : Bool) : Bool :=
  !poisoned && sha512 v.data == v.digest && v.digest == entry

end Shard

/-! ## Manifests (R367) -/

/-- An entry of a manifest. -/
structure ManifestEntry where
  shardId : Nat
  nameh   : List Byte
  box     : Box
  digest  : List Byte
  len     : Nat
  deriving DecidableEq, Repr

/-- The entry of a shard. -/
def Shard.entry (s : Shard) (id : Nat) : ManifestEntry :=
  { shardId := id, nameh := Shard.nameh s.name, box := s.box, digest := s.digest, len := s.data.length }

namespace Manifest

def magic : Nat := 0x54464E4D

/-- The 160 bytes of an entry. -/
def entryBytes (e : ManifestEntry) : List Byte :=
  leBytes 8 e.shardId ++ e.nameh ++ Shard.four e.box.lo ++ Shard.four e.box.hi ++ e.digest ++ leBytes 8 e.len ++ leBytes 8 0

/-- The image of a manifest: header, entries, and the digest of all entries. -/
def image (step : Nat) (es : List ManifestEntry) : List Byte :=
  let body := (es.map entryBytes).flatten
  leBytes 4 magic ++ leBytes 2 1 ++ leBytes 2 0 ++ leBytes 4 es.length ++ leBytes 4 0 ++ leBytes 8 step ++
    List.replicate 40 0 ++ body ++ sha512 body

/-- An entry read from its 160 bytes; none where the last 8 are not zero. -/
def readEntry (bs : List Byte) : Option ManifestEntry :=
  let num (o : Nat) : Nat := leNat ((bs.drop o).take 8)
  let nums (o : Nat) : List Nat := (List.range 4).map fun i => num (o + 8 * i)
  if num 0x98 = 0 then
    some { shardId := num 0, nameh := (bs.drop 8).take 8, box := { lo := nums 0x10, hi := nums 0x30 }
           digest := (bs.drop 0x50).take 64, len := num 0x90 }
  else none

/-- The entries of a manifest's bytes; none where they are not of this form, or the digest of the entries differs. -/
def read (bs : List Byte) : Option (List ManifestEntry) :=
  let num (o n : Nat) : Nat := leNat ((bs.drop o).take n)
  let n := num 8 4
  let body := (bs.drop 64).take (160 * n)
  if num 0 4 = magic ∧ num 4 2 = 1 ∧ num 6 2 = 0 ∧ num 12 4 = 0 ∧ ((bs.drop 24).take 40).all (· == 0) = true ∧
      bs.length = 128 + 160 * n ∧ sha512 body = bs.drop (64 + 160 * n) then (chunks 160 n body).mapM readEntry
  else none

/-- The boxes of the shards of one tensor. -/
def boxesOf (es : List ManifestEntry) (nameh : List Byte) : List Box := (es.filter fun e => e.nameh == nameh).map ManifestEntry.box

/-- Whether the libraries take a manifest: for each tensor the boxes are disjoint and their union is its shape, as `shape` gives
it. One that breaks this is refused whole. -/
def ok (es : List ManifestEntry) (shape : List Byte → Option (List Nat)) : Bool :=
  es.all fun e => (shape e.nameh).any fun n => tiles n (boxesOf es e.nameh)

end Manifest

/-! ## Restore (R368) -/

/-- A shard at hand: its id, its bytes, and whether the digest that the copy of its data writes is poisoned (R354). -/
structure StoredShard where
  id       : Nat
  bytes    : List Byte
  poisoned : Bool
  deriving DecidableEq, Repr

/-- SHAPE of a tensor, as its shards give it. -/
def shapeOf (ss : List StoredShard) (nameh : List Byte) : Option (List Nat) :=
  ss.findSome? fun s => (Shard.read s.bytes).bind fun v => if v.nameh = nameh then some v.shape else none

/-- The shard of an entry, verified before it is used: of the tensor, the box, the element type and the length the entry and the
restore name, with a digest that agrees; none where it is refused. -/
def neededShard (ss : List StoredShard) (ty : Ty) (e : ManifestEntry) : Option Shard.View :=
  (ss.find? fun s => s.id == e.shardId).bind fun s => (Shard.read s.bytes).bind fun v =>
    if v.nameh = e.nameh ∧ v.ty = ty ∧ v.box = e.box ∧ v.len = e.len ∧ Shard.verified v e.digest s.poisoned = true then some v
    else none

/-- The element at a coordinate, from the shard whose box holds it. -/
def restoreElem (vs : List Shard.View) (n : Nat) (x : List Nat) : Option (List Byte) :=
  (vs.find? fun v => v.box.holds x).map fun v => (v.data.drop (v.box.place x * n)).take n

/-- A restore of a target box of the tensor named `nameh`, from a manifest's bytes: each element comes from the shard of that name
that holds it; none where the manifest or a shard that the box meets is refused, or an element lacks. -/
def restore (manifest nameh : List Byte) (ty : Ty) (target : Box) (ss : List StoredShard) : Option (List Byte) :=
  (Manifest.read manifest).bind fun es =>
    if Manifest.ok es (shapeOf ss) then
      ((es.filter fun e => e.nameh == nameh && !target.apart e.box).mapM (neededShard ss ty)).bind fun vs =>
        (target.coords.mapM (restoreElem vs (Shard.elemBytes ty))).map List.flatten
    else none

end Sys2Proof.Machine
end

