-- ==== Sys2Proof/Safety.lean ====
section
/-!
DEFINITION. What counts as a safe run, and the terms the claims use: when an instruction issues, what it is to complete,
and what a state leaves alone of another.
-/

namespace Sys2Proof.Machine

/-- A state whose stores are each in their one form: memory, the context and queue tables, and the measured image. -/
def State.Canonical (s : State) : Prop :=
  s.mem.wf = true ∧ s.ctxTable.wf = true ∧ s.queueTable.wf = true ∧ s.image.wf = true

/-- An outcome that is no stop. -/
def Goes (o : Host.Outcome State Fault Refusal) : Prop := ∃ s, o = .next s

/-- Thread `t` is the issuing thread, and it issues an instruction past steps 7 and 8 of R42: the guard is true, every
source register is full, and no result is still on its way to a destination or a predicate of the instruction. -/
structure Issues (s : State) (t : Thread) (g : Guard) (srcs : List (Src × Nat)) (dsts : List (Reg × Nat))
    (qs : List PredReg) : Prop where
  thread : s.thread? s.issuer = some t
  can : s.canIssue s.issuer t = true
  guardReady : t.predBusy g.q = false
  guard : guardHolds g t = true
  full : firstEmpty t srcs = none
  free : mustWait t dsts qs = false

/-- As `Issues`, and no source register is poisoned. -/
structure Clean (s : State) (t : Thread) (g : Guard) (srcs : List (Src × Nat)) (dsts : List (Reg × Nat))
    (qs : List PredReg) : Prop where
  issues : Issues s t g srcs dsts qs
  clean : firstPoison t srcs = none

/-- As `Clean`, for a float instruction: no source holds a marker that traps, the rounding mode is `m`, and none of the
flags the instruction marks is enabled as a trap. -/
structure FloatClean (s : State) (t : Thread) (g : Guard) (srcs : List (Src × Nat)) (dsts : List (Reg × Nat))
    (qs : List PredReg) (rm : RmField) (m : Rm) (fl : Flags) : Prop where
  clean : Clean s t g srcs dsts qs
  markers : markerTrap t srcs = none
  mode : rmOf t rm = some m
  flags : fpTrap t fl = none

/-- The instruction of the issuing thread completes: `s'` with the thread's PC advanced (R25), the instruction counted,
and a reservation of flits it did not use returned (R274). -/
def Completes (s s' : State) : Host.Outcome State Fault Refusal := .next (State.finish s.issuer (.next s'))

/-- The issuing thread's instruction completes and changes that thread alone. -/
def Writes (s : State) (f : Thread → Thread) : Host.Outcome State Fault Refusal :=
  Completes s (s.modThread s.issuer f)

/-- The instruction of the issuing thread completes, and has itself said where the thread is. -/
def Stays (s s' : State) : Host.Outcome State Fault Refusal := .next (State.finish s.issuer (.stay s'))

/-- The instruction of the issuing thread completes with the PC set. -/
def Jumps (s s' : State) (pc : DWord) : Host.Outcome State Fault Refusal := .next (State.finish s.issuer (.jump s' pc))

/-- The issuing thread leaves the runnable set at its instruction. -/
def Parks (s s' : State) (b : BState) : Host.Outcome State Fault Refusal := .next (State.finish s.issuer (.park s' b))

/-- The issuing thread stays runnable at its instruction, which it issues again. -/
def Holds (s' : State) : Host.Outcome State Fault Refusal := .next s'

/-- The instruction of the issuing thread raises a trap. -/
def Traps (s : State) (t : Trap) : Host.Outcome State Fault Refusal := .next (s.takeTrap s.issuer t)

/-- A float result with its flags: one register written and the flags ORed into FPCTL (R72). -/
def putFloat (d : Reg) (x : Nat × Flags) (t : Thread) : Thread :=
  ({ t with fpctl := orFlags t.fpctl x.2 } : Thread).setReg d (BitVec.ofNat 32 x.1)

end Sys2Proof.Machine
end

