-- ==== Sys2Proof/Certificates/Slice0/Obligations.lean ====
section
/-!
DEFINITION. The statements for the provers, each a proposition about the machine, from the numbered rules of spec/. A
statement of several parts is the conjunction of claims, each of which stands before it with the rules it follows.
-/

open Sys2Proof Sys2Proof.Machine


/-! ## The element core (R60 to R106) -/

/-- R84, R85: a two-source integer instruction reads both sources as integers of its type and writes the exact result
wrapped to the width, or clamped under SAT; nothing of the machine but the destination, the PC and the issue count
changes. -/
def Claim.IntegerArithmetic : Prop :=
  ∀ (s : State) (t : Thread) (g : Guard) (ty : Ty) (sat : Bool) (d : Reg) (a : Src) (b : SrcB),
    Clean s t g (srcA ty a ++ srcB ty b) [(d, tyRegs ty)] [] →
    let put (sat : Bool) (f : Int → Int → Int) := Writes s fun t => t.setRegs d (tyRegs ty)
      (placeInt ty (let x := f (readInt ty (valA t ty a)) (readInt ty (valB t ty b)); if sat then clampI ty x else x)) 0
    exec (.iadd g ty sat d a b) s = put sat (· + ·) ∧ exec (.isub g ty sat d a b) s = put sat (· - ·) ∧
    exec (.imul g ty sat d a b) s = put sat (· * ·) ∧
    exec (.imulh g ty d a b) s = put false (fun x y => x * y / 2 ^ ty.width) ∧
    exec (.imin g ty d a b) s = put false min ∧ exec (.imax g ty d a b) s = put false max ∧
    exec (.idiv g ty d a b) s = put false (fun x y => if y = 0 then (if ty.isSigned then -1 else maxI ty) else x.tdiv y) ∧
    exec (.irem g ty d a b) s = put false (fun x y => if y = 0 then x else x - y * x.tdiv y)

/-- R84: `imad`, `iabs` and `ineg`, as the two-source instructions. -/
def Claim.IntegerMultiplyAddAndSigns : Prop :=
  ∀ (s : State) (t : Thread) (g : Guard) (ty : Ty) (sat : Bool) (d : Reg) (a : Src),
    (∀ (b : SrcB) (c : Src), Clean s t g (srcA ty a ++ srcB ty b ++ srcA ty c) [(d, tyRegs ty)] [] →
      exec (.imad g ty sat d a b c) s = Writes s fun t => t.setRegs d (tyRegs ty) (intResult ty sat
        (readInt ty (valA t ty a) * readInt ty (valB t ty b) + readInt ty (valA t ty c))) 0) ∧
    (Clean s t g (srcA ty a) [(d, tyRegs ty)] [] →
      exec (.iabs g ty sat d a) s = Writes s (fun t =>
        t.setRegs d (tyRegs ty) (intResult ty sat (readInt ty (valA t ty a)).natAbs) 0) ∧
      exec (.ineg g ty sat d a) s = Writes s (fun t =>
        t.setRegs d (tyRegs ty) (intResult ty sat (-readInt ty (valA t ty a))) 0))

/-- R62, R84: what `intResult` leaves in a register reads back, in its type, as the exact result clamped into the type
under SAT, and else as the one integer of the type that is congruent to it modulo 2^w. -/
def Claim.IntegerResultWrapsOrClamps : Prop :=
  ∀ (ty : Ty) (x : Int), ty.isInt = true →
    readInt ty (intResult ty true x) = max (minI ty) (min (maxI ty) x) ∧
    minI ty ≤ readInt ty (intResult ty false x) ∧ readInt ty (intResult ty false x) ≤ maxI ty ∧
    (2 ^ ty.width : Int) ∣ x - readInt ty (intResult ty false x) ∧
    intResult ty false x < 2 ^ (32 * tyRegs ty)

/-- Integer instructions write the exact result, wrapped or clamped into their type. -/
def Obligations.IntegerArithmetic : Prop :=
  Claim.IntegerArithmetic ∧ Claim.IntegerMultiplyAddAndSigns ∧ Claim.IntegerResultWrapsOrClamps

/-- R86 to R88: the bitwise, shift, count and reverse instructions of 32-bit types, in the terms of bit vectors: a
shift takes its amount modulo 32. -/
def Claim.WordBitwiseAndShifts : Prop :=
  ∀ (s : State) (t : Thread) (g : Guard) (ty : Ty) (d : Reg) (a : Src) (b : Src), ty.isBits = true → ty.is64 = false →
    let put (f : Word → Word → Word) := Writes s fun t => t.setReg d (f (t.reg a.reg) (t.reg b.reg)) false
    (Clean s t g [(a, 1), (b, 1)] [(d, 1)] [] →
      exec (.and g ty d a (.reg b)) s = put (· &&& ·) ∧ exec (.or g ty d a (.reg b)) s = put (· ||| ·) ∧
      exec (.xor g ty d a (.reg b)) s = put (· ^^^ ·) ∧
      exec (.shl g ty d a (.reg b)) s = put (fun x y => x <<< (y.toNat % 32)) ∧
      exec (.shr g ty d a (.reg b)) s = put (fun x y => x >>> (y.toNat % 32)) ∧
      exec (.sra g ty d a (.reg b)) s = put (fun x y => x.sshiftRight (y.toNat % 32)) ∧
      exec (.rot g ty d a (.reg b)) s = put (fun x y => x.rotateLeft (y.toNat % 32))) ∧
    (Clean s t g [(a, 1)] [(d, 1)] [] → exec (.not g ty d a) s = put (fun x _ => ~~~x))

/-- R86 to R88, every type and an immediate B: the results as numbers. -/
def Claim.BitwiseAndShiftResults : Prop :=
  ∀ (s : State) (t : Thread) (g : Guard) (ty : Ty) (d : Reg) (a : Src) (b : SrcB),
    let w := ty.width
    (Clean s t g (srcA ty a ++ srcB ty b) [(d, tyRegs ty)] [] →
      let put (f : Nat → Nat → Nat) := Writes s fun t => t.setRegs d (tyRegs ty) (f (valA t ty a) (valB t ty b)) 0
      exec (.and g ty d a b) s = put (· &&& ·) ∧ exec (.or g ty d a b) s = put (· ||| ·) ∧
      exec (.xor g ty d a b) s = put (· ^^^ ·)) ∧
    (Clean s t g (srcA ty a ++ srcB32 b) [(d, tyRegs ty)] [] →
      let put (f : Nat → Nat → Nat) := Writes s fun t => t.setRegs d (tyRegs ty) (f (valA t ty a) (valB32 t b % w)) 0
      exec (.shl g ty d a b) s = put (fun x k => x * 2 ^ k % 2 ^ w) ∧ exec (.shr g ty d a b) s = put (fun x k => x / 2 ^ k) ∧
      exec (.sra g ty d a b) s = put (sraBits w) ∧
      exec (.rot g ty d a b) s = put (fun x k => (x * 2 ^ k + x / 2 ^ (w - k)) % 2 ^ w)) ∧
    (Clean s t g (srcA ty a) [(d, tyRegs ty)] [] →
      exec (.not g ty d a) s = Writes s (fun t => t.setRegs d (tyRegs ty) (2 ^ w - 1 - valA t ty a) 0) ∧
      exec (.brev g ty d a) s = Writes s (fun t => t.setRegs d (tyRegs ty) (revBits w (valA t ty a)) 0)) ∧
    (Clean s t g (srcA ty a) [(d, 1)] [] →
      exec (.popc g ty d a) s = Writes s (fun t => t.setReg d (BitVec.ofNat 32 (popCount w (valA t ty a)))) ∧
      exec (.clz g ty d a) s = Writes s (fun t => t.setReg d (BitVec.ofNat 32 (leadingZeros w (valA t ty a)))) ∧
      exec (.ctz g ty d a) s = Writes s (fun t => t.setReg d (BitVec.ofNat 32 (trailingZeros w (valA t ty a)))))

/-- R89: field extract and insert; the control holds pos in bits 7 to 0 and len in bits 15 to 8. -/
def Claim.BitFieldResults : Prop :=
  ∀ (s : State) (t : Thread) (g : Guard) (ty : Ty) (d : Reg) (a : Src) (b : SrcB),
    (Clean s t g (srcA ty a ++ srcB32 b) [(d, tyRegs ty)] [] →
      exec (.bfx g ty d a b) s = Writes s fun t => t.setRegs d (tyRegs ty) (fieldOut ty (valA t ty a) (valB32 t b)) 0) ∧
    ∀ c : Src, Clean s t g (srcA ty a ++ srcB ty b ++ [(c, 1)]) [(d, tyRegs ty)] [] →
      exec (.bfi g ty d a b c) s = Writes s fun t =>
        t.setRegs d (tyRegs ty) (fieldIn ty (valA t ty a) (valB t ty b) (t.reg c.reg).toNat) 0

/-- R88, R89: bit by bit, what the count, reverse and field operations on `w` bits give. -/
def Claim.BitFieldsBitByBit : Prop :=
  (∀ (w x : Nat), x < 2 ^ w →
    (∀ i, i < w → (revBits w x).testBit i = x.testBit (w - 1 - i)) ∧
    (x ≠ 0 → x.testBit (w - 1 - leadingZeros w x) = true ∧ ∀ i, w - leadingZeros w x ≤ i → x.testBit i = false) ∧
    (x ≠ 0 → x.testBit (trailingZeros w x) = true ∧ ∀ i, i < trailingZeros w x → x.testBit i = false) ∧
    leadingZeros w 0 = w ∧ trailingZeros w 0 = w) ∧
  ∀ (ty : Ty) (x y ctl : Nat), x < 2 ^ ty.width → ∀ i, i < ty.width →
    let pos := ctl % 256
    let len := ctl / 256 % 256
    (fieldIn ty x y ctl).testBit i = (if pos ≤ i ∧ i < pos + len then y.testBit (i - pos) else x.testBit i) ∧
    (i < len → (fieldOut ty x ctl).testBit i = x.testBit (pos + i)) ∧
    (ty ≠ .i32 → ty ≠ .i64 → len ≤ i → (fieldOut ty x ctl).testBit i = false)

/-- Bitwise, shift, count, reverse and field instructions, as vectors, as numbers and bit by bit. -/
def Obligations.BitInstructions : Prop :=
  Claim.WordBitwiseAndShifts ∧ Claim.BitwiseAndShiftResults ∧ Claim.BitFieldResults ∧ Claim.BitFieldsBitByBit

/-- R90, R91, R92, R93, R32: compare, select, move, constants, address formation, and `nop`. -/
def Obligations.ComparesMovesAndAddresses : Prop :=
  ∀ (s : State) (t : Thread) (g : Guard) (ty : Ty) (d : Reg) (a : Src) (b : SrcB),
    (∀ (cc : ICond) (qd : PredReg), Clean s t g (srcA ty a ++ srcB ty b) [] [qd] →
      exec (.icmp g cc ty qd a b) s = Writes s fun t =>
        t.setPred qd (icond cc (readInt ty (valA t ty a)) (readInt ty (valB t ty b)))) ∧
    (∀ qk : PredReg, Issues s t g (srcA ty a ++ srcB ty b) [(d, tyRegs ty)] [qk] →
      exec (.sel g ty d a b qk) s = Writes s fun t =>
        if t.pred qk then t.setRegs d (tyRegs ty) (valA t ty a) (poisA t a (tyRegs ty))
        else t.setRegs d (tyRegs ty) (valB t ty b) (poisB t b (tyRegs ty))) ∧
    (Issues s t g (srcA ty a) [(d, tyRegs ty)] [] →
      exec (.mov g ty d a) s = Writes s fun t => t.setRegs d (tyRegs ty) (valA t ty a) (poisA t a (tyRegs ty))) ∧
    (∀ x : Word, Issues s t g [] [(d, tyRegs ty)] [] →
      exec (.movi g ty d x) s = Writes s fun t => t.setRegs d (tyRegs ty) (immB ty x) 0) ∧
    (∀ (k : BitVec 3) (i : Src) (off : Word), Clean s t g [(a, 2), (i, 1)] [(d, 2)] [] →
      exec (.lea g ty k d a i off) s = Writes s fun t => t.setRegs d 2
        (t.reg64 a.reg + ((if ty = .i32 then (t.reg i.reg).signExtend 64 else (t.reg i.reg).zeroExtend 64) <<< k.toNat) +
          off.signExtend 64).toNat 0) ∧
    (Issues s t { neg := false, q := 0 } [] [] [] → exec .nop s = Completes s s)

/-- R94, R95, R97, R100, R101, R103: a float instruction that rounds. Each element's result is the exact operation on the
values of the sources, rounded once by RoundTo; the flags of sources, operation and rounding are ORed into FPCTL. The results
of fexp2, flog2, fsinpi and fcospi are rounded from series within 2^-400 of the exact value: that this is the exact value's
rounding is presumed (log entry 7). -/
def Obligations.FloatRoundedResults : Prop :=
  ∀ (s : State) (t : Thread) (g : Guard) (ty : Ty) (rm : RmField) (m : Rm) (sat : Bool) (d : Reg) (a : Src) (b : SrcB),
    let one (f : XVal → XVal × Flags) (sat : Bool) : Nat × Flags :=
      rounded ty sat m (fun vs => f (vs.getD 0 .nan)) [(t.reg a.reg).toNat]
    let two (f : XVal → XVal → XVal × Flags) : Nat × Flags :=
      rounded ty sat m (fun vs => f (vs.getD 0 .nan) (vs.getD 1 .nan)) [(t.reg a.reg).toNat, valFB t b]
    let is1 (i : Instr) (x : Nat × Flags) : Prop :=
      FloatClean s t g [(a, 1)] [(d, 1)] [] rm m x.2 → exec i s = Writes s (putFloat d x)
    let is2 (i : Instr) (x : Nat × Flags) : Prop :=
      FloatClean s t g (floatSrcs a b) [(d, 1)] [] rm m x.2 → exec i s = Writes s (putFloat d x)
    is2 (.fadd g ty rm sat d a b) (two fun x y => exactSum [x, y] m) ∧
    is2 (.fsub g ty rm sat d a b) (two fun x y => exactSum [x, y.neg] m) ∧
    is2 (.fmul g ty rm sat d a b) (two prod) ∧ is2 (.fdiv g ty rm sat d a b) (two divV) ∧
    is2 (.fscale g ty rm sat d a b)
      (one (fun x => (x.scale (readInt (if ty = .f32 then .i32 else .i16) (valFB t b)), 0)) sat) ∧
    is1 (.fsqrt g ty rm sat d a) (one sqrtV sat) ∧ is1 (.frcp g ty rm sat d a) (one rcpV sat) ∧
    is1 (.frsq g ty rm sat d a) (one rsqV sat) ∧ is1 (.fexp2 g ty rm sat d a) (one exp2V sat) ∧
    is1 (.flog2 g ty rm sat d a) (one log2V sat) ∧ is1 (.fsinpi g ty rm sat d a) (one sinpiV sat) ∧
    is1 (.fcospi g ty rm sat d a) (one cospiV sat) ∧
    is1 (.fround g ty rm d a) (one (integral m false) false) ∧
    is1 (.froundExact g ty rm d a) (one (integral m true) false) ∧
    ∀ c : Src,
      let x : Nat × Flags := rounded ty sat m (fun vs =>
        let p := prod (vs.getD 0 .nan) (vs.getD 1 .nan)
        let z := exactSum [p.1, vs.getD 2 .nan] m
        (z.1, p.2 ||| z.2)) [(t.reg a.reg).toNat, valFB t b, (t.reg c.reg).toNat]
      FloatClean s t g (floatSrcs a b ++ [(c, 1)]) [(d, 1)] [] rm m x.2 →
        exec (.fma g ty rm sat d a b c) s = Writes s (putFloat d x)

/-- R96, R97, R98, R99, R102: the float instructions that do not round. -/
def Claim.FloatSelectionAndClass : Prop :=
  ∀ (s : State) (t : Thread) (g : Guard) (ty : Ty) (d : Reg) (a : Src) (b : SrcB),
    let w := ty.format.width
    let x := (t.reg a.reg).toNat
    let is (srcs : List (Src × Nat)) (i : Instr) (x : Nat × Flags) : Prop :=
      FloatClean s t g srcs [(d, 1)] [] .rne .rne x.2 → exec i s = Writes s (putFloat d x)
    let pick (isMax : Bool) : Nat × Flags := elements ty (fun xs =>
      let p := xs.getD 0 0 % 2 ^ w
      let q := xs.getD 1 0 % 2 ^ w
      (minMaxBits ty.format isMax p q, (ty.format.val p).2 ||| (ty.format.val q).2)) [x, valFB t b]
    is (floatSrcs a b) (.fmin g ty d a b) (pick false) ∧ is (floatSrcs a b) (.fmax g ty d a b) (pick true) ∧
    is [(a, 1)] (.fabs g ty d a) (elements ty (fun xs => (xs.getD 0 0 % 2 ^ w % 2 ^ (w - 1), 0)) [x]) ∧
    is [(a, 1)] (.fneg g ty d a) (elements ty (fun xs => (xs.getD 0 0 % 2 ^ w ^^^ 2 ^ (w - 1), 0)) [x]) ∧
    is [(a, 1)] (.fclass g ty d a) (classMask ty.format x, 0) ∧
    is [(a, 1)] (.fexpo g ty d a) (exponentOf (ty.format.val x).1) ∧
    ∀ (cc : FCond) (qd : PredReg),
      let r := fcond cc (ty.format.val x) (ty.format.val (valFB t b))
      FloatClean s t g (floatSrcs a b) [] [qd] .rne .rne r.2 →
        exec (.fcmp g cc ty qd a b) s = Writes s fun th =>
          ({ th with fpctl := orFlags th.fpctl r.2 } : Thread).setPred qd r.1

/-- R104, R105, R106: conversions. Between two integer types `cvt` neither checks markers nor rounds. -/
def Claim.ConversionResults : Prop :=
  ∀ (s : State) (t : Thread) (g : Guard) (ty sty : Ty) (rm : RmField) (m : Rm) (sat : Bool) (d : Reg) (a b : Src),
    (let x := elements ty (fun xs => convert ty sty m sat (xs.getD 0 0)) [valA t sty a];
      Clean s t g (srcA sty a) [(d, tyRegs ty)] [] → (sty.isInt = false → markerTrap t (srcA sty a) = none) →
      (if ty.isInt && sty.isInt then m = .rne else rmOf t rm = some m) → fpTrap t x.2 = none →
      exec (.cvt g ty sty rm sat d a) s = Writes s fun th =>
        ({ th with fpctl := orFlags th.fpctl x.2 } : Thread).setRegs d (tyRegs ty) x.1 0) ∧
    (Issues s t g [(a, 1), (b, 1)] [(d, 1)] [] →
      exec (.pack g .b32 rm sat d a b) s = Writes s (fun t => t.setReg d
        (((t.reg b.reg).extractLsb' 0 16 : BitVec 16) ++ ((t.reg a.reg).extractLsb' 0 16 : BitVec 16) : Word)
        (t.isPois a.reg || t.isPois b.reg))) ∧
    (Issues s t g [(a, 1)] [(d, 2)] [] →
      exec (.unpack g .b32 d a) s = Writes s fun t =>
        (t.setReg d (((t.reg a.reg).extractLsb' 0 16).zeroExtend 32) (t.isPois a.reg)).setReg (d + 1)
          (((t.reg a.reg).extractLsb' 16 16).zeroExtend 32) (t.isPois a.reg)) ∧
    (ty ≠ .b32 →
      let e (r : Reg) : Nat × Flags :=
        let v := fmtF32.val (t.reg r).toNat
        let y := ty.format.round v.1 m sat
        (y.1, v.2 ||| y.2)
      FloatClean s t g [(a, 1), (b, 1)] [(d, 1)] [] rm m ((e a.reg).2 ||| (e b.reg).2) →
      exec (.pack g ty rm sat d a b) s =
        Writes s (putFloat d ((e a.reg).1 + (e b.reg).1 * 2 ^ 16, (e a.reg).2 ||| (e b.reg).2))) ∧
    (ty ≠ .b32 →
      let lo := ty.format.val ((t.reg a.reg).toNat % 2 ^ 16)
      let hi := ty.format.val ((t.reg a.reg).toNat / 2 ^ 16)
      FloatClean s t g [(a, 1)] [(d, 2)] [] .rne .rne (lo.2 ||| hi.2) →
      exec (.unpack g ty d a) s = Writes s fun th =>
        ({ th with fpctl := orFlags th.fpctl (lo.2 ||| hi.2) } : Thread).setRegs d 2
          ((fmtF32.round lo.1 .rne false).1 + (fmtF32.round hi.1 .rne false).1 * 2 ^ 32) 0)


/-- Float instructions that do not round, and conversions between types. -/
def Obligations.FloatSelectionAndConversion : Prop :=
  Claim.FloatSelectionAndClass ∧ Claim.ConversionResults


/-! ## Cross-lane instructions, control flow and control registers (R226 to R265) -/

/-- R226, R257 to R265: a thread that issues a cross-lane instruction brings its value, its predicate and its mode to
the instance at its PC and segment and waits there; one whose guard is false arrives as inactive. -/
def Claim.CrossLaneInstructionsArrive : Prop :=
  ∀ (s : State) (t : Thread) (g : Guard) (ty : Ty) (d : Reg) (a : Src),
    let r := s.issuer
    let arrive (i : Instr) (f : Arrival → Arrival) := Stays s (s.arriveX r t.pc (f (arrivalOf r i)))
    let va (x : Arrival) : Arrival := { x with a := BitVec.ofNat 64 (valA t ty a) }
    let marked (x : Arrival) : Arrival := { va x with apois := (poisA t a (tyRegs ty)).extractLsb' 0 2 }
    (∀ k, t.kept = some k → k.pc ≠ t.pc) →
    (∀ (mode : ShflMode) (b : SrcB), Issues s t g (srcA ty a ++ srcB32 b) [(d, tyRegs ty)] [] →
      exec (.shfl g mode ty d a b) s =
        arrive (.shfl g mode ty d a b) (fun x => { marked x with b := BitVec.ofNat 32 (valB32 t b) })) ∧
    (∀ (mode : VoteMode) (qd qa : PredReg), Issues s t g [] [] [qd, qa] →
      exec (.vote g mode qd qa) s = arrive (.vote g mode qd qa) (fun x => { x with q := t.pred qa })) ∧
    (∀ (qa : PredReg) (w : BitVec 2), Issues s t g [] [(d, 1)] [qa] →
      exec (.voteBallot g d qa w) s = arrive (.voteBallot g d qa w) (fun x => { x with q := t.pred qa })) ∧
    (∀ (op : RedOp) (excl : Bool) (rm : RmField), Clean s t g (srcA ty a) [(d, tyRegs ty)] [] →
      (ty.isFloat = true → markerTrap t [(a, 1)] = none) → (op.rounds ty = true → (rmOf t rm).isSome = true) →
      let moded (x : Arrival) : Arrival := { va x with rm := ((rmOf t rm).map rmStatic).getD .rne }
      exec (.redux g op ty rm d a) s = arrive (.redux g op ty rm d a) moded ∧
      exec (.scanx g op excl ty rm d a) s = arrive (.scanx g op excl ty rm d a) moded) ∧
    (∀ mode : BcastMode, Issues s t g (srcA ty a) [(d, tyRegs ty)] [] →
      exec (.bcast g mode ty d a) s = arrive (.bcast g mode ty d a) marked) ∧
    (∀ mode : MatchMode, Clean s t g (srcA ty a) [(d, 1)] [] →
      exec (.matchLanes g mode ty d a) s = arrive (.matchLanes g mode ty d a) va) ∧
    (∀ mode : LanesMode, Issues s t g [] [(d, 1)] [] →
      exec (.lanes g mode d) s = arrive (.lanes g mode d) id)

/-- R226: guard false, the thread arrives as inactive, with nothing read. -/
def Claim.FalseGuardArrivesInactive : Prop :=
  ∀ (s : State) (t : Thread) (g : Guard) (i : Instr), s.thread? s.issuer = some t →
    s.canIssue s.issuer t = true → t.predBusy g.q = false → guardHolds g t = false →
    ((∃ m ty d a b, i = .shfl g m ty d a b) ∨ (∃ m q p, i = .vote g m q p) ∨ (∃ d q w, i = .voteBallot g d q w) ∨
      (∃ o ty rm d a, i = .redux g o ty rm d a) ∨ (∃ o e ty rm d a, i = .scanx g o e ty rm d a) ∨
      (∃ m ty d a, i = .bcast g m ty d a) ∨ (∃ m ty d a, i = .matchLanes g m ty d a) ∨ (∃ m d, i = .lanes g m d)) →
    exec i s = Stays s (s.arriveX s.issuer t.pc { arrivalOf s.issuer i with active := false })

/-- A cross-lane instruction arrives at its instance, as inactive when its guard is false. -/
def Obligations.CrossLaneArrivals : Prop :=
  Claim.CrossLaneInstructionsArrive ∧ Claim.FalseGuardArrivesInactive

/-- R259 to R265: the result of an active participant at position `pos` of an instance of width `w`, where `act` holds
the active participants by position, rising. `shfl` and `bcast` copy a participant's value with its marks, and the own value
where the source position is outside the segment or holds no active participant; that a value travels with its marks and a
poisoned index marks nothing is the model's reading (log entry 27). -/
def Obligations.CrossLaneResults : Prop :=
  ∀ (x : Arrival) (pos w grant : Nat) (act : List (Nat × Arrival)) (g : Guard) (ty : Ty) (d : Reg) (a : Src),
    let res (i : Instr) := xresult { x with instr := i } pos w grant act
    let own (y : Arrival) : XResult := .value (maskTy ty y.a) (y.apois.zeroExtend 4)
    let terms (l : List (Nat × Arrival)) : List Int := l.map fun y => readInt ty (maskTy ty y.2.a)
    (∀ (y : Arrival) (b : SrcB) (p : Nat), lookup act p = some y → p < w →
      (x.b.toNat = p → res (.shfl g .idx ty d a b) = own y) ∧
      (pos = p + x.b.toNat → res (.shfl g .up ty d a b) = own y) ∧
      (p = pos + x.b.toNat → res (.shfl g .down ty d a b) = own y) ∧
      (p = pos ^^^ x.b.toNat → res (.shfl g .xor ty d a b) = own y)) ∧
    (∀ (b : SrcB) (p : Nat), (p < w → lookup act p = none) →
      (x.b.toNat = p → res (.shfl g .idx ty d a b) = own x) ∧
      (pos = p + x.b.toNat → res (.shfl g .up ty d a b) = own x) ∧
      (p = pos + x.b.toNat → res (.shfl g .down ty d a b) = own x) ∧
      (p = pos ^^^ x.b.toNat → res (.shfl g .xor ty d a b) = own x)) ∧
    (∀ b : SrcB, pos < x.b.toNat → res (.shfl g .up ty d a b) = own x) ∧
    (∀ qd qa : PredReg,
      (res (.vote g .all qd qa) = .pred true ↔ ∀ y ∈ act, y.2.q = true) ∧
      (res (.vote g .any qd qa) = .pred true ↔ ∃ y ∈ act, y.2.q = true) ∧
      (res (.vote g .uni qd qa) = .pred true ↔ (∀ y ∈ act, y.2.q = true) ∨ ∀ y ∈ act, y.2.q = false)) ∧
    (∀ (qa : PredReg) (k : BitVec 2), (act.map Prod.fst).Pairwise (· < ·) →
      ∃ v, res (.voteBallot g d qa k) = .value v 0 ∧ v < 2 ^ 32 ∧
        ∀ i < 32, v.testBit i = true ↔ ∃ y, (32 * k.toNat + i, y) ∈ act ∧ y.q = true) ∧
    (∀ (op : RedOp) (excl : Bool) (rm : RmField) (l : List (Nat × Arrival)) (r : XResult),
      let bit (y : Nat × Arrival) (i : Nat) : Bool := (maskTy ty y.2.a).testBit i
      let vals := l.map fun y => ty.format.val (maskTy ty y.2.a % 2 ^ ty.format.width)
      (l = act ∧ r = res (.redux g op ty rm d a)) ∨
        (l = act.filter (fun y => y.1 < pos || (y.1 = pos && !excl)) ∧ r = res (.scanx g op excl ty rm d a)) →
      (ty.isInt = true → (op = .add → r = .value (placeInt ty (terms l).sum) 0) ∧
        (op = .min → ∀ m ∈ terms l, (∀ v ∈ terms l, m ≤ v) → r = .value (placeInt ty m) 0) ∧
        (op = .max → ∀ m ∈ terms l, (∀ v ∈ terms l, v ≤ m) → r = .value (placeInt ty m) 0) ∧
        (op = .min → l = [] → r = .value (placeInt ty (maxI ty)) 0) ∧
        (op = .max → l = [] → r = .value (placeInt ty (minI ty)) 0)) ∧
      (ty.isFloat = false → op = .and ∨ op = .or ∨ op = .xor → ∃ v, r = .value v 0 ∧ ∀ i < ty.width,
        v.testBit i = match op with
          | .and => l.all fun y => bit y i
          | .or => l.any fun y => bit y i
          | _ => (l.countP fun y => bit y i) % 2 == 1) ∧
      (ty.isFloat = true → op = .add → ∃ fl, r = .exact (exactSum (vals.map Prod.fst) (arrivalRm x)).1 fl) ∧
      (ty.isFloat = true → op = .max →
        ∃ fl, r = .exact (ty.format.val (reduceMinMax ty.format true (l.map fun y => maskTy ty y.2.a % 2 ^ ty.format.width))).1 fl) ∧
      (ty.isFloat = true → op = .min →
        ∃ fl, r = .exact (ty.format.val (reduceMinMax ty.format false (l.map fun y => maskTy ty y.2.a % 2 ^ ty.format.width))).1 fl)) ∧
    (∀ y z, act.head? = some y → act.getLast? = some z →
      res (.bcast g .first ty d a) = own y.2 ∧ res (.bcast g .last ty d a) = own z.2) ∧
    res (.lanes g .pos d) = .value pos 0 ∧ res (.lanes g .count d) = .value act.length 0 ∧
    res (.lanes g .rank d) = .value (act.filter fun y => y.1 < pos).length 0 ∧
    res (.lanes g .grant d) = .value grant 0 ∧
    res (.matchLanes g .count ty d a) =
      .value (act.filter fun y => maskTy ty y.2.a == maskTy ty x.a).length 0 ∧
    ∀ y, (act.filter fun y => maskTy ty y.2.a == maskTy ty x.a).head? = some y →
      res (.matchLanes g .first ty d a) = .value y.1 0

/-- R226, R227, R224, R251, R258, R384, R383: an instance completes when every thread of its segment that has not exited has
arrived; every inactive participant goes on, and every active one receives its result, all in one step. The threads whose
joins at a PC are satisfied go on together. Both while the cores run, and each thread that goes on counts as an instruction
issued. `setw` completes and leaves the width requested for the task of a user thread; a Caster thread's leaves none. -/
def Claim.InstancesAndJoinsComplete : Prop :=
  (∀ (s : State) (core place : Nat) (pc : DWord) (base : Nat) (i : Instance),
    (s.insts core place).find? (fun i => i.pc == pc && i.base == base) = some i →
    s.instFull core place i = true → s.coresRun = true →
    exec (.crossLaneComplete core place pc base) s = .next ((State.activeOf i).foldl
      (fun s' (x : Nat × Arrival) => s'.putResult { core, who := whoOf place x.2.tidx } i.pc x.2
        (xresult x.2 x.1 i.width (s.groupGrant core place) (State.activeOf i)))
      (i.arrivals.foldl
        (fun s' a =>
          let r : ThreadRef := { core, who := whoOf place a.tidx }
          if a.active then s'
          else (s'.modThread r fun t => { t with pc := nextPC i.pc, state := .runnable, wait := 0 }).countIssue r)
        (s.modInsts core place fun l => l.filter fun j => !(j.pc == i.pc && j.base == i.base))))) ∧
  (∀ (s : State) (core place : Nat) (pc : DWord), s.coresRun = true →
    exec (.joinRelease core place pc) s = .next ((s.joinReleased core place pc).foldl (fun s n =>
      let r : ThreadRef := { core, who := whoOf place n }
      (s.modThread r fun t => { t with pc := nextPC pc, state := .runnable, wait := 0 }).countIssue r) s)) ∧
  (∀ (s : State) (t : Thread) (g : Guard) (place tidx : Nat) (w : Word), s.issuer.who = .user place tidx →
    Issues s t g [] [] [] →
    exec (.setw g w) s = Completes s (s.modTask s.issuer.core place fun k => { k with setw := some w.toNat })) ∧
  ∀ (s : State) (t : Thread) (g : Guard) (n : Nat) (w : Word), s.issuer.who = .caster n → Issues s t g [] [] [] →
    exec (.setw g w) s = Completes s s

/-- R251: the set released from a join at a PC is the largest set of threads waiting there such that every member's
named threads that have not exited are in it. -/
def Claim.JoinReleasesTheLargestSatisfiedSet : Prop :=
  ∀ (s : State) (core place : Nat) (pc : DWord),
    let live (set : JoinSet) := s.liveMembers core place (State.joinHas set)
    let out := s.joinReleased core place pc
    let waits := s.waitingAt core place pc
    (∀ n ∈ out, ∃ set, (n, set) ∈ waits ∧ ∀ m ∈ live set, m ∈ out) ∧
    ∀ w : List Nat, (∀ n ∈ w, ∃ set, (n, set) ∈ waits ∧ ∀ m ∈ live set, m ∈ w) → ∀ n ∈ w, n ∈ out

/-- Instances complete, joins release the largest set whose members all wait, and setw leaves its width. -/
def Obligations.InstancesAndJoins : Prop :=
  Claim.InstancesAndJoinsComplete ∧ Claim.JoinReleasesTheLargestSatisfiedSet

/-- R249, R250: a transfer whose target passes R27 sets the PC; a call writes the link pair v62:v63 with the address
of the next instruction. `s₁` is the state after the target's line was looked at. -/
def Claim.TransfersOfControl : Prop :=
  ∀ (s s₁ : State) (t : Thread) (g : Guard) (imm : Word) (a : Src),
    let link (s : State) : State := s.modThread s.issuer fun th => th.setRegs 62 2 (nextPC t.pc).toNat 0
    s₁.issuer = s.issuer →
    (s.checkTarget s.issuer (relTarget t.pc imm) = (.ok, s₁) →
      (Issues s t g [] [] [] → exec (.bra g imm) s = Jumps s s₁ (relTarget t.pc imm)) ∧
      (Issues s t g [] [(62, 2)] [] → exec (.call g imm) s = Jumps s (link s₁) (relTarget t.pc imm))) ∧
    (s.checkTarget s.issuer (t.reg64 a.reg) = (.ok, s₁) →
      (Clean s t g [(a, 2)] [] [] → exec (.brx g a) s = Jumps s s₁ (t.reg64 a.reg)) ∧
      (Clean s t g [(a, 2)] [(62, 2)] [] → exec (.callR g a) s = Jumps s (link s₁) (t.reg64 a.reg))) ∧
    (s.checkTarget s.issuer (t.reg64 62) = (.ok, s₁) →
      Clean s t g [({ reg := 62, trap := false }, 2)] [] [] → exec (.ret g) s = Jumps s s₁ (t.reg64 62))

/-- R251 to R253: a thread at a join waits with its set; `yield` defers its thread; `exit` of a thread with nothing
outstanding ends it, with its Crucibles released, its copies' ids freed, its subscriptions dropped and its open
cross-lane instances left. -/
def Claim.JoinsYieldAndExit : Prop :=
  ∀ (s : State) (t : Thread) (g : Guard),
    let r := s.issuer
    let width := s.segWidth r.core (keyOf r.who).1
    let waitAt (set : JoinSet) := Stays s (s.modThread r fun t => { t with state := .join set, wait := 0 })
    (Issues s t g [] [] [] →
      exec (.joinSeg g) s = waitAt (.seg ((keyOf r.who).2 / width * width) width) ∧
      exec (.joinTask g) s = waitAt .task ∧
      exec (.yield g) s = Writes s (fun t => { t with yielded := true })) ∧
    (∀ (a : Src) (base : BitVec 10), Clean s t g [(a, 1)] [] [] →
      exec (.joinM g a base) s = waitAt (.mask base.toNat (t.reg a.reg))) ∧
    ∀ place tidx, r.who = .user place tidx → Issues s t g [] [] [] → t.pend = [] → t.queue = [] →
      s.peerOpen r = false → copyOpen s r = false →
      exec (.exit g) s =
        let s₁ := (freeCopies (s.exitCrus r.core place tidx) r).unsubscribe r.core (place, tidx) fun _ => true
        Stays s ((s₁.leaveInsts r).modThread r fun t => { t with exited := true, signal := none, wait := 0 })

/-- Branches, calls and returns set the PC; joins, yield and exit. -/
def Obligations.ControlFlow : Prop :=
  Claim.TransfersOfControl ∧ Claim.JoinsYieldAndExit

/-- R255, R256, R314, R384: what `ctlrd` writes for every register it may read, for a thread of a task and for a Caster thread,
which belongs to none; a user thread's read of a register of the system raises PRIV, and a number of no register ILLEGAL
0x09. -/
def Claim.ControlRegistersRead : Prop :=
  ∀ (s : State) (t : Thread) (g : Guard) (d : Reg) (creg : BitVec 12),
    let r := s.issuer
    let reads (v : Nat) := exec (.ctlrd g d creg) s = Writes s fun t => t.setRegs d (ctlWords creg) v 0
    Issues s t g [] [(d, ctlWords creg)] [] →
    (creg = 0x001 → reads t.fpctl.toNat) ∧ (creg = 0x010 → reads s.cycle.toNat) ∧ (creg = 0x00C → reads r.core) ∧
    (creg = 0x00D → reads (if s.part.fab then s.regs.devNo.toNat else 0)) ∧ (creg = 0x040 → reads s.part.feat.toNat) ∧
    (∀ place tidx k, r.who = .user place tidx → s.task? r.core place = some k → place ≠ casterPlace →
      (creg = 0x002 → reads k.grant) ∧ (creg = 0x003 → reads k.segw) ∧ (creg = 0x004 → reads (tidx % k.grant)) ∧
      (creg = 0x005 → reads tidx) ∧ (creg = 0x006 → reads k.threads.length) ∧ (creg = 0x008 → reads k.coord.1.toNat) ∧
      (creg = 0x009 → reads k.coord.2.1.toNat) ∧ (creg = 0x00A → reads k.coord.2.2.toNat) ∧
      (creg = 0x00B → reads k.lid.toNat) ∧ (creg = 0x020 → reads k.watch0.addr.toNat) ∧
      (creg = 0x021 → reads k.watch0.ctl.toNat) ∧ (creg = 0x022 → reads k.watch1.addr.toNat) ∧
      (creg = 0x023 → reads k.watch1.ctl.toNat)) ∧
    (∀ place tidx, r.who = .user place tidx → 0x800 ≤ creg.toNat → exec (.ctlrd g d creg) s = Traps s privTrap) ∧
    (0x041 ≤ creg.toNat → creg.toNat < 0x800 → exec (.ctlrd g d creg) s = Traps s { kind := .illegal, sub := 0x09 }) ∧
    (∀ n c k, r.who = .caster n → s.core? r.core = some c → c.casters[n]? = some k →
      (creg = 0x002 → reads 8) ∧ (creg = 0x003 → reads 0) ∧ (creg = 0x004 → reads (n % 8)) ∧ (creg = 0x005 → reads n) ∧
      (creg = 0x006 → reads 8) ∧ (creg ∈ [0x008, 0x009, 0x00A, 0x00B, 0x020, 0x021, 0x022, 0x023] → reads 0) ∧
      (0x80C ≤ creg.toNat → exec (.ctlrd g d creg) s = Traps s { kind := .illegal, sub := 0x09 }) ∧
      (creg = 0x800 → reads (k.arg.toNat * 2 ^ 32 + k.cause.toNat * 16 + 1)) ∧ (creg = 0x801 → reads c.asid.toNat) ∧
      (creg = 0x802 → reads c.kslot.toNat) ∧ (creg = 0x803 → reads c.ptroot.toNat) ∧
      (creg = 0x804 → reads c.forebase.toNat) ∧ (creg = 0x805 → reads c.callring.toNat) ∧
      (creg = 0x806 → reads c.sigvec.toNat) ∧ (creg = 0x807 → reads (((State.shownRecords c).head?.map FaultRec.w0).getD 0)) ∧
      (creg = 0x808 → reads (min (c.stalled.filter FaultRec.shown).length 255 * 256 + (State.shownRecords c).length)) ∧
      (creg = 0x809 → reads (s.keySlot c.kslot.toNat).ctr.toNat) ∧ (creg = 0x80A → reads (healthWord s)) ∧
      (creg = 0x80B → reads (planStat s).toNat))

/-- R255, R256, R225, R314, R348, R384: what a write of a control register leaves, from a register and from an immediate value;
a write of SEGW with the value it has changes nothing. One of a value SEGW cannot hold raises ILLEGAL 0x03, one of a register
that is only read, or of a task's register by a Caster thread, ILLEGAL 0x0A, one of a number of no register ILLEGAL 0x09, and
a user thread's write of a register of the system PRIV. -/
def Claim.ControlRegistersWritten : Prop :=
  ∀ (s s' : State) (t : Thread) (g : Guard) (creg : BitVec 12) (a : Src) (n : BitVec 20) (v : Nat),
    let r := s.issuer
    let both (o : Host.Outcome State Fault Refusal) : Prop :=
      (Clean s t g [(a, ctlWords creg)] [] [] → v = t.regsNat a.reg (ctlWords creg) → exec (.ctlwr g creg a) s = o) ∧
      (Issues s t g [] [] [] → v = n.toNat → exec (.ctlwrImm g creg n) s = o)
    let refused (sub : Byte) := both (Traps s { kind := .illegal, sub })
    let readOnly : List (BitVec 12) := [0x002, 0x004, 0x005, 0x006, 0x008, 0x009, 0x00A, 0x00B, 0x00C, 0x00D, 0x010, 0x040]
    let core (f : Core → Core) : State := s.modCore r.core f
    let task (f : Task → Task) : State := s.modTask r.core (keyOf r.who).1 f
    (creg ∈ readOnly → refused 0x0A) ∧ (0x041 ≤ creg.toNat → creg.toNat < 0x800 → refused 0x09) ∧
    (∀ place tidx, r.who = .user place tidx → place ≠ casterPlace →
      (0x800 ≤ creg.toNat → both (Traps s privTrap)) ∧ (creg = 0x003 → v ∉ [0, 8, 16, 32, 64, 128] → refused 0x03) ∧
      ∀ k, s.task? r.core place = some k → creg = 0x003 → v ∈ [0, 8, 16, 32, 64, 128] → k.segw = v → both (Completes s s)) ∧
    (∀ c k, r.who = .caster c → s.core? r.core = some k →
      (creg ∈ [0x003, 0x020, 0x021, 0x022, 0x023, 0x800, 0x807, 0x808, 0x809, 0x80A, 0x80B] → refused 0x0A) ∧
      (0x80C ≤ creg.toNat → refused 0x09)) ∧
    (((∃ place tidx, r.who = .user place tidx ∧ place ≠ casterPlace ∧
        ((creg = 0x020 ∧ s' = task fun k => { k with watch0 := { k.watch0 with addr := BitVec.ofNat 64 v } }) ∨
         (creg = 0x021 ∧ s' = task fun k => { k with watch0 := { k.watch0 with ctl := BitVec.ofNat 32 (v &&& 0x8FFF) } }) ∨
         (creg = 0x022 ∧ s' = task fun k => { k with watch1 := { k.watch1 with addr := BitVec.ofNat 64 v } }) ∨
         (creg = 0x023 ∧ s' = task fun k => { k with watch1 := { k.watch1 with ctl := BitVec.ofNat 32 (v &&& 0x8FFF) } }) ∨
         (creg = 0x003 ∧ v ∈ [0, 8, 16, 32, 64, 128] ∧ ∃ k, s.task? r.core place = some k ∧ k.segw ≠ v ∧ k.insts = [] ∧
            s' = (task fun k => undoSegment k tidx).modTask r.core place fun k => { k with segw := v }))) ∨
      (creg = 0x001 ∧ s' = s.modThread r fun t => { t with fpctl := BitVec.ofNat 32 (v % 2 ^ 14) }) ∨
      (∃ k, r.who = .caster k ∧
        ((creg = 0x801 ∧ s' = core fun c => { c with asid := BitVec.ofNat 16 v }) ∨
         (creg = 0x802 ∧ s' = core fun c => { c with kslot := BitVec.ofNat 8 v }) ∨
         (creg = 0x803 ∧ s' = core fun c => { c with ptroot := BitVec.ofNat 64 v &&& 0xC0000FFFFFFFFFFF }) ∨
         (creg = 0x804 ∧ s' = core fun c => { c with forebase := BitVec.ofNat 64 v &&& 0x00FFFFFFFFC00000 }) ∨
         (creg = 0x805 ∧ s' = core fun c => { c with callring := BitVec.ofNat 64 v }) ∨
         (creg = 0x806 ∧ s' = core fun c => { c with sigvec := BitVec.ofNat 64 v })))) →
    both (Completes s s'))


/-- Every control register as ctlrd reads it and ctlwr leaves it. -/
def Obligations.ControlRegisters : Prop :=
  Claim.ControlRegistersRead ∧ Claim.ControlRegistersWritten


/-! ## Memory, atomics, synchronisation and allowances (R140 to R190, R266 to R283) -/

/-- R145, R146, R158, R161, R175, R178, R180: `ld` at each kind of target. What the thread receives is on its way to its
destination, which is empty until then (an own scratchpad gives its bytes at once); a load of the memory of a peer
that this core does not subscribe takes a flit of each class and sends a request; a blocking qualifier on an empty
granule parks. That the bytes are those at the issue, on their way until an arrival, and that a load parked at a granule
completes there with no second issue is the model's reading (log entries 87 and 88). `s₁` is the state after steps 1 to 7 of
R175. -/
def Obligations.LoadsAtEachTarget : Prop :=
  ∀ (s s₁ : State) (t : Thread) (g : Guard) (sx : Bool) (size : Size) (acq : Bool) (scope : Scope) (feq : LdFeq)
    (d : Reg) (m : MemRef) (target : Target),
    let r := s.issuer
    let n := sizeBytes size
    let va := formAddr t m
    let wide := acq && wideScope scope
    let drop (on : Bool) (s : State) : State := if on then s.dropClean r.core else s
    let i : Instr := .ld g sx size acq scope feq d m
    let give (s' : State) (bs : List Byte) (pois : Bool) := Completes s (drop wide (s'.modThread r fun th =>
      th.pending (loadPend s' d size sx acq scope va none (some (readValue t target size sx bs pois)))))
    Issues s t g (baseSrc m) [(d, sizeWords size)] (peekPred feq).toList →
    State.accessWaits t = false →
    s.formTarget r t { m, size := n, watch := .rd, kind := .read, atom := false } = (.ok target, s₁) →
    (∀ pa, target = .mem pa → s₁.pageBusy pa = false →
      let x := s₁.loadLine r.core pa n wide
      exec i s = give x.2.2 x.1 x.2.1) ∧
    (∀ off, target = .mmio off → State.queuedTo t State.toMmio = false →
      exec i s = give (s₁.regRead off n).2 (s₁.regRead off n).1 false) ∧
    (∀ dev off l, target = .peer dev off → s₁.peerLine? r.core dev off = some l →
      let o := off - lineOf off
      exec i s = give s₁ ((l.data.drop o).take n)
        ((List.range 4).any fun i => l.pois.getLsbD i && o < 16 * i + 16 && 16 * i < o + n)) ∧
    (∀ dev off s₂, target = .peer dev off → s₁.peerLine? r.core dev off = none →
      State.queuedTo t State.toPeer = false → s₁.allow r dev 1 1 va = .pass s₂ →
      let x := s₂.sendPeer dev off (.thread r) va .load d [] false [] n
      exec i s = Completes s (x.1.modThread r fun th =>
        th.pending (loadPend x.1 d size sx acq scope va (some x.2) none))) ∧
    (∀ c p off remote, target = .scratch c p off remote →
      if (feq == .wait || feq == .take) && !s₁.granuleFull c p (off / 16) then
        exec i s = Parks s (s₁.joinGranule c p r)
          (.granule c p off (.load remote (feq == .take) d size sx acq scope))
      else
        let s₂ := s₁.scratchLoad r c p off remote (feq == .take) d size sx (peekPred feq)
        let s₃ := if feq = .take then s₂.setGranule c p (off / 16) false else s₂
        exec i s = Completes s (drop (wide || (remote && (feq == .wait || feq == .take))) s₃))

/-- R145, R158, R161, R175, R179: `st` puts its bytes at the end of its thread's queue, a peer store after it has its
flit. A `.fillw` goes when that queue is empty (log entry 122): it writes its bytes and the bit in one step where its granule
is empty, and parks its thread on the granule's list where it is full. -/
def Claim.StoresEnterTheQueue : Prop :=
  ∀ (s s₁ : State) (t : Thread) (g : Guard) (size : Size) (rel : Bool) (scope : Scope) (feq : StFeq) (m : MemRef)
    (b : Src) (target : Target),
    let r := s.issuer
    let i : Instr := .st g size rel scope feq m b
    let va := formAddr t m
    let q : QStore :=
      { target, size, data := BitVec.ofNat 128 (t.regsNat b.reg (sizeWords size) % 256 ^ sizeBytes size)
        feq, rel, scope, va, sent := none, issue := s₁.issueNo }
    Clean s t g (baseSrc m ++ [(b, sizeWords size)]) [] [] → State.accessWaits t = false →
    s.formTarget r t { m, size := sizeBytes size, watch := .wr, kind := .write, atom := false } = (.ok target, s₁) →
    (∀ sc, storeRelease rel scope feq target = some sc → wideScope sc = true → s₁.releaseReady r sc = true) →
    ((∃ x, target = .mem x ∨ target = .mmio x) → exec i s = Completes s (s₁.enqueue r q)) ∧
    (∀ dev off s₂, target = .peer dev off → s₁.allow r dev 1 1 va = .pass s₂ →
      exec i s = Completes s (s₂.enqueue r q)) ∧
    (∀ c p off remote, target = .scratch c p off remote →
      let bs := leBytes (sizeBytes size) q.data.toNat
      (feq ≠ .fillw → exec i s = Completes s (s₁.enqueue r q)) ∧
      (feq = .fillw → t.queue = [] → s₁.granuleFull c p (off / 16) = true →
        exec i s = Parks s (s₁.joinGranule c p r) (.granule c p off (.store bs))) ∧
      (feq = .fillw → t.queue = [] → s₁.granuleFull c p (off / 16) = false →
        exec i s = Completes s ((s₁.fillwStore c p off bs).setGranule c p (off / 16) true)))

/-- R145, R158, R169: the oldest store of a thread leaves its queue, at each kind of target, once no operation issued
before it is still to be performed and while the cores run; what it does to the list of a granule it fills is `setGranule`. -/
def Claim.StoresLeaveTheQueue : Prop :=
  ∀ (s : State) (t : Thread) (r : ThreadRef) (q : QStore) (rest : List QStore),
    let bs := leBytes (sizeBytes q.size) q.data.toNat
    let p := s.popStore r
    let leaves (s' : State) := exec (.storeLeavesQueue r) s = .next s'.settle
    s.coresRun = true → s.thread? r = some t → t.queue = q :: rest → (∀ x ∈ t.pend, x.op = none) →
    (∀ pa, q.target = .mem pa → s.pageBusy pa = false → leaves (p.storeLine r.core pa bs 0)) ∧
    (∀ off s', q.target = .mmio off → p.regWrite off bs = some s' → leaves s') ∧
    (∀ c place off remote, q.target = .scratch c place off remote →
      (q.feq = .plain → leaves (p.scratchWrite c place off bs false)) ∧
      (q.feq = .fill → leaves ((p.scratchWrite c place off bs false).setGranule c place (off / 16) true))) ∧
    (∀ dev off, q.target = .peer dev off → q.sent = none → s.unreach dev = false → s.lanesOff dev = false →
      s.subscribed r.core (.peer dev (lineOf off)) = false →
      (s.sendPeer dev off (.thread r) q.va .noReturn 0 bs true [] bs.length (issue := q.issue)).1.subscribed r.core
        (.peer dev (lineOf off)) = false →
      leaves ((s.sendPeer dev off (.thread r) q.va .noReturn 0 bs true [] bs.length (issue := q.issue)).1.popStore r))

/-- A store enters its thread's queue, and leaves it at each kind of target. Rests on log entry 122. -/
def Obligations.Stores : Prop :=
  Claim.StoresEnterTheQueue ∧ Claim.StoresLeaveTheQueue

/-- R181 to R186: prefetch, fences, cache control and subscriptions with nothing to wait for. An `ifence` drops what the cores
of its scope have fetched and what they have asked peers for. That `cflush.mem` does what `cflush.inv` does is the model's
(log entry 8: an L2 slice and the memory behind it are one store). `s₁` is the state after steps 1, 6 and 7 of R175 for
the line named. -/
def Obligations.CacheControlAndFences : Prop :=
  ∀ (s s₁ : State) (t : Thread) (g : Guard) (base : Src) (off : Word) (pa : Nat),
    let r := s.issuer
    let la := lineOf pa
    let key := keyOf r.who
    let gone (s : State) : State := s.modCore r.core fun c => { c with l1 := c.l1.filter (·.pa != la) }
    (∀ (ord : MemOrd) (scope : Scope), Issues s t g [] [] [] → t.queue = [] → t.pend = [] →
      (wideScope scope = true → s.releaseReady r scope = true) →
      exec (.fence g ord scope) s = Completes s
        (if scope ≠ .thr ∧ ordAcquires ord = true ∧ wideScope scope = true then s.dropClean r.core else s)) ∧
    (∀ scope : Scope, Issues s t g [] [] [] → t.queue = [] → State.accessWaits t = false → s.peerOpen r = false →
      (wideScope (if scope = .dom ∨ scope = .sys then .dev else scope) = true →
        s.releaseReady r (if scope = .dom ∨ scope = .sys then .dev else scope) = true) →
      exec (.ifence g scope) s = Completes s
        ((fenceCores s r (if scope = .dom ∨ scope = .sys then .dev else scope)).foldl (fun s n =>
          { s.modCore n fun c => { c with icache := [] } with
            reqs := s.reqs.map fun q => if q.owner == .line n then { q with owner := .gone } else q }) s)) ∧
    (∀ level : PfLevel, Issues s t g [(base, 2)] [] [] → s.lineTarget r t base off 8 = (.ok (.mem pa), s₁) →
      s₁.pageBusy pa = false →
      exec (.pf g level base off) s = Completes s (match level with
        | .l1 => (s₁.l1Fetch r.core la).2
        | .l1w => (s₁.l1Own r.core la).2
        | .l2 => s₁)) ∧
    (Issues s t g [(base, 2)] [] [] → s.lineTarget r t base off 8 = (.ok (.mem pa), s₁) → queuedLine t la = false →
      s₁.pageBusy pa = false → s₁.subscribed r.core (.mem la) = false →
      exec (.cflushWb g base off) s = Completes s ((s₁.flushCore r.core la).pushLine la) ∧
      exec (.cflushInv g base off) s = Completes s (gone ((s₁.flushCore r.core la).pushLine la)) ∧
      exec (.cflushMem g base off) s = Completes s (gone ((s₁.flushCore r.core la).pushLine la))) ∧
    (∀ (qd : PredReg) (c : Core), Issues s t g [(base, 2)] [] [qd] →
      s.lineTarget r t base off 64 = (.ok (.mem pa), s₁) → s₁.pageBusy pa = false → pa < hostBase →
      s₁.core? r.core = some c → (c.subs.any fun u => u.target == .mem la) = false →
      exec (.lsub g qd base off) s = Completes s (if 64 ≤ c.subs.length then s₁.modThread r fun t => t.setPred qd false
        else ((gone ((s₁.newSub r (.mem la)).flushCore r.core la)).pushLine la).modThread r fun t =>
          t.setPred qd true)) ∧
    (Issues s t g [(base, 2)] [] [] → s.lineTarget r t base off 8 = (.ok (.mem pa), s₁) → pa < hostBase →
      exec (.lunsub g base off) s = Completes s (s₁.unsubscribe r.core key (· == .mem la)))

/-- R158, R163, R175, R187, R188: `atom`, `cas` and `red` join the work of their thread, to be performed at their
target; one on a peer's memory is sent, with a flit of each class, or joins the request of another lane (R165). -/
def Claim.AtomicsIssue : Prop :=
  ∀ (s s₁ : State) (t : Thread) (g : Guard) (ty : Ty) (ord : MemOrd) (scope : Scope) (m : MemRef) (target : Target),
    let r := s.issuer
    let va := formAddr t m
    let size : Size := if ty.width / 8 = 8 then .b64 else .b32
    let bits (x : Src) : DWord := BitVec.ofNat 64 (valA t ty x)
    let goes (data : List (Src × Nat)) (dsts : List (Reg × Nat)) (i : Instr) (o : MemOrd) (kind : PendKind) (d : Reg)
        (words : Nat) (w : Rmw) : Prop :=
      let pend (s : State) (op : Option (Target × HomeOp)) (tag : Option Nat) : State := s.modThread r fun th =>
        th.pending (opPend s kind d words none va op (ordAcq o) (ordRel o) scope size tag)
      Clean s t g (baseSrc m ++ data) dsts [] → s₁.opMayIssue r t (if ordRel o then some scope else none) = true →
      ((∀ dev off, target ≠ .peer dev off) → exec i s = Completes s (pend s₁ (some (target, .rmw w)) none)) ∧
      (∀ dev off tag, target = .peer dev off → s₁.peerLane? r dev off w = some tag →
        exec i s = Completes s (pend (s₁.joinPeer tag w) none (some tag))) ∧
      (∀ dev off s₂, target = .peer dev off → s₁.peerLane? r dev off w = none → s₁.allow r dev 1 1 va = .pass s₂ →
        let x := s₂.sendPeer dev off (.thread r) va kind d [] false [w] (ty.width / 8)
        exec i s = Completes s (pend x.1 none (some x.2)))
    s.formTarget r t { m, size := ty.width / 8, watch := .atom, kind := .atomic, atom := true } = (.ok target, s₁) →
    (∀ (op : AtomOp) (d : Reg) (b : Src),
      goes [(b, tyRegs ty)] [(d, tyRegs ty)] (.atom g op ty ord scope d m b) ord .atomic d (tyRegs ty) (.op op ty (bits b))) ∧
    (∀ (d : Reg) (b c : Src), goes [(b, tyRegs ty), (c, tyRegs ty)] [(d, tyRegs ty)] (.cas g ty ord scope d m b c) ord
      .atomic d (tyRegs ty) (.cas ty (bits b) (bits c))) ∧
    (∀ (op : AtomOp) (rel : Bool) (b : Src), goes [(b, tyRegs ty)] [(0, 0)] (.red g op ty rel scope m b)
      (if rel then .rel else .relaxed) .noReturn 0 0 (.op op ty (bits b)))

/-- R163, R177, R187, R188: the oldest operation of a thread is performed at its target while the cores run. A read-modify-write of one lane
returns the old value and writes the new one; a failed `cas` writes nothing. -/
def Claim.AtomicsArePerformed : Prop :=
  ∀ (s : State) (r : ThreadRef),
    (s.coresRun = true → exec (.atomicAtHome r) s = .next (s.performOp r).settle) ∧
    ∀ (t : Thread) (p : Pend) (k : Nat) (target : Target) (m : Rmw),
      s.thread? r = some t → (t.pend.zipIdx.find? fun (p, _) => p.op.isSome) = some (p, k) →
      p.op = some (target, .rmw m) → s.busy target = false → s.lanesOf r p = [(r, k, p)] →
      let x := s.opRead r.core (wideScope p.scope) target m.bytes
      x.2.1 = false →
      let old := leNat x.1
      let s₁ := match m.new old with
        | some v => x.2.2.opWrite r.core (wideScope p.scope) target (leBytes m.bytes v)
        | none => x.2.2
      s.performOp r = (s₁.answerPend r k p old 0 none).opAcquire r p

/-- Atomics join the work of their thread and are performed at their target. -/
def Obligations.Atomics : Prop :=
  Claim.AtomicsIssue ∧ Claim.AtomicsArePerformed

/-- R266, R267: `barinit`, `arrive` and `barwait` on a barrier word of the own scratchpad or of memory, and `barwait` on
one whose phase is still the one waited for. That an operation on a word of the own scratchpad is performed within its issue
is the model's reading (log entry 86). -/
def Claim.BarrierInstructions : Prop :=
  ∀ (s s₁ : State) (t : Thread) (g : Guard) (scope : Scope) (m : MemRef) (b : Src) (target : Target),
    let r := s.issuer
    let va := formAddr t m
    let go (o : BarOp) (kind : PendKind) (d : Reg) (words : Nat) (rel : Bool) :=
      let p := opPend s₁ kind d words none va (some (target, .bar o)) false rel scope .b32 none
      Completes s (if ownScratch target then doOwn s₁ r p else s₁.modThread r fun t => t.pending p)
    s.formTarget r t (barAccess m) = (.ok target, s₁) → (∀ dev off, target ≠ .peer dev off) →
    (Clean s t g (baseSrc m ++ [(b, 1)]) [] [] → s₁.opMayIssue r t none = true →
      exec (.barinit g scope m b) s = go (.init (t.reg b.reg).toNat) .noReturn 0 0 false) ∧
    (∀ d : Reg, Issues s t g (baseSrc m) [(d, 1)] [] → s₁.opMayIssue r t (some scope) = true →
      s₁.arriveHolds r target = false →
      exec (.arrive g scope d m) s = go .arrive .atomic d 1 true) ∧
    (Clean s t g (baseSrc m ++ [(b, 1)]) [] [] → s₁.opMayIssue r t none = true → s₁.busy target = false →
      let x := s₁.opRead r.core true target 8
      x.2.1 = false →
      exec (.barwait g scope m b) s =
        if (leNat x.1).testBit 63 = (t.reg b.reg).getLsbD 0 then Parks s x.2.2 (.barrier target scope va)
        else Completes s (if wideScope scope then x.2.2.dropClean r.core else x.2.2))

/-- R266, R267: an arrival at a barrier word, with EXPECT in bits 55 to 28 and the arrivals in bits 27 to 0, whatever bits 62
to 56 hold. Where the arrivals with this one come to EXPECT or more (so with EXPECT 0, and with the count already at EXPECT or
above, at every arrival) the phase, bit 63, flips and the count is cleared; else another one counts. Bits 62 to 56 are written
as zero, and the phase returned is the one before. -/
def Claim.BarrierWordArrival : Prop :=
  ∀ (phase : Bool) (rest expect n : Nat), n < 2 ^ 28 → expect < 2 ^ 28 → rest < 2 ^ 7 →
    let word (p : Bool) (rest k : Nat) : Nat := (if p then 2 ^ 63 else 0) + rest * 2 ^ 56 + expect * 2 ^ 28 + k
    State.arriveWord (word phase rest n) =
      if expect ≤ n + 1 then (word (!phase) 0 0, phase, true) else (word phase 0 (n + 1), phase, false)

/-- Barrier words: initialisation, arrival, the last arrival of a generation, and waiting. Rests on log entry 86. -/
def Obligations.Barriers : Prop :=
  Claim.BarrierInstructions ∧ Claim.BarrierWordArrival

/-- R268, R269: `dqinit`, `dqpush`, `dqpop` and `dqsteal` complete: each joins the work of its thread, to be performed at the
home of its descriptor. A `dqinit` with a capacity outside 1 to 24 or a buffer that is not aligned traps DEQUE_BAD. -/
def Claim.DequeInstructions : Prop :=
  ∀ (s s₁ : State) (t : Thread) (g : Guard) (scope : Scope) (base : Src) (off : Word) (target : Target),
    let r := s.issuer
    let m := lineRef base off
    let goes (o : DqOp) (qd : Option PredReg) (kind : PendKind) (d : Reg) (n : Nat) (acq rel : Bool) :=
      Completes s (s₁.modThread r fun th => th.pending
        (opPend s₁ kind d n qd (formAddr t m) (some (target, .dq o (qd.getD 0) (s₁.accessor r))) acq rel scope .b64 none))
    s.dequeTarget r t m = (.ok target, s₁) →
    (∀ b c : Src, Clean s t g (baseSrc m ++ [(b, 2), (c, 1)]) [] [] →
      let cap := (t.reg c.reg).toNat
      let buf := t.reg64 b.reg
      let bad (sub : Byte) (x : DWord) : Host.Outcome State Fault Refusal :=
        .next (s₁.takeTrap r { kind := .dequeBad, sub, addr := x })
      let i : Instr := .dqinit g scope base off b c
      (cap < 1 ∨ 24 < cap → exec i s = bad 0x01 (BitVec.ofNat 64 cap)) ∧
      (1 ≤ cap → cap ≤ 24 → buf.toNat % 8 ≠ 0 → exec i s = bad 0x02 buf) ∧
      (1 ≤ cap → cap ≤ 24 → buf.toNat % 8 = 0 → s₁.opMayIssue r t (some scope) = true →
        exec i s = goes (.init buf cap) none .noReturn 0 0 false true)) ∧
    (s₁.opMayIssue r t (some scope) = true → ∀ (b : Src) (qd : PredReg), Clean s t g (baseSrc m ++ [(b, 2)]) [] [qd] →
      exec (.dqpush g scope qd base off b) s = goes (.push (t.reg64 b.reg)) (some qd) .noReturn 0 0 false true) ∧
    (s₁.opMayIssue r t none = true → ∀ (d : Reg) (qd : PredReg), Issues s t g (baseSrc m) [(d, 2)] [qd] →
      exec (.dqpop g scope d qd base off) s = goes .pop (some qd) .atomic d 2 true false ∧
      exec (.dqsteal g scope d qd base off) s = goes .steal (some qd) .atomic d 2 true false)

/-- R269: a deque operation performed at the home of its descriptor while the cores run, in the context `a` of its issue, and
what it comes to by LOGCAP, BUF, TOP and BOTTOM: a
push to a full deque and a pop or steal from an empty one write nothing and answer false; else a push stores its value at
BOTTOM and raises it, a pop takes the entry below BOTTOM and lowers it, and a steal takes the entry at TOP and raises it. -/
def Claim.DequesArePerformed : Prop :=
  (∀ (s s₁ : State) (r : ThreadRef) (t : Thread) (p : Pend) (k pa v : Nat) (o : DqOp) (q : PredReg) (a : Accessor) (b pois : Bool),
    s.coresRun = true → s.thread? r = some t → (t.pend.zipIdx.find? fun (p, _) => p.op.isSome) = some (p, k) →
    p.op = some (.mem pa, .dq o q a) → s.pageBusy pa = false → s.lanesOf r p = [(r, k, p)] →
    s.dequeStep a pa p.va o = (.done v b pois, s₁) →
    let s₂ := s₁.answerPend r k p v (if pois then 0x3 else 0) (some b)
    exec (.atomicAtHome r) s = .next (if b then s₂.opAcquire r p else s₂).settle) ∧
  ∀ (s s₂ : State) (a : Accessor) (pa : Nat) (va : DWord) (bs : List Byte) (cap buf top bottom e : Nat),
    let core := some a.core
    let s₁ := s.homeReady core pa
    let at_ (n : Nat) : DWord := BitVec.ofNat 64 (buf + 8 * (n % 2 ^ cap))
    let taken (off n : Nat) : State.DqEnd × State :=
      let s₃ := s₂.homeReady core (lineOf e)
      let x := s₃.readHomeBytes e 8
      (.done (leNat x.1) true x.2, s₃.storeHomeBy core (pa + off) (leBytes 4 (n % 2 ^ 32)) 0)
    s₁.readHome pa 64 = (bs, false) → State.dequeOf? bs = some (cap, buf, top, bottom) →
    (∀ x, (bottom + 2 ^ 32 - top) % 2 ^ 32 = 2 ^ cap → s.dequeStep a pa va (.push x) = (.done 0 false false, s₁)) ∧
    (∀ x, (bottom + 2 ^ 32 - top) % 2 ^ 32 ≠ 2 ^ cap → s₁.dequeEntry a va (at_ bottom) .write = (.ok e, s₂) →
      s.dequeStep a pa va (.push x) = (.done 0 true false,
        (s₂.storeHomeBytesBy core e (leBytes 8 x.toNat) false).storeHomeBy core (pa + 24) (leBytes 4 ((bottom + 1) % 2 ^ 32)) 0)) ∧
    (bottom = top → s.dequeStep a pa va .pop = (.done 0 false false, s₁) ∧
      s.dequeStep a pa va .steal = (.done 0 false false, s₁)) ∧
    (bottom ≠ top → s₁.dequeEntry a va (at_ ((bottom + 2 ^ 32 - 1) % 2 ^ 32)) .read = (.ok e, s₂) →
      s.dequeStep a pa va .pop = taken 24 (bottom + 2 ^ 32 - 1)) ∧
    (bottom ≠ top → s₁.dequeEntry a va (at_ top) .read = (.ok e, s₂) → s.dequeStep a pa va .steal = taken 16 (top + 1))

/-- R270: `waitaddr` on a word at hand that differs from the value expected completes with 0 in its destination, and with
the acquire of its scope; on one that is equal the thread waits at the instruction. -/
def Claim.WaitaddrCompletes : Prop :=
  ∀ (s s₁ s₂ : State) (t : Thread) (g : Guard) (acq : Bool) (scope : Scope) (size : Size) (d : Reg) (m : MemRef) (b c : Src)
    (target : Target) (x : Nat),
    let r := s.issuer
    let n := sizeWords size
    let w : AddrWait := { target, va := formAddr t m, size, acq, scope, dst := d
                          expected := BitVec.ofNat 64 (t.regsNat b.reg n), timeout := t.reg c.reg, asked := none }
    Clean s t g (baseSrc m ++ [(b, n), (c, 1)]) [(d, 1)] [] → t.woken ≠ some t.pc →
    s.formTarget r t { m, size := sizeBytes size, watch := .rd, kind := .read, atom := true } = (.ok target, s₁) →
    State.accessWaits t = false → s₁.waitRead r target size = (some (x, false), s₂) →
    (x ≠ w.expected.toNat → exec (.waitaddr g size acq scope d m b c) s =
      let s₃ := s₂.modThread r fun t => t.setReg d 0
      Completes s (if acq && wideScope scope then s₃.dropClean r.core else s₃)) ∧
    (x = w.expected.toNat → exec (.waitaddr g size acq scope d m b c) s = Parks s s₂ (.waitaddr w))

/-- R270: a wake of a thread that waits at `waitaddr` reads the word again, at the target its address then has: the thread
goes on with 1 where the word differs, and else with 3 for a wake and 2 for a timeout; a timeout of 0 is none. It counts as an
instruction issued (R383), and no wake is taken while the cores do not run. -/
def Claim.WaitsOnAddressesEnd : Prop :=
  ∀ (s s₁ s₂ : State) (t : Thread) (r : ThreadRef) (w v : AddrWait) (x : Nat), s.coresRun = true → s.thread? r = some t →
    t.state = .waitaddr w → w.asked = none → s.retarget r w = (.ok v, s₁) →
    s₁.waitRead r v.target v.size = (some (x, false), s₂) →
    let done (why : Nat) := (s₂.waitDone r v (if x = v.expected.toNat then why else 1)).countIssue r
    exec (.waitaddrWake r) s = .next (done 3) ∧ exec (.spuriousWake r) s = .next (done 3) ∧
    exec (.waitaddrTimeout r) s = .next (if w.timeout = 0 then s else done 2)

/-- Deque instructions, and waiting on an address with its wake-ups. -/
def Obligations.DequesAndWaits : Prop :=
  Claim.DequeInstructions ∧ Claim.DequesArePerformed ∧ Claim.WaitaddrCompletes ∧ Claim.WaitsOnAddressesEnd

/-- R282, R283: the allowance instructions on a destination number up to 63. -/
def Obligations.AllowanceInstructions : Prop :=
  ∀ (s : State) (t : Thread) (g : Guard) (rsp : Bool) (a : Src) (n : BitVec 24),
    let dev := (t.reg a.reg).toNat
    let w := s.allowanceWord dev rsp
    let enough : Bool := !w.getLsbD 31 && !w.getLsbD 30 && n.toNat ≤ w.toNat % 2 ^ 24
    dev ≤ 63 →
    (∀ d : Reg, Clean s t g [(a, 1)] [(d, 1)] [] → exec (.alw g rsp d a) s = Writes s fun t => t.setReg d w) ∧
    (∀ qd : PredReg, Clean s t g [(a, 1)] [] [qd] → exec (.alwq g rsp qd a n) s = Writes s fun t => t.setPred qd enough) ∧
    (Clean s t g [(a, 1)] [] [] →
      (enough = true → exec (.alwwait g rsp a n) s = Completes s s) ∧
      (w.getLsbD 31 = false → enough = false → exec (.alwwait g rsp a n) s = Parks s s (.allowance dev 0 (some (rsp, n.toNat)))) ∧
      (w.getLsbD 31 = true → exec (.alwwait g rsp a n) s = Traps s { kind := .unreach, sub := BitVec.ofNat 8 dev }))



/-! ## Copies, collectives and the Crucible (R107 to R139, R191 to R206) -/

/-- R193, R194, R199: `cp` without traps takes the lowest free copy id, sets its destination to it, and starts the
copy, complete at once where nothing is to be moved; towards a peer it reserves one flit per 64 bytes, up to 16, and towards one that
is out of reach it traps UNREACH. Its accesses are in the context of its issue. -/
def Claim.CopiesStart : Prop :=
  ∀ (s : State) (t : Thread) (g : Guard) (fill dig : Bool) (swz : BitVec 3) (dsp ssp : Space) (d : Reg) (a b c : Src)
    (doff soff : BitVec 16) (k : Core) (id : Nat),
    let r := s.issuer
    let regs (sp : Space) : Nat := if sp = .global then 2 else 1
    let dst := copyAddr t dsp a doff
    let src := copyAddr t ssp b soff
    let len := (t.reg c.reg).toNat
    let i : Instr := .cp g fill dig swz dsp ssp d a b c doff soff
    let starts (s' : State) (flits dev : Nat) :=
      let copy : Copy :=
        { id, place := (keyOf r.who).1, tidx := (keyOf r.who).2, dsp, ssp, swz, dig, fill, len, dst, src, prog := 0
          state := .running, dstPage := none, srcPage := none, hash := shaInit, hpois := false, told := false, buf := []
          sending := 0, asked := none, flits, resDev := dev, acc := s'.accessor r }
      let s₁ := (s'.modCore r.core fun c => { c with copies := c.copies ++ [copy] }).modThread r fun t =>
        t.setReg d (BitVec.ofNat 32 id)
      Completes s (if len = 0 ∧ dig = false then s₁.finishCopy r.core id else s₁)
    Clean s t g [(a, regs dsp), (b, regs ssp), (c, 1)] [(d, 1)] [] →
    dst.toNat % 16 = 0 → src.toNat % 16 = 0 → len % 16 = 0 →
    s.copyRange r dsp swz dst (len + if dig then 64 else 0) = .ok () → s.copyRange r ssp swz src len = .ok () →
    s.core? r.core = some k → State.freeCopyId? k = some id → t.queue = [] → State.accessWaits t = false →
    let peer := (s.knownPeer? r dsp dst).map (·, dst) <|> (s.knownPeer? r ssp src).map (·, src)
    (∀ dev va, peer = some (dev, va) → s.unreach dev = true →
      exec i s = Traps s { kind := .unreach, sub := BitVec.ofNat 8 dev, addr := va }) ∧
    ((∀ dev va, peer = some (dev, va) → s.unreach dev = false ∧ len = 0) → exec i s = starts s 0 0) ∧
    (∀ dev va s₁, peer = some (dev, va) → s.unreach dev = false → 0 < len →
      s.allow r dev (min ((len + 63) / 64) 16) 0 va = .pass s₁ → exec i s = starts s₁ (min ((len + 63) / 64) 16) dev)

/-- R191, R200, R201: `cpq` gives the state and progress of a copy of the thread's task, and `cpwait` frees the id of a
complete one, parks at one that is not complete, and passes where there is none. An id is at most 31. -/
def Claim.CopiesAreAskedFor : Prop :=
  ∀ (s : State) (t : Thread) (g : Guard) (a : Src),
    let r := s.issuer
    let id := (t.reg a.reg).toNat
    let own := s.ownCopy? r id
    id ≤ 31 →
    (∀ d : Reg, Clean s t g [(a, 1)] [(d, 1)] [] →
      let word : Nat := match own with
        | none => 3 * 2 ^ 30
        | some c => (match c.state with | .running => 0 | .stopped _ => 1 | .complete => 2) * 2 ^ 30 + c.prog / 16
      exec (.cpq g d a) s = Writes s fun th => th.pending { opPend s .cpq d 1 none 0 none false false .thr .b32 none with
        got := some { value := BitVec.ofNat 128 word, poison := 0, pred := none } }) ∧
    (Clean s t g [(a, 1)] [] [] →
      (own = none → exec (.cpwait g a) s = Completes s s) ∧
      ∀ c, own = some c → exec (.cpwait g a) s =
        if c.state = .complete then Completes s (s.freeCopy r.core id) else Parks s s (.copy (.id id)))

/-- Copies start with the lowest free id and are asked for by it. -/
def Obligations.CopyInstructions : Prop :=
  Claim.CopiesStart ∧ Claim.CopiesAreAskedFor

/-- R194 to R198: a running copy writes its next granule, or under DIG its next block of 128 bytes; translates its
pages; and completes when all is written, under DIG with the digest; all of it while the cores run. R195 leaves the order of
the granules open: that they go one after the other, ascending, is the model's choice (log entry 37). -/
def Claim.CopiesGoOn : Prop :=
  ∀ (s : State) (core id : Nat) (c : Copy), s.copy? core id = some c → c.state = .running → s.coresRun = true →
    (c.dig = false → c.prog < c.len → exec (.copyGranuleWrite core id) s = .next (s.copyPlain core id)) ∧
    (c.dig = true → c.prog + 128 ≤ c.len → exec (.copyGranuleWrite core id) s = .next (s.copyBlock core id)) ∧
    (c.dig = false → c.prog = c.len → s.copyAsks core id = false →
      exec (.copyComplete core id) s = .next (s.finishCopy core id)) ∧
    (c.dig = true → c.len < c.prog + 128 → exec (.copyComplete core id) s = .next (s.copyDigest core id)) ∧
    (∀ st dt s₁ s₂, c.prog < c.len → s.copyAsks core id = false → s.sideAt core c false c.prog = (.ok st, s₁) →
      (s₁.holdPage core c false c.prog st).sideAt core c true c.prog = (.ok dt, s₂) →
      exec (.copyPageTranslate core id) s = .next (s₂.holdPage core c true c.prog dt)) ∧
    (∀ x s₁, c.prog < c.len → s.copyAsks core id = false → s.sideAt core c false c.prog = (.error (some x), s₁) →
      exec (.copyPageTranslate core id) s = .next (s₁.stopCopy core id (some x)))

/-- R198, R313, R340: the fault of a stopped copy, with the copy's progress and id, is reported by its thread while the cores
run: a user thread's record is written once its older work is done (an older failure goes before it), and a Caster thread's is
a machine check, the copy marked as told. -/
def Claim.CopyFaultsAreReported : Prop :=
  ∀ (s : State) (t : ThreadRef) (th : Thread) (c : Copy) (x : Trap),
    let told : Trap := { x with prog := c.prog, what := 1, val := c.id }
    s.coresRun = true → s.thread? t = some th → s.reportable t th = true → th.stop = none → th.later = [] → th.fails = [] →
    s.stoppedCopy? t = some (c, x) →
    (∀ place tidx, t.who = .user place tidx → (s.withdraw t).drained t = true →
      exec (.copyFaultReport t) s = .next ((s.withdraw t).recordOldest t.core place tidx told)) ∧
    ∀ n, t.who = .caster n → exec (.copyFaultReport t) s = .next ((s.modCore t.core fun k => { k with
      copies := k.copies.map fun d => if d.id = c.id then { d with told := true } else d }).casterTrap t.core n told)

/-- R195: a granule of a copy from one place of the own scratchpad to another is moved in one step, its sixteen bytes
with the marks of its two units, and its full bit is set under FILL; PROG goes on by 16 (log entry 37). -/
def Claim.CopiedGranule : Prop :=
  ∀ (s : State) (core n : Nat) (c : Copy), s.copy? core n = some c → c.dsp = .own → c.ssp = .own → c.buf = [] → c.fail = none →
    s.copyAsks core n = false →
    let place (a : DWord) : Nat := swizzle c.swz ((a.toNat + c.prog) % 2 ^ 20)
    let src := s.scratchRead core c.place (place c.src) 16
    let units := [(src.1.take 8, (src.2.take 8).any id), (src.1.drop 8, (src.2.drop 8).any id)]
    s.copyPlain core n = ((s.modCopy core n fun k => { k with buf := k.buf ++ units }).granuleWrite core
      (.scratch core c.place (place c.dst) false) units c.fill).copyMoved core n 16

/-- A running copy moves granules, translates pages, stops with faults and completes. Rests on log entry 37. -/
def Obligations.CopyEngine : Prop :=
  Claim.CopiesGoOn ∧ Claim.CopyFaultsAreReported ∧ Claim.CopiedGranule

/-- R170, R203, R204: `coll` whose descriptor passes its checks, with nothing its core has sent to peers unanswered, starts the
collective: CSTATE 1 is written, its first half is sent to the participants. -/
def Claim.CollectivesStart : Prop :=
  ∀ (s s₁ s₂ : State) (t : Thread) (g : Guard) (base : Src) (off : Word) (pa : Nat) (bs : List Byte),
    let r := s.issuer
    let va := formAddr t (lineRef base off)
    let w := recWord bs
    let mask := BitVec.ofNat 64 (w 1)
    let others := (collMembers mask).filter (· != s.dev)
    let a := s₂.accessor r
    let c : Coll :=
      { desc := pa, descVa := va, cop := bits (w 0) 8 2, red := bits (w 0) 10 2
        ty := Ty.ofCode (BitVec.ofNat 4 (bits (w 0) 12 4)), rm := bits (w 0) 16 3, root := bits (w 0) 20 6
        cid := BitVec.ofNat 32 (bits (w 0) 32 32), mask, count := w 2, inbuf := BitVec.ofNat 64 (w 4)
        outbuf := BitVec.ofNat 64 (w 5), core := r.core, user := a.user
        ctx := { ctxn := 0, kslot := a.kslot, asid := a.asid, ptroot := a.ptroot, callring := 0, sigvec := 0 } }
    Issues s t g [(base, 2)] [] [] → s.collTarget r t base off = (.ok pa, s₁) → t.queue = [] →
    State.accessWaits t = false → s₁.peersQuiet r = true → s₁.pageBusy pa = false →
    s₁.readDesc r.core pa = (bs, false, s₂) → s₂.dev = s.dev →
    collBad s.dev bs = false → (others = [] ∨ s₂.part.fab = true) → (∀ x ∈ others, s₂.unreach x = false) →
    s₂.colls.length < 16 →
    exec (.coll g base off) s =
      let s₃ := (s₂.storeHomeBytes (pa + 56) [1] false).send (.collective c.cid (bs.take 32) [])
      Completes s { s₃ with colls := s₃.colls ++ [c] }

/-- R205: `collwait` by CSTATE: 1 parks, 2 completes as an acquire, 3 traps REMOTE_FAULT with FCODE, and any other value
passes. -/
def Claim.CollectivesAreWaitedFor : Prop :=
  ∀ (s s₁ s₂ : State) (t : Thread) (g : Guard) (base : Src) (off : Word) (pa : Nat) (bs : List Byte),
    let r := s.issuer
    let va := formAddr t (lineRef base off)
    let cstate := bits (recWord bs 7) 0 8
    Issues s t g [(base, 2)] [] [] → s.collTarget r t base off = (.ok pa, s₁) → t.queue = [] →
    State.accessWaits t = false → s₁.pageBusy pa = false → s₁.readDesc r.core pa = (bs, false, s₂) →
    (cstate = 1 → exec (.collwait g base off) s = Parks s s₂ (.copy (.coll pa))) ∧
    (cstate = 2 → exec (.collwait g base off) s = Completes s (s₂.dropClean r.core)) ∧
    (cstate = 3 → exec (.collwait g base off) s = .next (State.finish r (.trap s₂
      { kind := .remoteFault, sub := BitVec.ofNat 8 (bits (recWord bs 7) 8 8), addr := va }))) ∧
    (cstate = 0 ∨ 3 < cstate → exec (.collwait g base off) s = Completes s s₂)

/-- R204, R206: while the cores run, a collective runs to its end when the input of every participant is at hand, no page it
uses is changing, no participant is held or out of reach and no other of its CID runs here. It ends with FCODE 0x01 together
with another of its CID here, with 0x02 where this device has a participant out of reach, and with the FCODE that another
participant sends; that two of one CID fail together and that a cause found here is sent to the others is the model's reading
(log entry 104). Where `k` is no running collective the two events change nothing. -/
def Claim.CollectivesEnd : Prop :=
  ∀ (s : State) (k : Nat),
    s.coresRun = true → (s.colls[k]? = none → (∀ inputs, exec (.collectiveComplete k inputs) s = .next s) ∧
      ∀ fcode, exec (.collectiveFail k fcode) s = .next s) ∧
    ∀ c, s.colls[k]? = some c →
      let others := (collMembers c.mask).filter (· != s.dev)
      let outs := State.collOutSize c s.dev
      let twins := s.colls.filter (·.cid == c.cid)
      (∀ inputs : List (Nat × List Byte × List Nat),
        let n := c.count * c.ty.width / 8
        (∀ d ∈ others, ∃ x ∈ inputs, x.1 = d ∧ x.2.1.length = n) → collTwin s c = false → collPaused s c = false →
        (∀ d ∈ others, s.unreach d = false) → s.bufBusy (s.collAccessor c) c.inbuf n .read = false →
        s.endBusy c outs = false →
        exec (.collectiveComplete k inputs) s =
          .next (s.runColl c (inputs.map fun x => (x.1, State.markedInput c.ty.width x.2.1 x.2.2)))) ∧
      (collTwin s c = true → (∀ d ∈ twins, s.endBusy d (State.collOutSize d s.dev) = false) →
        exec (.collectiveFail k 0x01) s = .next (twins.foldl (fun s d => s.failHere d 0x01 none) s)) ∧
      (s.endBusy c outs = false → (∃ d ∈ others, s.unreach d = true) →
        exec (.collectiveFail k 0x02) s = .next (s.failHere c 0x02 none)) ∧
      (∀ fcode : Byte, s.endBusy c outs = false → others ≠ [] →
        fcode = 0x01 ∧ collTwin s c = false ∨ fcode = 0x02 ∧ (∀ d ∈ others, s.unreach d = false) ∨ fcode = 0x03 →
        exec (.collectiveFail k fcode) s = .next (s.failColl c fcode none))

/-- R203, R204, R206: what a collective run to its end leaves, where its buffers do not overlap in a way R204 rules out: its
output is written and its descriptor holds CSTATE 2 with FCODE 0. With an input or an output that does not translate it fails
with FCODE 0x03. Ended, with CSTATE and FCODE written into its descriptor, it leaves the running ones, and the threads that
wait for it, or for room, reissue. A failed one leaves in its output old bytes or result bytes, a free choice (log entry 5). -/
def Claim.CollectivesWriteTheirState : Prop :=
  ∀ (s : State) (c : Coll),
    let a := s.collAccessor c
    let n := c.count * c.ty.width / 8
    let outs := State.collOutSize c s.dev
    (∀ own s₁ s₂ others, s.readBuf a c.inbuf n (n / 16 + 1) = (some own, s₁) → s₁.dev = s.dev →
      let sent := s₁.send (.collective c.cid (own.map Prod.fst) (State.poisonedElems c.ty.width own))
      let ins := (collMembers c.mask).filterMap fun d =>
        if d = s.dev then some (d, own) else (lookup others d).map fun l => (d, l)
      let out := State.collOutput c s.dev ins
      (sent.bufFits a c.outbuf outs (outs / 16 + 1) = (true, s₂) → s₂.dev = s.dev → State.collOverlap c s.dev = false →
        s.runColl c others = (({ s₂ with free := s₂.free + 1 } : State).writeBuf a c.outbuf (fun _ => true) out 0
          (outs / 16 + 1)).endColl c 2 0) ∧
      (sent.bufFits a c.outbuf outs (outs / 16 + 1) = (false, s₂) → s.runColl c others = s₂.failHere c 0x03 (some out))) ∧
    (∀ s₁ others, s.readBuf a c.inbuf n (n / 16 + 1) = (none, s₁) → s.runColl c others = s₁.failHere c 0x03 none) ∧
    ∀ (fcode : Byte) (result : Option (List (Byte × Bool))) (cstate : Nat),
      let s₁ := (s.afterChange [c.desc]).storeHomeBytes (c.desc + 56) (leBytes 1 cstate ++ [fcode]) false
      let bytes := result.getD ((List.range outs).map (Config.collResult s.free))
      s.endColl c cstate fcode =
        ({ s₁ with colls := s₁.colls.erase c } : State).wakeAllCopy (fun w => w == .coll c.desc || w == .freeColl) ∧
      s.failColl c fcode result = (({ s with free := s.free + 1 } : State).writeBuf a c.outbuf
        (Config.collChosen s.free) bytes 0 (outs / 16 + 1)).endColl c 3 fcode ∧
      s.failHere c fcode result = (s.send (.collectiveFailed c.cid fcode)).failColl c fcode result

/-- R202, R204: the elements of the output, from the inputs of the participants in order of device number, each of `c.count`
elements of the collective's type. An all-reduce, and a reduce at its root, give element by element the reduction of the
participants' elements, poisoned where one of them is; a reduce elsewhere gives nothing, a broadcast the input of the root,
and a gather the inputs one after the other. An integer sum wraps to the type, a float one is the exact sum rounded once, and
a minimum or maximum of integers is the least or the greatest. -/
def Claim.CollectiveResults : Prop :=
  ∀ (c : Coll) (dev : Nat) (ins : List (Nat × List (Byte × Bool))), collType c.ty = true →
    let w := c.ty.width
    let out := State.collOutput c dev ins
    let values (i : Nat) := ins.map fun x => (State.elemAt w x.2 i).1
    let m := (Rm.ofCode? c.rm).getD .rne
    (∀ x ∈ ins, x.2.length = c.count * w / 8) →
    (c.cop = 0 ∨ c.cop = 1 ∧ c.root = dev → out.length = c.count * w / 8 ∧ ∀ i < c.count, State.elemAt w out i =
      (State.collReduce c (values i) % 2 ^ w, ins.any fun x => (State.elemAt w x.2 i).2)) ∧
    (c.cop = 1 → c.root ≠ dev → out = []) ∧
    (∀ x, c.cop = 2 → ins.find? (fun x => x.1 == c.root) = some x → out = x.2) ∧
    (∀ k x, c.cop = 3 → ins[k]? = some x → ∀ i < c.count, State.elemAt w out (k * c.count + i) = State.elemAt w x.2 i) ∧
    ∀ xs : List Nat,
      (c.ty.isInt = true → c.red = 0 → (State.collReduce c xs : Int) = (xs.map (readInt c.ty)).sum % 2 ^ w) ∧
      (c.ty.isInt = true → c.red = 1 → ∀ v ∈ xs, (∀ u ∈ xs, readInt c.ty v ≤ readInt c.ty u) →
        (State.collReduce c xs : Int) = readInt c.ty v % 2 ^ w) ∧
      (c.ty.isInt = true → c.red = 2 → ∀ v ∈ xs, (∀ u ∈ xs, readInt c.ty u ≤ readInt c.ty v) →
        (State.collReduce c xs : Int) = readInt c.ty v % 2 ^ w) ∧
      (c.ty.isFloat = true → c.red = 0 → State.collReduce c xs =
        (c.ty.format.round (exactSum (xs.map fun x => (c.ty.format.val (x % 2 ^ w)).1) m).1 m false).1)

/-- A collective starts, is waited for by CSTATE, and ends. Rests on log entries 5 and 104. -/
def Obligations.Collectives : Prop :=
  Claim.CollectivesStart ∧ Claim.CollectivesAreWaitedFor ∧
    Claim.CollectivesEnd ∧ Claim.CollectivesWriteTheirState ∧ Claim.CollectiveResults

/-- R108, R110, R125, R129 to R133: the plane and chain instructions whose checks pass. That the operand is read, and the rows
are taken, at issue is the model's reading (log entry 22). `s₀` is the state after what a
shell kept of the Crucible is restored, and `s₁` that in which the thread holds the Crucible. -/
def Claim.PlanesAndChains : Prop :=
  ∀ (s s₀ s₁ : State) (t : Thread) (g : Guard) (cru : BitVec 1),
    let r := s.issuer
    let key := keyOf r.who
    let n := cru.toNat
    let put (f : Crucible → Crucible) := Completes s (s₁.modCru r.core n f)
    (s.savedPlane? r.core key.1 key.2 n = none ∧ s₀ = s ∨
      (s.savedPlane? r.core key.1 key.2 n).isSome = true ∧ s.claim r.core key.1 key.2 n = (true, s₀)) →
    (∀ (fmt : Fmt) (ks : KStep) (qt : Bool) (a : Src) (off : BitVec 16) (pr : BitVec 8),
      let len := operandBytes fmt ks.k qt
      let x := cruAddr t a off.toNat
      let rd := s₀.operandRead r key.1 x len
      Issues s t g [(a, 1)] [] [] → s.scratchOpWaits r = false → imageTrap fmt ks.k qt x rd.1 = none → rd.2 = none →
      (cruFault s₀ r t (otherChain s₀ r n) [] [(a, off.toNat, len)] = none → s₀.claim r.core key.1 key.2 n = (true, s₁) →
        exec (.mload g fmt ks qt cru a off pr) s = put fun k =>
          { k with shadow := k.shadow.write (pr.toNat * fmtBytes fmt 16) (planeRows fmt ks.k qt rd.1)
                   spois := k.spois.delRange pr.toNat ks.k }) ∧
      (∀ ch k, openChain s₀ r n = some ch → ch.fmt = fmt → cruOf s₀ r n = k →
        cruFault s₀ r t false [] [(a, off.toNat, len)] = none →
        ((s₀.taskOf? r).bind fun q => slotPoison q [ch.slot]) = none → otherSteps s₀ r n ch.slot = false → planePoison k n pr.toNat ks.k = none →
        let rows := k.active.read (pr.toNat * fmtBytes fmt 16) (ks.k * fmtBytes fmt 16)
        let job : KStepJob := { place := key.1, slot := ch.slot, fmt, k := ks.k, act := rd.1, rows }
        exec (.mstream g fmt ks qt cru a off pr) s =
          Completes s (s₀.modCru r.core n fun c => { c with jobs := c.jobs ++ [job] }))) ∧
    (Issues s t g [] [] [] →
      (otherChain s₀ r n = false → s₀.claim r.core key.1 key.2 n = (true, s₁) →
        exec (.mflip g cru) s = put fun k =>
          { k with active := k.shadow, shadow := k.active, apois := k.spois, spois := k.apois }) ∧
      (∀ (fmt : Fmt) (sla : BitVec 8), cruFault s₀ r t (openChain s₀ r n).isSome [sla.toNat] [] = none →
        chainWaits s₀ r [sla.toNat] = false → s₀.claim r.core key.1 key.2 n = (true, s₁) →
        exec (.mbegin g fmt cru sla) s = put fun k => { k with chain := some { slot := sla.toNat, fmt, closed := false } }) ∧
      ((openChain s₀ r n).isSome = true → exec (.mend g cru) s = Completes s (s₀.closeChain r.core n)))

/-- R113, R118, R125, R127, R134 to R139: the slot and tile instructions whose checks pass and that no chain holds
back; operands are read and slots written at issue (log entry 22). Under FILL the granules written become full when the work
ends. No atomic of the thread on its own scratchpad is still to
be performed. -/
def Claim.SlotsAndTiles : Prop :=
  ∀ (s : State) (t : Thread) (g : Guard) (a : Src) (off : BitVec 16) (sla : BitVec 8) (task : Task),
    let r := s.issuer
    let key := keyOf r.who
    let read (x n : Nat) := s.operandRead r key.1 x n
    let at_ := cruAddr t a off.toNat
    let onTask (f : Task → Task) := Completes s (s.modTask r.core key.1 f)
    let written (bs : List Byte) (fill : Bool) : State :=
      let s' := s.scratchWrite r.core key.1 at_ bs false
      let fills := (List.range ((bs.length + 15) / 16)).map fun i => at_ / 16 + i
      let work : CruWork := { place := key.1, tidx := key.2, fills }
      if fill then s'.modCore r.core fun c => { c with work := c.work ++ [work] }
      else s'
    s.taskOf? r = some task → s.scratchOpWaits r = false →
    (chainWaits s r [sla.toNat] = false →
      (Issues s t g [] [] [] → cruFault s r t false [sla.toNat] [] = none →
        exec (.mzero g sla) s = onTask fun k => k.putSlot sla.toNat fun _ => .zero) ∧
      (Issues s t g [(a, 1)] [] [] → cruFault s r t false [sla.toNat] [(a, off.toNat, 1024)] = none →
        (read at_ 1024).2 = none →
        exec (.minit g a off sla) s = onTask fun k => k.putSlot sla.toNat fun e =>
          .ofF32 (leNat (((read at_ 1024).1.drop (4 * e)).take 4))) ∧
      (∀ (ofmt : OFmt) (drm : RmField) (rm : Rm) (dsat fill : Bool), Issues s t g [(a, 1)] [] [] →
        cruFault s r t false [sla.toNat] [(a, off.toNat, 256 * ((ofmtTy ofmt).w / 8))] = none → rmOf t drm = some rm →
        slotPoison task [sla.toNat] = none →
        let bs := drainBytes task sla.toNat ofmt rm dsat
        s.storesMeet r key.1 at_ bs.length = false →
        exec (.mdrain g ofmt drm dsat fill a off sla) s = Completes s (written bs fill)) ∧
      (∀ d : Reg, Issues s t g [] [(d, 1)] [] → cruFault s r t false [sla.toNat] [] = none →
        slotPoison task [sla.toNat] = none →
        exec (.mstat g d sla) s = Writes s fun t => t.setReg d (BitVec.ofNat 32 (slotSummary task sla.toNat)))) ∧
    (∀ (zs : Bool) (b : Src) (slb : BitVec 8),
      let sa := read at_ 16
      let sb := read (cruAddr t b 0) 16
      Issues s t g [(a, 1), (b, 1)] [] [] → chainWaits s r [sla.toNat, slb.toNat] = false →
      cruFault s r t (sla == slb) [sla.toNat, slb.toNat] [(a, off.toNat, 16), (b, 0, 16)] = none →
      sa.2 = none → sb.2 = none → slotPoison task [sla.toNat, slb.toNat] = none →
      exec (.mscale g zs a b off slb sla) s = onTask fun k => scaleTask k zs sla.toNat slb.toNat sa.1 sb.1) ∧
    (∀ (fmt : Fmt) (ks : KStep) (fill : Bool) (b : Src),
      let rd := read (cruAddr t b 0) (64 * ks.k)
      let bs := quantImage fmt ks.k ((chunks 4 (16 * ks.k) rd.1).map leNat)
      Issues s t g [(a, 1), (b, 1)] [] [] →
      cruFault s r t false [] [(a, off.toNat, imageBytes fmt ks.k), (b, 0, 64 * ks.k)] = none → rd.2 = none →
      s.storesMeet r key.1 at_ bs.length = false →
      exec (.qtile g fmt ks fill a b off) s = Completes s (written bs fill))

/-- Plane, chain, slot and tile instructions of a Crucible. Rests on log entry 22. -/
def Obligations.CrucibleInstructions : Prop :=
  Claim.PlanesAndChains ∧ Claim.SlotsAndTiles

/-- R108, R112, R115, R127, R133: while the cores run, the oldest k-step of a Crucible is applied to its slot, the last one of a
closed chain frees the Crucible; the first thread that waits takes a free Crucible; and the oldest work that fills granules
ends. R112 lets k-steps complete in any order: that they go in the order of their issue, and that the full bits are set by an
event of their own, is the model's choice (log entry 22). -/
def Claim.CrucibleEvents : Prop :=
  ∀ (s : State) (core : Nat) (c : Core), s.coresRun = true → s.core? core = some c →
    (∀ (n : Nat) (k : Crucible), c.cru? n = some k →
      (∀ q js, k.jobs = q :: js →
        let s₁ := ((s.modTask core q.place q.apply).modCru core n fun k => { k with jobs := js }).modCore core fun c =>
          { c with count := { c.count with ksteps := c.count.ksteps + 1 } }
        exec (.kstepComplete core n) s =
          .next (if js = [] ∧ k.chain.any Chain.closed = true then s₁.freeCru core n else s₁)) ∧
      (∀ place tidx l, k.holder = none → k.waiters = (place, tidx) :: l →
        exec (.crucibleClaim core n) s = .next (s.claim core place tidx n).2)) ∧
    (∀ w l, c.work = w :: l →
      exec (.crucibleInstructionComplete core) s =
        .next ((s.modCore core fun c => { c with work := c.work.erase w }).setFills core w.place w.fills))

/-- R115, R132: a k-step merges into each of the 256 entries of its slot the exact products of its activations and
weights, and leaves every other slot as it was. -/
def Claim.KStepAccumulates : Prop :=
  ∀ (q : KStepJob) (t : Task) (slot i j : Nat), i < 16 → j < 16 →
    (q.apply t).acc slot (16 * i + j) =
      if slot = q.slot then
        (t.acc slot (16 * i + j)).merge (q.terms i j)
      else t.acc slot (16 * i + j)


/-- Queued k-steps are applied in order, and each merges exact products into its slot. Rests on log entry 22. -/
def Obligations.CrucibleEngine : Prop :=
  Claim.CrucibleEvents ∧ Claim.KStepAccumulates


/-! ## Traps, privilege and recovery (R312 to R350) -/

/-- R343, R344, R347: the instructions that raise a trap. A system call of a thread whose context has a call ring leaves
v0:v1 empty, advances the PC and posts its record once its older accesses are done; without a ring it traps SYS. -/
def Claim.TrapRaisingInstructions : Prop :=
  ∀ (s : State) (t : Thread) (g : Guard) (n : BitVec 16) (m : BitVec 8) (a : Src),
    let r := s.issuer
    (Clean s t g [({ reg := 2, trap := false }, 6)] [(0, 2)] [] →
      (callRingOf s r ≠ 0 → s.drained r = true →
        exec (.sys g n) s = Stays s ((s.modThread r fun t =>
          { t.setEmpty 0 2 with pc := nextPC t.pc, state := .syscall n, wait := 0 }).postCall
            r.core (keyOf r.who).1 (keyOf r.who).2)) ∧
      (callRingOf s r = 0 → exec (.sys g n) s = Traps s { kind := .sys, sub := 0 })) ∧
    (Issues s t g [] [] [] → exec (.brk g m) s = Traps s { kind := .brk, sub := m }) ∧
    (Clean s t g [(a, 1)] [] [] →
      exec (.trap g m a) s = Traps s { kind := .trap, sub := m, addr := (t.reg a.reg).zeroExtend 64 })

/-- R346, R347: `trap.sret` takes v0 to v3, v61, the link pair, FPCTL and the predicates from the frame at v61, and
the PC with them, once no result is on its way to a register or predicate it restores. -/
def Claim.SignalReturn : Prop :=
  ∀ (s : State) (t : Thread) (g : Guard) (k : Task) (place tidx : Nat),
    let r := s.issuer
    let f := (t.reg 61).toNat % 2 ^ 20
    let rd := s.scratchRead r.core place f 64
    let fw := forwarded t.queue (.scratch r.core place f false) rd.1 rd.2
    let pc : DWord := BitVec.ofNat 64 (leNat (fw.1.take 8))
    r.who = .user place tidx → s.task? r.core place = some k →
    Clean s t g [({ reg := 61, trap := false }, 1)] [(0, 4), (61, 3)] [1, 2, 3, 4, 5, 6, 7] →
    f % 16 = 0 → f + 64 ≤ k.scratch → State.accessWaits t = false → (fw.2.take 12).any id = false →
    pcBad pc = false →
    exec (.trapSret g) s = Jumps s (s.modThread r fun t => unframe t fw.1 fw.2) pc ∧
    (∀ x ∈ [((0 : Reg), 0x10), (1, 0x14), (2, 0x18), (3, 0x1C), (61, 0x20), (62, 0x28), (63, 0x2C)],
      (unframe t fw.1 fw.2).reg x.1 = BitVec.ofNat 32 (leNat ((fw.1.drop x.2).take 4))) ∧
    (unframe t fw.1 fw.2).fpctl = BitVec.ofNat 32 (leNat ((fw.1.drop 8).take 4) % 2 ^ 14) ∧
    (unframe t fw.1 fw.2).preds = BitVec.ofNat 8 (leNat ((fw.1.drop 12).take 1)) &&& 0xFE

/-- sys, brk and trap raise their traps, and trap.sret restores its frame. -/
def Obligations.TrapsRaisedByInstructions : Prop :=
  Claim.TrapRaisingInstructions ∧ Claim.SignalReturn

/-- R42 step 3, R313, R315: every privileged instruction of a user thread raises PRIV, whatever its guard. -/
def Obligations.PrivilegedInstructionsOfUsersTrap : Prop :=
  ∀ (s : State) (t : Thread) (place tidx : Nat) (i : Instr), s.issuer.who = .user place tidx →
    Issues s t { neg := false, q := 0 } [] [] [] →
    ((∃ g, i = .rfe g) ∨ (∃ g, i = .halt g) ∨ (∃ g x, i = .tlbinv g x) ∨ (∃ g d a b, i = .ctxsave g d a b) ∨
      (∃ g d a, i = .ctxload g d a) ∨ (∃ g d a, i = .kload g d a) ∨ (∃ g d a, i = .kclr g d a) ∨
      (∃ g d a, i = .riserpop g d a) ∨ (∃ g d a, i = .resumeRetry g d a) ∨ (∃ g d a, i = .resumeSkip g d a) ∨
      (∃ g d a b, i = .resumeSys g d a b) ∨ (∃ g d a b n, i = .resumeSetv g d a b n) ∨
      (∃ g d a b, i = .sigpost g d a b) ∨ (∃ g d a, i = .planset g d a) ∨ (∃ g d, i = .plancommit g d) ∨
      (∃ g d a, i = .biassetTodev g d a) ∨ (∃ g d a, i = .biassetTohost g d a)) →
    exec i s = Traps s { kind := .priv, sub := 0 }

/-- R297, R312, R318 to R320: `rfe`, `halt` and `tlbinv` of a Caster thread whose older accesses are done. -/
def Claim.ReturnHaltAndInvalidate : Prop :=
  ∀ (s : State) (t : Thread) (g : Guard) (n : Nat), s.issuer.who = .caster n →
    let r := s.issuer
    (Issues s t g [] [] [] →
      (s.releaseReady r .dev = true → s.drained r = true → exec (.rfe g) s = Stays s (endStart s r.core n)) ∧
      exec (.halt g) s = Stays s (s.haltCore r.core 0xFF n 0 0)) ∧
    (∀ sel : TlbSel, s.releaseReady r .sys = true →
      let asid (b : Src) : BitVec 16 := (t.reg b.reg).extractLsb' 0 16
      let va (a : Src) : DWord := t.reg64 a.reg &&& ~~~0xFFF#64
      let k : Shoot := match sel with
        | .all => { direct := false, tlbk := 0, asid := 0, va := 0 }
        | .asid b => { direct := false, tlbk := 1, asid := asid b, va := 0 }
        | .asidva a b => { direct := false, tlbk := 2, asid := asid b, va := va a }
        | .va a => { direct := false, tlbk := 3, asid := 0, va := va a }
      Clean s t g (tlbSrcs sel) [] [] → s.shootWaits k = false → exec (.tlbinv g sel) s = Completes s (s.invalidate k))

/-- R300, R324: `kload` and `kclr` answer INVALID for a slot number 0 or above 255, and else act on the slot: a staged key is
installed in a slot that holds none, where the lines of the slot's pages verify that lie in HBM under this key (log entry 55);
and a key that no task uses is erased and kept among the past ones (log entry 119), with every cached copy of the slot's pages:
a line that was dirty in the L2 reads from then on as HBM holds it, a free value (log entry 118). -/
def Claim.KeySlots : Prop :=
  ∀ (s : State) (t : Thread) (g : Guard) (d : Reg) (a : Src) (n : Nat), s.issuer.who = .caster n →
    let k := (t.reg a.reg).toNat
    let slot := s.keySlot k
    let used : Bool := s.cores.any fun c => c.tasks.any fun p => p.2.ctx.kslot.toNat == slot.slot && !p.2.threads.isEmpty
    let gives (i : Instr) (s' : State) (x : Status) := exec i s = Completes s (s'.answer d x)
    Clean s t g [(a, 1)] [(d, 1)] [] →
    (k = 0 ∨ 255 < k → gives (.kload g d a) s .invalid ∧ gives (.kclr g d a) s .invalid) ∧
    (1 ≤ k → k ≤ 255 →
      (slot.staged = none → gives (.kload g d a) s .noKey) ∧
      (∀ key, slot.staged = some key →
        (slot.key.isSome = true → gives (.kload g d a) s .inUse) ∧
        (slot.key = none →
          let s₁ := match slot.last with
            | some last => rekey s slot.slot last key
            | none => s
          gives (.kload g d a)
            (s₁.putKeySlot { slot with key := some key, staged := none, window := [], last := some key }) .ok)) ∧
      (used = true → gives (.kclr g d a) s .inUse) ∧
      (used = false → slot.key = none → gives (.kclr g d a) s .ok) ∧
      (∀ key, used = false → slot.key = some key →
        let s₁ := (slotPages s slot.slot).foldl (fun (s : State) p => dropL2 (s.dropPage p) p) s
        gives (.kclr g d a) (s₁.putKeySlot
          { slot with key := none, window := [], past := slot.past ++ [(slot.ctr.toNat, key)] }) .ok))

/-- rfe, halt and tlbinv of a Caster thread, and loading and clearing key slots. Rests on log entries 55, 118 and 119. -/
def Obligations.ReturnHaltAndKeys : Prop :=
  Claim.ReturnHaltAndInvalidate ∧ Claim.KeySlots

/-- R325, R326, R344: `riserpop` writes the oldest record to memory and answers its handle, or 0 for an empty Riser or
an address that is no place for it. The forms of `resume` set a parked thread going at its instruction, after it, with the
result of its call where the return passes its check, or give it a register; they answer NOTASK for a handle that names no
live thread, and INVALID for a thread that does not wait as the form asks. Records are those that are shown: one whose thread
still waits for a peer is not yet (log entry 20). That `resume.skip` drops the exact value kept for the instruction is log
entry 44, and where the check of the return of `resume.sys` stands log entry 113. -/
def Claim.RiserAndResume : Prop :=
  ∀ (s : State) (t : Thread) (g : Guard) (d : Reg) (a : Src) (n : Nat), s.issuer.who = .caster n →
    let core := s.issuer.core
    let pa := (t.reg64 a.reg).toNat
    let h := t.reg a.reg
    let gives (i : Instr) (s' : State) (x : Status) := exec i s = Completes s (s'.answer d x)
    (∀ c, s.core? core = some c → Clean s t g [(a, 2)] [(d, 1)] [] →
      (State.shownRecords c = [] ∨ s.paOk pa 64 = false → exec (.riserpop g d a) s = Completes s (s.giveReg d 0)) ∧
      (∀ f l, State.shownRecords c = f :: l → s.paOk pa 64 = true →
        exec (.riserpop g d a) s = if (popRiser s core pa f).devWaits then Holds s
          else Completes s ((popRiser s core pa f).giveReg d f.handle))) ∧
    (Clean s t g [(a, 1)] [(d, 1)] [] →
      (liveNamed? s core h = none →
        gives (.resumeRetry g d a) s .noTask ∧ gives (.resumeSkip g d a) s .noTask) ∧
      (∀ r u, liveNamed? s core h = some (r, u) →
        (inRiser u = false → gives (.resumeRetry g d a) s .invalid ∧ gives (.resumeSkip g d a) s .invalid) ∧
        (inRiser u = true → gives (.resumeRetry g d a) (s.resumeAt r h u.pc) .ok ∧
          ∀ pc s₁, successor s r u.pc = (some pc, s₁) → gives (.resumeSkip g d a)
            ((s₁.resumeAt r h pc).modThread r fun t => { t with kept := none, starting := false }) .ok))) ∧
    (∀ b : Src, Issues s t g [(a, 1), (b, 2)] [(d, 1)] [] → firstPoison t [(a, 1)] = none →
      (liveNamed? s core h = none → gives (.resumeSys g d a b) s .noTask) ∧
      (∀ r u, liveNamed? s core h = some (r, u) →
        (inCall u = false → gives (.resumeSys g d a b) s .invalid) ∧
        (∀ s₁, inCall u = true → s.checkTarget r u.pc = (.ok, s₁) → gives (.resumeSys g d a b)
          ((s₁.freeCall r.core (keyOf r.who).1 (keyOf r.who).2).modThread r fun v =>
            { v.setRegs 0 2 (t.reg64 b.reg).toNat (poisA t b 2) with state := .runnable, wait := 0 }) .ok))) ∧
    (∀ (b : Src) (v : Reg), Issues s t g [(a, 1), (b, 1)] [(d, 1)] [] → firstPoison t [(a, 1)] = none →
      (liveNamed? s core h = none → gives (.resumeSetv g d a b v) s .noTask) ∧
      (∀ r u, liveNamed? s core h = some (r, u) →
        (inRiser u = false → inCall u = false → gives (.resumeSetv g d a b v) s .invalid) ∧
        (inRiser u = true ∨ inCall u = true → gives (.resumeSetv g d a b v)
          (s.modThread r fun u => u.setReg v (t.reg b.reg) (t.isPois b.reg)) .ok)))

/-- R321: `ctxsave` of a task of the core writes the task's shell and answers OK where issue has stopped for the task and its
cluster, nothing of its threads is outstanding and no write of its copies is under way; until then it holds with issue stopped.
The checks of the address and of the key slot are made once, before issue stops. It holds, too, while a page of the shell is in
a change (R209, R299). A handle that names no task gives NOTASK. -/
def Claim.ContextsSaved : Prop :=
  ∀ (s : State) (t : Thread) (g : Guard) (d : Reg) (a b : Src) (n : Nat) (c : Core), s.issuer.who = .caster n →
    let core := s.issuer.core
    let pa := (t.reg64 a.reg).toNat
    let gives (s' : State) (x : Status) := exec (.ctxsave g d a b) s = Completes s (s'.answer d x)
    Clean s t g [(a, 2), (b, 1)] [(d, 1)] [] → s.core? core = some c →
    (s.named? core (t.reg b.reg) = none → gives s .noTask) ∧
    ∀ (place tidx : Nat) (k : Task), s.named? core (t.reg b.reg) = some (place, tidx) → s.task? core place = some k →
      k.threads ≠ [] →
      let room := s.paOk pa (256 + (s.shellSizes core place c k).body)
      let keyed := k.ctx.kslot = 0 ∨ (s.keySlot k.ctx.kslot.toNat).key.isSome = true
      let threads := State.threadRefs core place k
      let s₁ := threads.foldl State.quiet (s.stopIssue core place n k)
      let done := threads.all s₁.quietNow = true ∧ s₁.copySends core place = false
      (k.saver ≠ some n → room = false → gives s .badAddr) ∧
      (k.saver ≠ some n → room = true → ¬ keyed → gives s .noKey) ∧
      (k.saver = some n ∨ room = true ∧ keyed → done →
        exec (.ctxsave g d a b) s = if (s₁.saveTask core place pa).devWaits then Holds s₁
          else Completes s ((s₁.saveTask core place pa).answer d .ok)) ∧
      (k.saver = some n ∨ room = true ∧ keyed → ¬ done → exec (.ctxsave g d a b) s = Holds s₁)

/-- R322: `ctxload` of a shell that passes its checks loads it and gives the handle of its task; else it answers the status
of the first check that fails, and handle 0. It reads the header, and the body where the header is sound; while a page of the
shell is in a change it holds (R209, R299). -/
def Claim.ContextsLoaded : Prop :=
  ∀ (s s₁ : State) (t : Thread) (g : Guard) (d : Reg) (a : Src) (n : Nat) (head : List Byte) (torn : Bool),
    s.issuer.who = .caster n →
    let core := s.issuer.core
    let pa := (t.reg64 a.reg).toNat
    let size := (State.headerSizes head).body
    let s₂ := if State.headerOk head && s₁.paOk pa (256 + size) then (s₁.devLoad (pa + 256) size).2.2 else s₁
    let gives (s' : State) (x : Status) (handle : Word) :=
      exec (.ctxload g d a) s = if s'.devWaits then Holds s else Completes s ((s'.answer d x).giveReg (d + 1) handle)
    Clean s t g [(a, 2)] [(d, 2)] [] → s.devLoad pa 256 = (head, torn, s₁) →
    (s.paOk pa 256 = false → exec (.ctxload g d a) s = Completes s ((s.answer d .badAddr).giveReg (d + 1) 0)) ∧
    (∀ why, s.paOk pa 256 = true → s₂.shellCheck core pa head torn = .error why → gives s₂ why 0) ∧
    (∀ body, s.paOk pa 256 = true → s₂.shellCheck core pa head torn = .ok body →
      gives (s₂.loadTask core pa head body).2 .ok (s₂.loadTask core pa head body).1)

/-- Records leave the Riser, threads resume, and tasks are saved to and loaded from shells. Rests on log entries 20, 44 and 113. -/
def Obligations.RiserResumeAndContexts : Prop :=
  Claim.RiserAndResume ∧ Claim.ContextsSaved ∧ Claim.ContextsLoaded

/-- R278, R280, R327 to R329: `sigpost`, `planset`, `plancommit` and the bias requests of a Caster thread. During a commit both
plan instructions hold; a page outside HBM gives INVALID. That `sigpost` tests the number before the handle is log entry 54,
that a plan with reserved bits set is INVALID log entry 62, and one that reads as poisoned log entry 126. -/
def Obligations.SignalsPlansAndBias : Prop :=
  ∀ (s : State) (t : Thread) (g : Guard) (d : Reg) (a : Src) (n : Nat), s.issuer.who = .caster n →
    let r := s.issuer
    let gives (i : Instr) (x : Status) := exec i s = Completes s (s.answer d x)
    (∀ b : Src, Clean s t g [(a, 1), (b, 1)] [(d, 1)] [] →
      let signo := t.reg b.reg
      (63 < signo.toNat → gives (.sigpost g d a b) .invalid) ∧
      (signo.toNat ≤ 63 → liveNamed? s r.core (t.reg a.reg) = none → gives (.sigpost g d a b) .noTask) ∧
      (∀ q u, signo.toNat ≤ 63 → liveNamed? s r.core (t.reg a.reg) = some (q, u) →
        (u.signal.isSome = true → gives (.sigpost g d a b) .pending) ∧
        (u.signal = none → exec (.sigpost g d a b) s = Completes s ((s.modThread q fun u =>
          { u with signal := some (signo.extractLsb' 0 6) }).giveReg d 0)))) ∧
    (s.commit.isSome = true →
      (Clean s t g [(a, 2)] [(d, 1)] [] → exec (.planset g d a) s = Holds s) ∧
      (Issues s t g [] [(d, 1)] [] → exec (.plancommit g d) s = Holds s)) ∧
    (s.commit = none →
      (Clean s t g [(a, 2)] [(d, 1)] [] →
        let pa := (t.reg64 a.reg).toNat
        let x := s.devLoad pa 1024
        let s₁ := x.2.2
        let good := planOk (planOf x.1) && planZero x.1 && !x.2.1
        (s.paOk pa 1024 = false → gives (.planset g d a) .badAddr) ∧
        (s.paOk pa 1024 = true → exec (.planset g d a) s = if s₁.devWaits then Holds s else Completes s (if good
          then ({ s₁ with staged := some (planOf x.1), planErr := false } : State).giveReg d 0
          else ({ s₁ with planErr := true } : State).answer d .invalid))) ∧
      (Issues s t g [] [(d, 1)] [] →
        (s.staged = none → gives (.plancommit g d) .noPlan) ∧
        (∀ p, s.staged = some p → exec (.plancommit g d) s = Completes s ((startCommit s p).giveReg d 0)))) ∧
    (Clean s t g [(a, 1)] [(d, 1)] [] →
      let page := (t.reg a.reg).toNat
      (∀ f ∈ s.flips, f.waiter ≠ some (r, d)) →
      (2 ^ 27 ≤ page ∨ s.part.hbmBytes ≤ page * 4096 →
        gives (.biassetTodev g d a) .invalid ∧ gives (.biassetTohost g d a) .invalid) ∧
      (page < 2 ^ 27 → page * 4096 < s.part.hbmBytes →
      let flip (toHost : Bool) := Stays s (s.requestFlip { page, toHost, byHost := false, waiter := some (r, d), lines := [] })
      exec (.biassetTodev g d a) s = flip false ∧ exec (.biassetTohost g d a) s = flip true))

/-- R336, R338, R339: taking a trap. A user thread leaves the lists it waits in and its older work completes; what then is
reported parks it in the Riser, and the record enters the Riser of its core, where that has room: kind and cause, PC, core,
TIDX, handle, LID and the time of the trap. While a peer has not answered, the record stands in its place and is not shown (log
entry 20). Memory, the device registers and every other thread stay as they were. -/
def Claim.TakingATrap : Prop :=
  ∀ (s : State) (core place tidx : Nat) (t : Trap) (th : Thread) (k : Task) (c : Core) (shown : Bool),
    let r : ThreadRef := { core, who := .user place tidx }
    s.thread? r = some th → s.task? core place = some k → s.core? core = some c →
    k.cluster = none → t.kind ≠ .watch → c.riser.length < 64 →
    let s' := s.writeRecord core place tidx t shown
    let f : FaultRec :=
      { tidx, core, trap := t, pc := th.pc, handle := s.handle core place tidx, lid := k.lid, time := s.cycle, shown }
    (s'.core? core).map Core.riser = some (c.riser ++ [f]) ∧
    s'.thread? r = some { th with state := .riser, trapping := !shown, wait := 0, yielded := false
                                  stop := if t.kind == .peerFault then none else th.stop } ∧
    s'.mem = s.mem ∧ s'.regs = s.regs ∧
    (∀ r' : ThreadRef, r' ≠ r → s'.thread? r' = s.thread? r') ∧
    ∀ s₀ : State, s₀.withdraw r = s →
      (s.drained r = true → th.later = [] → th.fails = [] → shown = true → s₀.takeTrap r t = s') ∧
      (s.drained r = false → shown = false → s₀.takeTrap r t = s')

/-- R313, R350: the trap of a Caster thread is a machine check, and while it serves CAUSE 5 it takes the core out of
service. Where another thread serves CAUSE 5, or the line of the entry has not come, the machine check waits. -/
def Claim.TrapsOfCasterThreads : Prop :=
  ∀ (s : State) (core n : Nat) (t : Trap) (c : Core) (k : Caster),
    s.core? core = some c → c.casters[n]? = some k →
    (k.cause = 5 → s.takeTrap { core, who := .caster n } t = s.haltCore core 0x04 n k.thr.pc (State.trapWord t)) ∧
    (k.cause ≠ 5 →
      let r : ThreadRef := { core, who := .caster n }
      let s₁ := (((s.dropReserved r).drain r).stopCaster core n).reportMcheck core 0x01 n k.thr.pc (State.trapWord t) 0 0
      let later := s₁.modCore core fun c => { c with mcheck := c.mcheck ++ [0x01] }
      ∀ c', s₁.core? core = some c' → s.takeTrap r t =
        if State.serving c' 5 then later else s₁.startFive core n 0x01 later)

/-- R340, R342, R346: what waits for a thread is taken in this order: a stop of its cluster, a report that came with its
shell, its oldest failure after issue, the fault of a stopped copy, and a signal; all of them while the cores run. The order
is the model's reading (log entries 19 and 102), and so is which blocked threads report at once (log entry 18). -/
def Claim.ReportsOfThreads : Prop :=
  ∀ (s : State) (r : ThreadRef) (t : Thread), s.coresRun = true → s.thread? r = some t →
    s.reportable r t = true →
    (∀ x, t.stop = some x → exec (.peerFaultStop r) s = .next (s.takeStop r x)) ∧
    (t.stop = none →
      (∀ f l, t.later = f :: l → exec (.failureAfterIssue r) s = .next (s.takeLater r f)) ∧
      (t.later = [] →
        (∀ f l, t.fails = f :: l → exec (.failureAfterIssue r) s = .next (s.takeFailure r f.2)) ∧
        (t.fails = [] →
          (∀ c x, s.stoppedCopy? r = some (c, x) → exec (.copyFaultReport r) s = .next (s.takeCopyFault r c x)) ∧
          (s.stoppedCopy? r = none → exec (.signalDelivery r) s = .next (s.deliverSignal r)))))


/-- Taking a trap saves the record and parks the thread; what waits for a thread is reported in order. Rests on log entries 18, 19, 20 and 102. -/
def Obligations.TrapEntryAndReports : Prop :=
  Claim.TakingATrap ∧ Claim.TrapsOfCasterThreads ∧ Claim.ReportsOfThreads


/-! ## What cores, memory and the fabric do of themselves -/

/-- R24, R222, R253, R300: a line that arrives and whose parity holds is what the core knows of its address; one whose parity
fails counts a corrected error and is fetched again, and fails a second time with a machine check. A line of a busy page does not
arrive, nor does any while the cores are stopped (R375). -/
def Claim.LinesArrive : Prop :=
  ∀ (s : State) (core pa : Nat) (c : Core),
    let la := lineOf pa
    let s₁ := s.verify la
    let bs := (s₁.homeRead la).1
    let twice := (s₁.iline? core la).any fun l => l.state == .parityOnce
    s.core? core = some c → s.targetOf? la = some (.mem la) →
    (s.coresRun = false ∨ s.pageBusy la = true → exec (.lineArrival core pa) s = .next s) ∧
    (s.coresRun = true → s.pageBusy la = false →
      (parityOk bs = true → exec (.lineArrival core pa) s = .next (s₁.putLine core la
        (some { pa := la, bytes := bs, state := lineState bs ((s₁.homeRead la).2 != 0) }))) ∧
      (parityOk bs = false → twice = false → exec (.lineArrival core pa) s =
        .next ((s₁.coreCorrected core).putLine core la (some { pa := la, bytes := bs, state := .parityOnce }))) ∧
      (parityOk bs = false → twice = true → exec (.lineArrival core pa) s =
        .next ((s₁.putLine core la none).lineCheckFails core la)))

/-- R222, R253: a thread that may issue, is not promoted and is not deferred by `yield` has its wait count raised to 2,048,
and the counts of the threads of its core that are promoted already grow past it; of any other thread nothing changes. A
deferral ends. -/
def Claim.PromotionAndYield : Prop :=
  ∀ (s : State) (r : ThreadRef) (t : Thread), s.thread? r = some t →
    (s.canIssue r t = false ∨ t.yielded = true ∨ 2048 ≤ t.wait → exec (.waitCountPromotion r) s = .next s) ∧
    (s.canIssue r t = true → t.yielded = false → t.wait < 2048 →
      let older (u : Thread) : Thread := if 2048 ≤ u.wait then { u with wait := u.wait + 1 } else u
      exec (.waitCountPromotion r) s = .next ((s.modCore r.core fun c =>
        { c with tasks := c.tasks.map fun p => (p.1, { p.2 with threads := p.2.threads.map older })
                 casters := c.casters.map fun k => { k with thr := older k.thr } }).modThread r fun u => { u with wait := 2048 })) ∧
    (s.coresRun = true → exec (.yieldExpiry r) s = .next (s.modThread r fun t => { t with yielded := false }))

/-- R146, R178: data that has arrived goes to its registers, which are full again, with the marks it came with; a thread
that waits for one of them goes on. Where nothing has arrived, nothing changes. The cores that run see it: a stopped core holds
(R375). -/
def Claim.LoadDataArrives : Prop :=
  ∀ (s : State) (r : ThreadRef) (t : Thread) (k : Nat) (p : Pend) (a : Arrived),
    s.thread? r = some t → t.pend[k]? = some p → s.coresRun = true →
    (p.got = none → exec (.loadDataArrival r k) s = .next s.settle) ∧
    (p.got = some a → exec (.loadDataArrival r k) s = .next (((s.modThread r fun t => { t with pend := t.pend.eraseIdx k }).modThread r fun t =>
      let t := t.setRegs p.dst p.words a.value.toNat a.poison
      let t := match a.pred with
        | some (q, b) => t.setPred q b
        | none => t
      match t.state with
      | .emptyReg v => if t.isFull v then { t with state := .runnable } else t
      | _ => t)).settle)

/-- R148, R161, R164, R169: a line that leaves the L1, a write-back that reaches its home, where the line of a narrow atomic
replaces what other cores hold of it with ownership, a write to the host that completes, and a push of the home to the cores
that subscribe a local line (log entries 8 and 36: the home slice and its HBM are one store, and the push is sent at once). A
store that waits for a peer's push leaves its queue only once its home has answered too. -/
def Claim.LinesLeaveTheCore : Prop :=
  ∀ (s : State) (core pa : Nat) (c : Core), s.core? core = some c → s.coresRun = true →
    let la := lineOf pa
    (s.l1Line? core la = none → exec (.l1LineEviction core pa) s = .next s) ∧
    (∀ l, s.l1Line? core la = some l → c.holdsLine la = true → exec (.l1LineEviction core pa) s = .next s) ∧
    (∀ l, s.l1Line? core la = some l → c.holdsLine la = false →
      exec (.l1LineEviction core pa) s = .next (s.modCore core fun c =>
        { c with l1 := c.l1.filter fun k => k.pa != la
                 wbacks := if l.dirty = 0 then c.wbacks else c.wbacks ++ [l] })) ∧
    (∀ l, c.wbacks.find? (·.pa == la) = some l → s.pageBusy la = false →
      let base := if l.owned then s else s.loseOwned core la
      exec (.writeBackComplete core pa) s = .next (((base.homeWrite la l.data l.dirty l.pois).modCore core fun c =>
        { c with wbacks := c.wbacks.erase l
                 hwrites := if s.hostSide la then c.hwrites ++ [la] else c.hwrites }
        ).pushLine la)) ∧
    exec (.hostWriteComplete core pa) s = .next (s.modCore core fun c => { c with hwrites := c.hwrites.erase la }) ∧
    (∀ line, (∃ u ∈ c.subs, u.target = .mem pa) → (∀ v ∈ c.subs, ∃ q, v.target = .mem q) →
      exec (.subscriptionPush core pa line) s = .next (s.pushLine pa)) ∧
    (∀ line, c.subs = [] → exec (.subscriptionPush core pa line) s = .next s)

/-- Lines arrive, data reaches its registers, and dirty lines leave the core. Rests on log entries 8 and 36. -/
def Obligations.LinesDataAndWriteBacks : Prop :=
  Claim.LinesArrive ∧ Claim.PromotionAndYield ∧ Claim.LoadDataArrives ∧ Claim.LinesLeaveTheCore

/-- R272, R281: a credit that returns frees a flit of the request class, up to what is outstanding. -/
def Claim.CreditsReturn : Prop :=
  ∀ (s : State) (d : Nat),
    exec (.creditReturn d) s = .next (if (s.dest d).reqOut = 0 then s
      else (s.modDest d fun e => { e with reqOut := e.reqOut - 1, req := if e.unreach then 0 else e.req + 1 }).wakeDest d)

/-- R177, R212, R272, R354: a response to a request of a thread, or of its subscription, frees its flit and answers it, each
unit of the bytes with its own mark, or fails the access with REMOTE_FAULT, which the thread reports; the queue of the
destination is considered again. A response that no request awaits changes nothing but for what may go on of itself. A failed
request frees its response flit too (log entry 68). -/
def Claim.ResponsesArrive : Prop :=
  ∀ (s : State) (tag : Nat),
    ((s.reqs.find? fun x => x.tag == tag) = none → ∀ x, exec (.responseArrival tag x) s = .next s.settle) ∧
    ∀ (q : PeerReq) (r : ThreadRef), (s.reqs.find? fun x => x.tag == tag) = some q → q.owner = .thread r ∨ q.owner = .sub r →
      let s₁ := s.responseBack q.dev
      let after (t : State) : Host.Outcome State Fault Refusal := .next (t.wakeDest q.dev).goDark.settle
      (∀ bs marks, exec (.responseArrival tag (.ok bs marks)) s =
        after (State.answerOk { s₁ with reqs := s₁.reqs.filter fun x => x.tag != tag } q bs marks)) ∧
      (∀ e : PeerAnswer, e = .unmapped ∨ e = .refused ∨ e = .notPresent → exec (.responseArrival tag e) s =
        after (s₁.failRequest q { kind := .remoteFault, sub := State.failSub q.kind q.dst, addr := q.va })) ∧
      ∀ f : Trap, q.owner = .sub r → s₁.failRequest q f =
        (State.modCore { s₁ with reqs := s₁.reqs.filter fun x => x.tag != q.tag } r.core fun c =>
          { c with subs := c.subs.filter fun u => u.target != .peer q.dev (lineOf q.off) }).modThread r fun th =>
            th.addFail q.issue f

/-- Credits free flits, and responses answer or fail the request they belong to. Rests on log entry 68. -/
def Obligations.CreditsAndResponses : Prop :=
  Claim.CreditsReturn ∧ Claim.ResponsesArrive

/-- R211, R212, R266, R354: the requests of a peer to bytes of one line of this device: a request that may not be served is
answered with its error, and one that may is performed at the home and answered: a read with its bytes, each unit with its
mark, a write with a completion, an atomic with the old bytes or, where it fetches nothing, a completion. A request to a page
that flips waits (log entries 124 and 125: so does one whose response has no lane). A peer that reads a whole line is pushed
its new values (log entry 121). The requests of these events are those already in sequence (log entry 123). -/
def Claim.RequestsOfPeers : Prop :=
  ∀ (s : State) (src off : Nat), s.servesPeer src = true →
    let gives (s : State) (a : PeerAnswer) : Host.Outcome State Fault Refusal := .next (s.respond src off a)
    let fits (n : Nat) : Prop := 0 < n ∧ off % 64 + n ≤ 64
    let ready (n : Nat) : Prop := fits n ∧ s.peerRefusal off n = none ∧ s.serveWaits src off n = false
    (∀ e n, fits n → s.peerRefusal off n = some e → s.lanesOff src = false →
      exec (.read src off n) s = gives s e ∧
      (∀ bs marks, bs.length = n → exec (.write src off bs marks) s = gives s e) ∧
      (∀ op, State.atomBytes op = n → off % n = 0 →
        exec (.atomicFetching src off op) s = gives s e ∧ exec (.atomicNonFetching src off op) s = gives s e) ∧
      (∀ op x, n = 4 → off % 4 = 0 → op = .add ∨ op = .min ∨ op = .max →
        ∀ fetching, exec (.floatAtomic src off ⟨op, fetching⟩ x) s = gives s e)) ∧
    (∀ n, ready n → exec (.read src off n) s =
      gives (if n = 64 ∧ (src, off) ∉ s.peerSubs then { s with peerSubs := (src, off) :: s.peerSubs } else s)
        (.ok (s.readMarked off n).1 (s.readMarked off n).2)) ∧
    (∀ bs marks, ready bs.length → exec (.write src off bs marks) s = gives (s.storeMasked off bs marks) (.ok [] 0)) ∧
    (∀ n, fits n → s.serveWaits src off n = true → exec (.read src off n) s = .next s) ∧
    (∀ (op : PeerAtom) (m : Rmw), ((∃ o ty b, op = .op o ty b ∧ m = .op o ty b) ∨ (∃ ty e n, op = .cas ty e n ∧ m = .cas ty e n)) →
      State.atomTyOk m.ty = true → off % m.bytes = 0 → ready m.bytes →
      exec (.atomicFetching src off op) s = gives (s.peerRmw off m).2 (s.peerRmw off m).1) ∧
    (∀ (o : AtomOp) (ty : Ty) (b : DWord), State.atomTyOk ty = true → off % (ty.width / 8) = 0 → ready (ty.width / 8) →
      exec (.atomicNonFetching src off (.op o ty b)) s = gives (s.peerRmw off (.op o ty b)).2
        (State.completion (s.peerRmw off (.op o ty b)).1)) ∧
    (∀ (o : AtomOp) (x : Word), o = .add ∨ o = .min ∨ o = .max → off % 4 = 0 → ready 4 →
      let m : Rmw := .op o .f32 (x.zeroExtend 64)
      exec (.floatAtomic src off ⟨o, true⟩ x) s = gives (s.peerRmw off m).2 (s.peerRmw off m).1 ∧
      exec (.floatAtomic src off ⟨o, false⟩ x) s = gives (s.peerRmw off m).2 (State.completion (s.peerRmw off m).1))

/-- R163, R211, R354: a read-modify-write of a peer at its home gives the old bytes and writes the new value: that of the
operation, rounded once for a float add, and none where a compare-and-swap does not match; where a byte is poisoned nothing is
written. -/
def Claim.PeerReadModifyWrite : Prop :=
  ∀ (s : State) (off : Nat) (m : Rmw),
    let x := s.readMarked off m.bytes
    let old := leNat x.1
    let writes (v : Nat) := s.storeHome off (leBytes m.bytes v) 0
    (x.2 ≠ 0 → s.peerRmw off m = (.ok x.1 x.2, s)) ∧
    (x.2 = 0 → m.new old = none → s.peerRmw off m = (.ok x.1 0, s)) ∧
    (x.2 = 0 → ∀ b, m = .op .add .f32 b →
      s.peerRmw off m = (.ok x.1 0, writes (floatSum old [b.toNat % 2 ^ 32]))) ∧
    (x.2 = 0 → (∀ b, m ≠ .op .add .f32 b) → ∀ v, m.new old = some v → s.peerRmw off m = (.ok x.1 0, writes v))

/-- Requests of peers are refused or performed at the home and answered. Rests on log entries 121, 123, 124 and 125. -/
def Obligations.PeerRequests : Prop :=
  Claim.RequestsOfPeers ∧ Claim.PeerReadModifyWrite

/-- R279, R352, R357, R362: a flit of a source on a hash lane is taken in the sequence of that lane, and what may go on does;
a flit that fails its CRC is sent again, up to 8 times, and the failure after the 8th resend, or the threshold of resent
flits, takes its lane out of service (log entry 66: the count is of one flit, and another flit on the lane begins it afresh);
a lane leaves service once. Nothing arrives or goes while the links are down (R374). A request on a lane that went down goes
again (log entry 67), and receive lanes are numbered as in log entry 65. -/
def Claim.FlitsAndLanes : Prop :=
  ∀ (s : State),
    (∀ src lane seq payload, s.servesPeer src = true → lane < 8 →
      let s₁ := if (s.laneSeq src lane).held.any fun h => h.1 == seq then s
        else { s with count := { s.count with received := bump s.count.received src } }
      exec (.flitReceive src lane seq payload) s = .next (s₁.takeFlit src lane seq payload).settle) ∧
    (∀ plane slot, plane < 64 → slot < 8 →
      let lane := plane * 8 + slot
      let down (receive : Bool) := s.health.lanesDown.has (laneKey plane slot receive)
      let s₁ : State := { s with health := { s.health with
        resends := bump s.health.resends lane, lanes := bump s.health.lanes lane } }
      (s.linksUp = false → exec (.flitResend plane slot) s = .next s ∧
        ∀ receive, exec (.laneDown plane slot receive) s = .next s) ∧
      (s.linksUp = true →
        (down false = true → exec (.flitResend plane slot) s = .next s) ∧
        (down false = false →
          (8 ≤ countAt s.health.resends lane → exec (.flitResend plane slot) s = .next (State.txDown
            { s with health := { s.health with resends := eraseKey s.health.resends lane } } plane slot).goDark.settle) ∧
          (countAt s.health.resends lane < 8 →
            let resent := s₁.send (.flitResent lane)
            exec (.flitResend plane slot) s = .next (if State.reached (countAt s₁.health.lanes lane) s.thresholds.optical
              then (resent.txDown plane slot).goDark.settle else resent))) ∧
        (∀ receive, down receive = true → exec (.laneDown plane slot receive) s = .next s.goDark.settle) ∧
        (down false = false → exec (.laneDown plane slot false) s = .next (s.txDown plane slot).goDark.settle) ∧
        (down true = false → exec (.laneDown plane slot true) s = .next (s.rxDown plane slot).goDark.settle)))

/-- R279: of the flits of a source and lane, one before the next number is discarded, a later one is held, and the next one is
delivered: its request is served, or its response taken, and then those held that follow it. -/
def Claim.FlitOrder : Prop :=
  ∀ (s : State) (src lane seq : Nat) (x : FlitBody),
    let e := s.laneSeq src lane
    (seq < e.next → s.takeFlit src lane seq x = s) ∧
    (e.next < seq → (∀ h ∈ e.held, e.next < h.1 ∧ h.1 ≠ seq) →
      s.takeFlit src lane seq x = s.putSeq { e with held := e.held ++ [(seq, x)] }) ∧
    (seq = e.next → (∀ h ∈ e.held, e.next < h.1) →
      (∀ a n, State.flitReach x = some (a, n) → s.serveWaits src a n = false) →
      ∃ s₁ : State, s₁.laneSeq src lane = { e with next := e.next + 1 } ∧ s₁.mem = s.mem ∧ s₁.cores = s.cores ∧
        s₁.outbox = s.outbox ∧
        s.takeFlit src lane seq x = (s₁.performFlit src x).deliverFlits src lane e.held.length)

/-- Flits of a hash lane are delivered in order, resent on a failed CRC, and lanes leave service. Rests on log entries 65, 66 and 67. -/
def Obligations.FlitsAndLanes : Prop :=
  Claim.FlitsAndLanes ∧ Claim.FlitOrder

/-- R280, R281, R371: the requests sent on changing lanes fail at the bound of responses, and the lanes go dark; at relock the
plan changes, lanes that no peer has locked count as down, the locks are reported, and every destination but those whose peers
are late is decided; where none is late the commit is complete, with SEQ advanced and NUNR the count of those that became
UNREACH, and otherwise it ends with the handshake of the last of them (log entry 63). A handshake with a peer decides that
peer, unless the lanes toward it still change here. Without a commit, or after step 6, the first two change nothing. A re-plan
of a peer is known only by its lateness (log entry 64). -/
def Obligations.ReplanningOfLanes : Prop :=
  ∀ (s : State),
    (s.commit = none → exec .planResponseBound s = .next s ∧ ∀ locked late, exec (.relock locked late) s = .next s) ∧
    (∀ c, s.commit = some c → c.dark = false →
      (exec .planResponseBound s =
        .next (s.failUnreach (s.reqs.filter fun q => q.lane.any c.changing.contains)).goDark.settle) ∧
      ∀ locked late, exec (.relock locked late) s = .next s) ∧
    (∀ c locked late, s.commit = some c → c.dark = true → (c.late ≠ none → exec (.relock locked late) s = .next s)) ∧
    (∀ c locked late, s.commit = some c → c.dark = true → c.late = none →
      let behind := c.affected.filter late.contains
      let s₀ : State := { s with plan := c.plan, commit := some { c with late := some behind }
                                 lockedIn := s.usableIn (locked.filter fun l => l.dev != s.dev) }
      let s₁ := (s₀.unlockedOut c.plan c.changing behind).wrongLanes
      let s₂ := s₁.send (.relockReport (s₁.lockedIn.map Prod.fst))
      let x := s₂.decideList ((List.range 64).filter fun d => !behind.contains d)
      exec (.relock locked late) s = .next (State.settle (if behind = []
        then { x.2 with commit := none, planSeq := x.2.planSeq + 1, planNunr := BitVec.ofNat 8 (min x.1 255) }
        else { x.2 with commit := some { c with late := some behind, nunr := x.1 } }))) ∧
    (∀ peer locked, s.linksUp = true → peer < 64 → peer ≠ s.dev →
      let s₁ := s.takeReport peer locked
      let s₂ := s₁.send (.relockReport ((s₁.lockedIn.map Prod.fst).filter fun l => l.dev == peer))
      (s₂.undecided peer = false → exec (.relockHandshake peer locked) s = .next (s₂.decideList [peer]).2.goDark.settle) ∧
      (s₂.undecided peer = true → (∃ c, s₂.commit = some c ∧ c.late ≠ none) →
        exec (.relockHandshake peer locked) s = .next (s₂.decideLate peer).settle) ∧
      (s₂.undecided peer = true → (∃ c, s₂.commit = some c ∧ c.late = none) →
        exec (.relockHandshake peer locked) s = .next s₂))


/-! ## Launches, tasks and Caster threads (R230 to R254, R312) -/

/-- R230: a doorbell of a valid queue, whose descriptor is well formed, consumes its entries from HEAD up to TAIL; where an
access of the device is held by a flip, the doorbell waits. What a record that is refused leaves behind is log entry 31, the
wait for a flip log entry 111. -/
def Claim.DoorbellConsumesTheQueue : Prop :=
  ∀ (s s₁ s₂ : State) (q : Nat) (bs : List Byte),
    let w := fun i => s.queueTable.nat (32 * q + 8 * i) 8
    let desc : DWord := BitVec.ofNat 64 (w 1)
    let ctx := s.context (w 0 % 2 ^ 10)
    let a := contextAccessor 0 ctx.asid ctx.ptroot ctx.kslot
    let d := recWord bs
    let logcap := bits (d 0) 8 5
    s.stage = 7 → s.health.failed = false → q < 1024 → (w 0).testBit 63 = true → bits (w 0) 10 53 = 0 →
    bits (w 3) 32 32 = 0 → desc.toNat % 64 = 0 → s.devRead a desc 64 = (some bs, s₁) →
    d 0 = 2 + logcap * 256 → 1 ≤ logcap → logcap ≤ 16 → d 2 < 2 ^ 32 → d 3 < 2 ^ 32 → (∀ i ∈ [4, 5, 6, 7], d i = 0) →
    (∃ x, s₁.devTranslate a (desc + 24) .write = (some x, s₂)) →
    let t := s₂.consume a q (w 0 % 2 ^ 10) desc (BitVec.ofNat 64 (d 1)) logcap
      ((d 2 + 2 ^ 32 - d 3) % 2 ^ 32) (d 3)
    (t.devWaits = false → exec (.doorbell q) s = .next t) ∧
    (t.devWaits = true → exec (.doorbell q) s = .next { s with hostWaits := s.hostWaits ++ [.bell q] })

/-- R238, R239, R241: aging raises the priority of a launch by one, up to 3; the first ready launch is dispatched with a
Runner for each piece that has tasks; a core starts the next task of a launch. Aging is an event (log entry 38). -/
def Claim.LaunchesAreDispatched : Prop :=
  ∀ (s : State) (k : Nat),
    exec (.priorityAging k) s = .next (s.modLaunch k fun l =>
      if l.state == .ready || l.state == .dispatched then { l with age := min 3 (l.age + 1) } else l) ∧
    (∀ l, State.firstLaunch (s.launches.filter fun l => l.state == .ready) = some l → l.no = k → s.stage = 7 →
      s.pieces l.desc ≠ [] → s.ctxValid l.ctxn = true → l.desc.nrun = 0 → l.desc.nshell = 0 →
      s.runnerCount + (s.pieces l.desc).length ≤ 4096 →
      let n := s.launchNo + (s.pieces l.desc).length + 1
      let s₁ := State.modLaunch { s with launchNo := n } k fun x =>
        { x with state := .dispatched, runners := State.freshRunners l.desc (s.pieces l.desc) s.launchNo, shells := []
                 order := n, age := 0, frozen := false }
      exec (.launchDispatch k) s = .next (s.orHeld (s₁.launchDone k))) ∧
    (∀ core, s.coresRun = true → s.health.failed = false →
      exec (.taskDispatch core) s = .next (s.dispatchTask core).2)

/-- A doorbell consumes queue entries, launches age, and the first ready launch is dispatched. Rests on log entries 31, 38 and 111. -/
def Obligations.QueuesAndDispatch : Prop :=
  Claim.DoorbellConsumesTheQueue ∧ Claim.LaunchesAreDispatched

/-- R15, R16, R215, R239: a task that starts on a core of an unclustered launch: the next index of the earliest Runner of its
core, in the lowest free place, whose generation rises. Which free region of the scratchpad the task gets is a free choice
(log entry 32). -/
def Claim.TaskStarts : Prop :=
  ∀ (s : State) (n : Nat) (l : Launch) (o lo hi p : Nat) (rs : List Runner) (c : Core),
    s.coresRun = true → s.health.failed = false → s.stage = 7 → s.nextLaunch n = some (l, o, lo, hi, rs) →
    l.desc.clusterCores = 1 → hi = lo + 1 → State.positionCores l.desc o = [n] → s.ctxValid l.ctxn = true →
    s.dispatchable n = true → s.core? n = some c → c.fits l.desc.threads l.desc.scratch l.desc.accslots = true →
    c.freePlace? = some p →
    let s₁ : State := { s.modLaunch l.no fun l => { l with runners := rs, live := l.live + 1 } with
        launchNo := s.launchNo + 1, free := s.free + 1 }
    exec (.taskDispatch n) s = .next ((s₁.modCore n fun c =>
      { c with tasks := insertKey c.tasks p (s₁.newTask c l lo s.free none), gens := c.gens.modify p (· + 1) }).dropClean n)

/-- R215, R236: a task outside a cluster whose threads have all exited retires: it leaves its core, and its launch has one
live task less. Retirement performs what is queued and flushes the cores' lines (log entry 73). -/
def Claim.TasksRetire : Prop :=
  ∀ (s : State) (core place : Nat) (t : Task) (c : Core), s.core? core = some c → s.task? core place = some t → s.coresRun = true →
    t.cluster = none → t.threads ≠ [] → State.retirable c place t = true →
    (∀ x ∈ t.threads, x.queue = [] ∧ x.pend = []) →
    s.canFlush core = true →
    exec (.taskRetire core place) s =
      .next (s.orHeld (((s.flushDirty core).retireOne (core, place, t)).launchDone t.launch))


/-- A task starts in the lowest free place of a core and retires when its threads have exited. Rests on log entries 32 and 73. -/
def Obligations.TasksStartAndRetire : Prop :=
  Claim.TaskStarts ∧ Claim.TasksRetire

/-- R233, R254: a `launch` whose address is not aligned, whose page may not be read, or whose record is poisoned or malformed
traps; a well-formed record is submitted once the release of the thread is done, and the thread goes on. While a flip to device
bias holds an access of the device the thread holds at the instruction (log entries 111 and 126). -/
def Claim.LaunchOfAThread : Prop :=
  ∀ (s s₁ : State) (t : Thread) (g : Guard) (base : Src) (off : Word), Clean s t g [(base, 2)] [] [] →
    let r := s.issuer
    let va := formAddr t (lineRef base off)
    let bad (s : State) (sub : Byte) (w2 : DWord) : Host.Outcome State Fault Refusal :=
      .next (s.takeTrap r { kind := .launchBad, sub, addr := w2 })
    (va.toNat % 128 ≠ 0 → exec (.launch g base off) s = Traps s { kind := .align, sub := 0x01, addr := va }) ∧
    (va.toNat % 128 = 0 → s.devTranslate (s.accessor r) va .read = (none, s₁) →
      (s₁.devWaits = true → exec (.launch g base off) s = Holds { s₁ with devWaits := false }) ∧
      (s₁.devWaits = false → exec (.launch g base off) s = bad s₁ 0x0A va)) ∧
    (∀ pa, va.toNat % 128 = 0 → s.devTranslate (s.accessor r) va .read = (some pa, s₁) →
      (s₁.devWaits = true → exec (.launch g base off) s = Holds { s₁ with devWaits := false }) ∧
      (s₁.devWaits = false → s₁.releaseReady r .dev = true → ∀ bs pois s₂, s₁.devLoad pa 128 = (bs, pois, s₂) →
        let x := launchContext s₂ r
        let s₃ := s₂.submit x.1 x.2 none va pa bs
        (pois = true → exec (.launch g base off) s = bad s₂ 0x0A va) ∧
        (pois = false → ∀ sub, recFault s₂.part bs = some sub → exec (.launch g base off) s = bad s₂ sub 0) ∧
        (pois = false → recFault s₂.part bs = none → s₃.devWaits = false →
          exec (.launch g base off) s = Completes s s₃) ∧
        (pois = false → recFault s₂.part bs = none → s₃.devWaits = true → exec (.launch g base off) s = Holds s₂)))

/-- R233, R234, R248, R385: a well-formed record at an address that no launch of the table has becomes one, with the context
it was submitted in: ready at once where it waits for no predecessor. One at the address of a suspended launch resumes it, in
the context of this submission. A thread's record is submitted in a context of its own (log entry 46). -/
def Claim.RecordsAreSubmitted : Prop :=
  ∀ (s : State) (a : Accessor) (ctxn : Nat) (q : Option Nat) (va : DWord) (pa : Nat) (bs : List Byte),
    recFault s.part bs = none →
    ((∀ l ∈ s.launches, l.pa ≠ pa) → ∃ l, (s.submit a ctxn q va pa bs).launches = s.launches.map (fun x => if x.no = s.launchNo ∧
        (parseRec bs).pred = 0 then { x with state := .ready, order := s.launchNo + 1, age := 0 } else x) ++ [l] ∧
      l.pa = pa ∧ l.va = va ∧ l.ctxn = ctxn ∧ l.queue = q ∧ l.desc = parseRec bs ∧
      l.asid = a.asid ∧ l.ptroot = a.ptroot ∧ l.kslot = a.kslot ∧
      l.state = if (parseRec bs).pred = 0 then .ready else .submitted) ∧
    ∀ k, (∀ l ∈ s.launches, l.pa = pa → l.state ≠ .aborted) → (s.launches.find? fun l => l.pa == pa) = some k →
      k.state = .suspended → s.submit a ctxn q va pa bs = (s.modLaunch k.no fun l =>
        { l with va, ctxn, asid := a.asid, ptroot := a.ptroot, kslot := a.kslot, queue := q, desc := parseRec bs }).makeReady k.no

/-- R246, R247: a GO in LPREEMPT that names a dispatched launch with valid lists freezes it and posts a request for each of
its tasks; one that names none sets ERR. The pre-emption ends once no task of the launch is on a core. Nothing is done while a
flip holds an access of the device (log entry 111). A task whose save was refused delays the end (log entry 84). -/
def Claim.PreemptionOfLaunches : Prop :=
  ∀ (s : State) (value : DWord), s.devWaits = false →
    let pa := bits value.toNat 7 49 * 128
    let s₁ : State := { s with regs := { s.regs with lpreempt := value &&& 0x00FFFFFFFFFFFF80 } }
    (value.getLsbD 0 = false → exec (.launchPreempt value) s = .next s₁) ∧
    (value.getLsbD 0 = true → (∀ l ∈ s.launches, l.pa = pa → l.state ≠ .dispatched) →
      exec (.launchPreempt value) s = .next { s₁ with regs := { s₁.regs with lpErr := true } }) ∧
    (∀ l, value.getLsbD 0 = true → (s.launches.find? fun l => l.pa == pa && l.state == .dispatched) = some l →
      ∀ bs pois s₂ slots s₃, s₁.devLoad pa 128 = (bs, pois, s₂) →
      let d := parseRec bs
      s₂.devWords d.shellptr d.shcap = (slots, s₃) →
      s₂.preempt = none → 32 * 2 ^ (l.desc.logw + l.desc.logh) ≤ d.shcap → d.runptr < s₂.part.hbmBytes →
      d.shellptr < s₂.part.hbmBytes → d.runptr % 16 = 0 → d.shellptr % 8 = 0 →
      (s₃.devWaits = true → exec (.launchPreempt value) s = .next s) ∧
      (s₃.devWaits = false → ∃ s', exec (.launchPreempt value) s = .next s' ∧
        s'.preempt = some { launch := l.no, kept := l.shells.map Prod.fst, given := [], written := [], slots } ∧
        (∀ l' ∈ s'.launches, l'.no = l.no → l'.frozen = true) ∧
        (∀ n c, s₃.core? n = some c → ∃ c', s'.core? n = some c' ∧ c'.tasks = c.tasks ∧
          ∀ p ∈ c.tasks, p.2.launch = l.no → CasterReq.save p.1 (c.gen p.1) ∈ c'.reqs) ∧
        s'.mem = s₃.mem ∧ s'.regs = s₃.regs)) ∧
    (∀ p, s.preempt = some p →
      (s.resident p.launch = true → exec .preemptComplete s = .next s) ∧
      (s.resident p.launch = false →
        (s.endPreempt.devWaits = true → exec .preemptComplete s = .next s) ∧
        (s.endPreempt.devWaits = false → ∃ s', exec .preemptComplete s = .next s' ∧ s'.preempt = none ∧
          s'.regs.lpDone = true ∧
          ∀ l, s.launch? p.launch = some l → ∀ l' ∈ s'.launches, l'.no = l.no → l'.state = .suspended ∧ l'.runners = [])))

/-- launch submits a record, and a pre-emption freezes a launch and ends with it suspended. Rests on log entries 46, 84, 111 and 126. -/
def Obligations.ThreadLaunchesAndPreemption : Prop :=
  Claim.LaunchOfAThread ∧ Claim.RecordsAreSubmitted ∧ Claim.PreemptionOfLaunches

/-- R247, R312, R331: a core in service with an idle Caster thread starts it for the first of the causes 5, 1, 2, 3, 4 that
waits and is not served, at FOREBASE + 0x40 · CAUSE with its CAUSE and ARG, after the device has written what the start needs;
an entry that R27 refuses is a machine check. The starts that save the tasks of one cluster are made together, once each of
its cores can make its own. A start for another cause changes nothing. The joint start is log entry 61. -/
def Claim.CasterStarts : Prop :=
  ∀ (s s₁ s₂ : State) (core cause n : Nat) (c : Core), s.core? core = some c → c.inService = true → s.coresRun = true →
    s.stage = 7 →
    (nextCause? c ≠ some cause → exec (.casterStart core cause) s = .next s) ∧
    (nextCause? c = some cause → cause ≠ 5 → State.idleCaster? c = some n →
      let all := s.canStartSave core && (s.mates core c).all fun m => s.canStartSave m.1
      (∀ (x : State) c' k arg call, x.core? core = some c' → c'.casters[n]? = some k →
        (((x.putStart core n cause arg call).core? core).bind fun c => c.casters[n]?) = some { k with
          thr := { k.thr with pc := c'.forebase + BitVec.ofNat 64 (0x40 * cause), state := .runnable, wait := 0, yielded := false }
          cause := BitVec.ofNat 4 cause, arg, start := c'.startNo, call, stopping := false }) ∧
      (∀ arg call, cause ≠ 4 ∨ s.mates core c = [] → s.prepare core c cause = some (arg, call, s₁) →
        let x := (s₁.putStart core n cause arg call).checkTarget { core, who := .caster n } (State.casterEntry c cause)
        (x = (.ok, s₂) → exec (.casterStart core cause) s = .next (s₂.dropClean core)) ∧
        (x = (.wait, s₂) → exec (.casterStart core cause) s = .next s) ∧
        (∀ t, x = (.trap t, s₂) → exec (.casterStart core cause) s = .next (s₂.casterTrap core n t))) ∧
      (cause = 4 → s.mates core c ≠ [] → exec (.casterStart core 4) s = .next (if all then
          (s.mates core c).foldl (fun s m => s.startMate m.1 m.2) (s.makeStart core c n 4) else s))) ∧
    (∀ sub rest, nextCause? c = some 5 → c.mcheck = sub :: rest → State.idleCaster? c = some n →
      exec (.casterStart core 5) s = .next
        (((s.modCore core fun c => { c with mcheck := rest }).markStopping core none).startFive core n sub s))

/-- R312, R350: a machine check of a core in service is recorded in MCSTAT, counted and announced, and by its sub-kind stops a
thread, waits to be served or takes the core out of service; which Caster threads use the data that 0x03 reports is open (log
entry 128), and those stop. A request for a core is pending until it is served. A core out of service has neither. TIDX 0
where no thread is at fault is log entry 75. -/
def Claim.MachineChecks : Prop :=
  ∀ (s : State) (core : Nat) (c : Core), s.core? core = some c →
    (c.inService = false → ∀ sub w1 w2, exec (.machineCheck core sub w1 w2) s = .next s) ∧
    (∀ w1 w2, c.inService = true →
      exec (.machineCheck core 0x02 w1 w2) s = .next (s.raiseMcheck core 0x02 0 w1 w2 0 0) ∧
      exec (.machineCheck core 0x03 w1 w2) s =
        .next (State.dataCheck { s with free := s.free + 1 } core w2 (Config.usesLost s.free)) ∧
      exec (.machineCheck core 0xFF w1 w2) s = .next (s.haltCore core 0xFF 0 w1 w2) ∧
      ∀ n, s.casterAt? core w1 = some n → exec (.machineCheck core 0x01 w1 w2) s =
          .next (s.casterTrap core n { kind := .other (w2.extractLsb' 0 8), sub := w2.extractLsb' 8 8 }) ∧
        ((c.casters[n]?.map Caster.cause) = some 5 → exec (.machineCheck core 0x04 w1 w2) s =
          .next (s.haltCore core 0x04 n w1 w2))) ∧
    (∀ sub n w1 w2 handle lid, let s' := s.reportMcheck core sub n w1 w2 handle lid
      s'.regs.mcSub = sub ∧ s'.regs.mcCore = BitVec.ofNat 16 core ∧ s'.regs.mcCount = s.regs.mcCount + 1 ∧
      s'.regs.mcValid = true ∧ s'.regs.mcmsg = s.regs.mcmsg ∧
      (s.regs.mcmsg ≠ 0 → ∃ v, s'.outbox.getLast? = some (.hostWrite s.regs.mcmsg v 8))) ∧
    (∀ sub n w1 w2, ((s.haltCore core sub n w1 w2).core? core).any (fun c => c.service == .out && c.tasks.isEmpty) = true) ∧
    exec (.signalRequest core) s = .next (s.modCore core fun c => if c.inService then { c with sigReq := true } else c)

/-- Caster threads start by cause, and machine checks are recorded, counted and served. Rests on log entries 61, 75 and 128. -/
def Obligations.CastersAndMachineChecks : Prop :=
  Claim.CasterStarts ∧ Claim.MachineChecks


/-! ## The host -/

/-- R148, R171, R207, R210: a host access to one line of HBM finds what the device has written; one to bytes that are not the
host's reads poisoned zeros and writes nothing; one to a page that a change holds is made when that is complete; a snoop of
host memory is answered with the line. The words of a window that the driver and the Caster code share are the host's too (log
entry 127). Zeros with the poison indication are log entry 74, and that a failed device still answers reads log entry 79. -/
def Claim.HostAccesses : Prop :=
  ∀ (s : State) (off : Nat), s.linkUp = true →
    let s₁ := s.flushAll (lineOf off)
    let waits (q : HostReq) : State := { s with hostWaits := s.hostWaits ++ [q] }
    (∀ size, 0 < size → off % 64 + size ≤ 64 →
      (s.hostHeld off = true → exec (.hostMemRead off size) s = .next (waits (.read off size))) ∧
      (s.hostHeld off = false →
        (s.hostRefused off size = true →
          exec (.hostMemRead off size) s = .next (s.send (.hostReadData off (List.replicate size 0) true))) ∧
        (s.hostRefused off size = false → exec (.hostMemRead off size) s = .next (State.send
          { s₁ with count := { s₁.count with hostOut := s₁.count.hostOut + BitVec.ofNat 64 size } }
          (.hostReadData off (s₁.readHome off size).1 (s₁.readHome off size).2))))) ∧
    (∀ bs, s.health.failed = false → 0 < bs.length → off % 64 + bs.length ≤ 64 →
      (s.hostHeld off = true → exec (.hostMemWrite off bs) s = .next (waits (.write off bs))) ∧
      (s.hostHeld off = false →
        (s.hostRefused off bs.length = true → exec (.hostMemWrite off bs) s = .next s) ∧
        (s.hostRefused off bs.length = false →
          let s₂ : State := { s with count := { s.count with hostIn := s.count.hostIn + BitVec.ofNat 64 bs.length } }
          exec (.hostMemWrite off bs) s = .next ((s₂.flushAll (lineOf off)).storeHome off bs 0)))) ∧
    (hostBase ≤ off →
      let la := lineOf off
      let s₂ := s₁.send (.snoopData la (s₁.readHome la 64).1)
      exec (.hostSnoop off none) s = .next s₂ ∧
      ∀ d, d.length = 64 → exec (.hostSnoop off (some d)) s = .next ((s₂.dropLine la).storeHome la d 0))

/-- R171, R208 to R210: a flip of a page to the bias it has completes at once; a flip to device bias has what the device wrote
through host coherence at its home, and sends a snoop for each line, whose answers are collected with what the host writes
back. -/
def Claim.BiasFlipsStart : Prop :=
  ∀ (s : State) (page : Nat),
    (s.linkUp = true → s.health.failed = false → page < 2 ^ 27 → page * 4096 < s.part.hbmBytes → s.flips = [] →
      let set (toHost : Bool) (fl : List Flip) (n : Word) : State :=
        { s with flips := fl, regs := { s.regs with biasSeq := n
                                                    biasctl := BitVec.ofNat 64 (page * 4096 + if toHost then 2 else 0) } }
      let flip (toHost : Bool) : Flip := { page, toHost, byHost := true, waiter := none, lines := [] }
      let n := s.regs.biasSeq
      (s.hostBias.has page = true →
        exec (.biasctlToHost page) s = .next (set true [] (n + 1)).settle ∧
        exec (.biasctlToDevice page) s = .next ((set false [flip false] n).sendSnoops page).settle ∧
        ∀ x : State, x.sendSnoops page = (List.range 64).foldl (fun x i => x.send (.backInvalidate page i))
          ((List.range 64).foldl (fun x i => x.flushAll (page * 4096 + 64 * i)) x)) ∧
      (s.hostBias.has page = false →
        exec (.biasctlToHost page) s = .next (set true [flip true] n).settle ∧
        exec (.biasctlToDevice page) s = .next (set false [] (n + 1)).settle)) ∧
    (∀ (f : Flip) (line : Nat), s.flips = [f] → f.page = page → f.toHost = false → line < 64 → f.lines.has line = false →
      let la := page * 4096 + 64 * line
      let noted (s : State) : State := { s with flips := s.flips.map fun g => if g == f then { g with lines := g.lines.add line } else g }
      exec (.backInvalidateResponse page line none) s = .next (noted s) ∧
      ∀ d, d.length = 64 → s.hostRefused la 64 = false →
        exec (.backInvalidateResponse page line (some d)) s = .next (noted (s.storeHome la d 0)))

/-- R171, R209, R210: a flip to host bias ends with the page's lines flushed to HBM and dropped from every cache, one to device
bias once every snoop is answered, with the device's clean copies dropped; the thread that waits in `biasset` goes on, the next
flip of the page starts, and the accesses of the host that waited are made. Until then, and where no flip of the page is open,
no flip ends. -/
def Claim.BiasFlipsEnd : Prop :=
  ∀ (s : State) (page : Nat),
    let after (t : State) : Host.Outcome State Fault Refusal := .next t.serveHost.serveBells.settle
    ((s.flips.find? fun f => f.page == page) = none → exec (.biasFlipComplete page) s = after s) ∧
    ∀ f, (s.flips.find? fun f => f.page == page) = some f →
      (f.toHost = false → f.lines.length ≠ 64 → exec (.biasFlipComplete page) s = after s) ∧
      (f.toHost = true ∨ f.lines.length = 64 →
        let s₁ := if f.toHost then s.flushPage page else s.dropCopies page
        let s₂ := State.answerWaiter
          { s₁ with hostBias := if f.toHost then s₁.hostBias.add page else s₁.hostBias.del page
                    flips := s₁.flips.erase f, regs := { s₁.regs with biasSeq := s₁.regs.biasSeq + 1 } } f.waiter
        exec (.biasFlipComplete page) s = after (s₂.startFlips page s₂.flips))

/-- Host accesses and snoops of lines, and flips of bias of a page. Rests on log entries 74, 79 and 127. -/
def Obligations.HostMemoryAndBias : Prop :=
  Claim.HostAccesses ∧ Claim.BiasFlipsStart ∧ Claim.BiasFlipsEnd

/-- R299: a GO in PSLOTCTL starts the change of a page's slot, or sets ERR where one is in progress; at its end the accesses of
the host that waited are made. -/
def Claim.PageSlotChanges : Prop :=
  ∀ (s : State) (page slot : Nat),
    (page < 2 ^ 27 → slot < 256 →
      let r := { s.regs with pslotctl := BitVec.ofNat 64 (slot * 2 ^ 56 + page * 4096) }
      (s.pslotBusy = none → page * 4096 < s.part.hbmBytes →
        exec (.pageSlotChange page slot) s = .next { s with regs := r, pslotBusy := some (page, BitVec.ofNat 8 slot) }) ∧
      (s.pslotBusy ≠ none ∨ s.part.hbmBytes ≤ page * 4096 →
        exec (.pageSlotChange page slot) s = .next { s with regs := { r with pslotErr := true } })) ∧
    exec .pageSlotChangeComplete s = .next s.completePslot.serveHost.settle

/-- R299: the end of a change leaves the bytes of the page zero, no copy of its lines in a cache that does not subscribe them,
and the page in its slot; every other page keeps its bytes and its slot. -/
def Claim.PageSlotsTakeEffect : Prop :=
  ∀ (s : State) (page : Nat) (k : Byte), s.pslotBusy = some (page, k) → s.mem.wf = true →
    let s' := s.completePslot
    s'.pslotBusy = none ∧ s'.regs = { s.regs with pslotSeq := s.regs.pslotSeq + 1 } ∧ s'.pageSlot page = k ∧
    (∀ a, s'.mem.get a = if a / 4096 = page then 0 else s.mem.get a) ∧
    (∀ p, p ≠ page → s'.pageSlot p = s.pageSlot p) ∧
    ((∀ c ∈ s.cores, c.subs = []) → ∀ c ∈ s'.cores, (∀ l ∈ c.l1 ++ c.wbacks, l.pa / 4096 ≠ page) ∧
      ∀ l ∈ c.icache, l.pa / 4096 ≠ page)

/-- R351, R360: a mark of a page waits until no running copy holds it; an unmark of a page that is not retired removes the
mark; a page pending retirement is retired when its mark completes. What a leaf over a retired page maps is log entry 106. -/
def Claim.EvictionMarks : Prop :=
  ∀ (s : State) (page : Nat), page < 2 ^ 27 → page * 4096 < s.part.hbmBytes →
    let r := fun b : Bool => { s.regs with evictctl := BitVec.ofNat 64 (page * 4096 + if b then 2 else 0) }
    (s.evicting = none →
      exec (.evictMark page) s = .next { s with regs := r false, marked := s.marked.add page, evicting := some page } ∧
      exec (.evictUnmark page) s = .next (if s.health.retired.has page = true
        then { s with regs := { r true with evictErr := true } }
        else { s with regs := r true, marked := s.marked.del page })) ∧
    (∀ p, s.evicting = some p →
      exec (.evictMark page) s = .next { s with regs := { r false with evictErr := true } } ∧
      exec (.evictUnmark page) s = .next { s with regs := { r true with evictErr := true } }) ∧
    (s.evicting = some page →
      (s.holdCount page ≠ 0 → exec .evictMarkComplete s = .next s) ∧
      (s.holdCount page = 0 → s.health.pendingPages.has page = false →
        exec .evictMarkComplete s = .next { s with evicting := none }) ∧
      (s.holdCount page = 0 → s.health.pendingPages.has page = true →
        ∃ s', exec .evictMarkComplete s = .next s' ∧ s'.evicting = none ∧
          s'.health.retired = s.health.retired.add page ∧ s'.record.pages = s.record.pages.add page))

/-- R296 to R298: a shoot-down joins the queue of 256 and is counted in POSTED; the one at the head, once no access that may
use what it selects is left, drops the translations it selects, is counted in DONE and announced; identity 1 of the interrupt
file posts one of every direct translation, and identity 2 serves the queue. That identity 1 waits its turn in the queue is
log entry 34. -/
def Claim.Shootdowns : Prop :=
  ∀ (s : State),
    (s.linkUp = true → s.health.failed = false →
      let post (k : Shoot) (cmd : DWord) : State :=
        { s with shoots := s.shoots ++ [k], regs := { s.regs with sdcmd := cmd, sdPosted := s.regs.sdPosted + 1 } }
      let all : Shoot := { direct := true, tlbk := 0, asid := 0, va := 0 }
      (∀ value : DWord, value.getLsbD 18 = true → s.shoots.length < 256 →
        exec (.shootdownPost value) s = .next (post { direct := false, tlbk := value.extractLsb' 16 2
                                                      asid := value.extractLsb' 0 16, va := s.regs.sdva }
          (value &&& 0x3FFFF)).settle) ∧
      (∀ value : DWord, value.getLsbD 18 = true → 256 ≤ s.shoots.length → exec (.shootdownPost value) s = .next s.settle) ∧
      (s.shoots.length < 256 → s.shoots ≠ [] →
        exec .imsicInvalidateAll s = .next (post all s.regs.sdcmd).settle) ∧
      (s.shoots = [] → exec .imsicInvalidateAll s = .next (post all s.regs.sdcmd).completeShoot.settle) ∧
      (s.shoots = [] → exec .imsicProcessQueue s = .next s.settle) ∧
      (∀ k, s.shoots = [k] → exec .imsicProcessQueue s = .next s.completeShoot.settle)) ∧
    (∀ k ks, s.shoots = k :: ks →
      (s.shootWaits k = true → exec .shootdownComplete s = .next s) ∧
      (s.shootWaits k = false → ∃ s', exec .shootdownComplete s = .next s' ∧ s'.shoots = ks ∧
        s'.regs = { s.regs with sdDone := s.regs.sdDone + 1 } ∧
        (∀ e ∈ s'.tlb, State.shootHits k e = false) ∧ (∀ e ∈ s.tlb, State.shootHits k e = false → e ∈ s'.tlb) ∧
        s'.outbox = s.outbox ++ (if s.regs.sdack = 0 then []
          else [.hostWrite s.regs.sdack ((s.regs.sdDone + 1).zeroExtend 64) 4])))

/-- Page slots change, eviction marks complete, and shoot-downs are posted and served. Rests on log entries 34 and 106. -/
def Obligations.PagesMarksAndShootdowns : Prop :=
  Claim.PageSlotChanges ∧ Claim.PageSlotsTakeEffect ∧ Claim.EvictionMarks ∧ Claim.Shootdowns

/-- R153, R230, R292, R364, R378, R379, R382: what the host writes to and reads from the device registers, while the device
accepts it; a failed device accepts no write (R356). The image that is measured is what lies from BASE on at the first GO (log
entry 70). What needs the link up is log entry 91, and what a failed device accepts log entry 79. -/
def Obligations.DeviceRegisterAccesses : Prop :=
  ∀ (s : State) (v : DWord), s.linkUp = true →
    (∀ off, s.health.failed = true →
      exec (.devcfgWrite v) s = .next s ∧ exec (.casterldGo v) s = .next s ∧ exec (.cntctlWrite v) s = .next s ∧
      exec (.registerWrite off v) s = .next s) ∧
    (s.health.failed = false →
      (s.part.fab = true → s.regs.devLock = false → exec (.devcfgWrite v) s = .next (State.settle (State.decideAll
        (State.wrongLanes { s with regs := { s.regs with aperbase := v.extractLsb' 52 12, devNo := v.extractLsb' 0 6 } })))) ∧
      (s.part.fab = false ∨ s.regs.devLock = true → exec (.devcfgWrite v) s = .next s.settle) ∧
      (v.getLsbD 0 = true → s.stage = 6 →
        let base := v &&& 0x00FFFFFFFFC00000
        ∃ s₁, exec (.casterldGo v) s = .next (State.settle s₁) ∧ s₁.stage = 7 ∧ s₁.regs.devLock = true ∧
          s₁.regs.casterld = base ∧ s₁.mem = s.mem ∧
          (∀ n c, s.core? n = some c → s₁.core? n =
            some { c with forebase := base + BitVec.ofNat 64 (n * 2 ^ 22), window := base + BitVec.ofNat 64 (n * 2 ^ 22) }) ∧
          (s.mem.wf = true → ∀ a, s₁.image.get a =
            if a < s.cores.length * 2 ^ 22 then s.mem.get (base.toNat + a) else 0)) ∧
      (v.getLsbD 0 = true → s.stage ≠ 6 → exec (.casterldGo v) s = .next s.settle) ∧
      (let k := bits v.toNat 0 5
       (10 ≤ k → k ≤ 24 → exec (.cntctlWrite v) s = .next (State.settle
         { s with regs := { s.regs with cntNext := some (v &&& 0x00FFFFFFFFFFF11F) } })) ∧
       (k < 10 ∨ 24 < k → exec (.cntctlWrite v) s = .next s.settle)) ∧
      (∀ i, i < 4096 →
        exec (.registerWrite (0x20000 + 8 * i) v) s =
          .next (State.settle { s with ctxTable := s.ctxTable.write (8 * i) (leBytes 8 v.toNat) }) ∧
        exec (.registerWrite (0x30000 + 8 * i) v) s =
          .next (State.settle { s with queueTable := s.queueTable.write (8 * i) (leBytes 8 v.toNat) })) ∧
      (∀ q, q < 1024 → exec (.registerWrite (0x2000 + 8 * q) v) s = .next (s.ringBell q).settle)) ∧
    (∀ e es, s.health.events = e :: es → exec .hevtRead s = .next (State.send
      { s with health := { s.health with events := es, lost := 0 } }
      (.hostReadData 0x9000 (leBytes 8 (hevtValue e s.health.lost).toNat) false)))


/-! ## The device (R352 to R383) -/

/-- R381, R382: a latch takes the tick number and a written CNTCTL, and streams a record, with its TICK last, or counts it as
lost where the ring is full or no core may write there (log entry 72); a device without the fabric, or whose lanes are dark,
latches on its own time, and the device with the lowest number of those it reaches sends the beacon that the others latch
with. Without power nothing is latched. -/
def Claim.CounterLatches : Prop :=
  ∀ (s : State) (tick : DWord),
    (s.rails = .up →
      (s.part.fab = false ∨ s.isDark = true → exec .counterTick s = .next (s.latch (s.tick + 1) true) ∧
        exec .beaconTimeout s = .next (s.latch (s.tick + 1) true) ∧ exec (.timeBeacon tick) s = .next s) ∧
      (s.part.fab = true → s.isDark = false → s.sendsBeacon = true →
        exec .counterTick s = .next ((s.latch (s.tick + 1) false).send (.beacon (s.tick + 1))) ∧
        exec (.timeBeacon tick) s = .next s ∧ exec .beaconTimeout s = .next s) ∧
      (s.part.fab = true → s.isDark = false → s.sendsBeacon = false →
        exec .counterTick s = .next s ∧ exec (.timeBeacon tick) s = .next (s.latch tick false) ∧
        exec .beaconTimeout s = .next (s.latch (s.tick + 1) true))) ∧
    (s.rails ≠ .up → exec .counterTick s = .next s ∧ exec (.timeBeacon tick) s = .next s ∧ exec .beaconTimeout s = .next s) ∧
    (∀ b, let r := { s.regs with cntctl := s.regs.cntNext.getD s.regs.cntctl, cntNext := none }
      let s₁ := State.advanceCounters { s with tick, regs := r }
      (r.cntctl.getLsbD 8 = false → s.latch tick b = { s₁ with mhzChanged := false }) ∧
      (r.cntctl.getLsbD 8 = true → s₁.recordDropped = true →
        s.latch tick b = { s₁ with cntLost := s₁.cntLost + 1, mhzChanged := false }) ∧
      (r.cntctl.getLsbD 8 = true → s₁.recordDropped = false →
        s.latch tick b = { s₁.streamRecord b with mhzChanged := false })) ∧
    ∀ b, let pa := s.recordAt
      let bs := s.counterRecord b
      let core := s.cores.findIdx? fun c => c.service != .out
      let s₁ : State := { s with cntLost := 0 }
      let s₂ := (s₁.storeHomeBytesBy core (pa + 8) (bs.drop 8) false).storeHomeBytesBy core pa (bs.take 8) false
      s.records = [] → (∀ p ∈ State.recordPages pa, s.pageBusy p = false) → s.recordBarred pa = false →
      s.streamRecord b = { s₂ with regs := { s₂.regs with prod := s₂.regs.prod + 1 } }

/-- R375: a step of the AC clock, by 100 MHz between 400 and 800, is noted for the next record; a thermal trip stops every
core until reset and reports BOOTSTAT: no core issues, and no event of a core does anything. -/
def Claim.ThrottleAndThermalTrip : Prop :=
  ∀ (s : State), s.rails = .up →
    exec .throttleStepDown s = .next (if s.mhz ≤ 400 then s else { s with mhz := s.mhz - 100, mhzChanged := true }) ∧
    exec .throttleStepUp s = .next (if 800 ≤ s.mhz then s else { s with mhz := s.mhz + 100, mhzChanged := true }) ∧
    (s.therm = false → ∃ s', exec .thermalTrip s = .next s' ∧ s'.therm = true ∧ s'.coresRun = false ∧
      s'.outbox = s.outbox ++ [.mctpReport s'.bootstat]) ∧
    (s.therm = true → exec .thermalTrip s = .next s ∧ (∀ r t, s.canIssue r t = false) ∧ ∀ r core place id k,
      exec (.storeLeavesQueue r) s = .next s ∧ exec (.loadDataArrival r k) s = .next s ∧ exec (.atomicAtHome r) s = .next s ∧
      exec (.copyGranuleWrite core id) s = .next s ∧ exec (.taskRetire core place) s = .next s)

/-- Counter latches and beacons, clock steps and the thermal trip. Rests on log entry 72. -/
def Obligations.CountersAndClock : Prop :=
  Claim.CounterLatches ∧ Claim.ThrottleAndThermalTrip

/-- R374, R378: rails that come up in the order of the part, or in any order on the module, whose stage makes its own, bring
the device to reset, and in another order break it; rails that go down leave what the firmware store holds; a reset boots; an
image that the firmware store takes is for the next reset. Each completes whatever its operands. A broken order keeps the
package in reset (log entry 93). -/
def Claim.RailsResetAndImages : Prop :=
  ∀ (s : State),
    (∀ order, s.rails = .down → exec (.powerUp order) s =
      .next (s.afterReset (if order = railOrder s.part ∨ s.part = .tk880m then .up else .broken))) ∧
    (∀ order, s.rails ≠ .down → exec (.powerUp order) s = .next s) ∧
    (∀ order, exec (.powerDown order) s = .next (s.afterReset .down)) ∧
    (∀ f, s.rails = .up → exec (.deviceReset f) s = .next ((s.afterReset .up).boot f)) ∧
    (∀ f, s.rails ≠ .up → exec (.deviceReset f) s = .next s) ∧
    (∀ image valid, s.rails = .up → s.stage ≠ 0 → s.health.failed = false →
      exec (.firmwareUpdate image valid) s = .next { s with firmware := image, firmwareOk := valid }) ∧
    (∀ image valid, s.rails ≠ .up ∨ s.stage = 0 ∨ s.health.failed = true →
      exec (.firmwareUpdate image valid) s = .next s) ∧
    ∀ rails, let s' := s.afterReset rails
      s'.rails = rails ∧ s'.part = s.part ∧ s'.firmware = s.firmware ∧ s'.booted = s.firmware ∧ s'.record = s.record ∧
      s'.firmwareOk = s.firmwareOk ∧ s'.resetNo = s.resetNo + 1 ∧ s'.stage = 0 ∧ s'.keys = [] ∧ s'.launches = [] ∧
      s'.therm = false ∧ s'.extest = false ∧ s'.health.failed = false ∧ s'.cores = List.replicate s.part.cores (Core.reset s.part) ∧
      (∀ a, a < hostBase → s'.mem.get a = 0) ∧ (s.mem.wf = true → ∀ a, hostBase ≤ a → s'.mem.get a = s.mem.get a)

/-- R361, R378: the stages of a boot: the firmware image, the configuration record, the health record and HBM are checked in
turn, each failure with its code; HBM reads zero, the units that the health record names are out of service, and the lanes of
the default plan that do not lock count as down. The stages run within one event (log entry 92), and what host memory holds is
log entry 2. -/
def Claim.PowerResetAndBoot : Prop :=
  ∀ (s : State) (f : BootFacts), s.rails = .up →
    let fails (code : Nat) : Prop := ∃ s', exec (.deviceReset f) s = .next s' ∧ s'.stage = 15 ∧ s'.failCode = code ∧
      s'.record = s.record ∧ s'.firmware = s.firmware
    (s.firmwareOk = false → fails 1) ∧
    (s.firmwareOk = true → f.config = none → fails 2) ∧
    (∀ t, s.firmwareOk = true → f.config = some t →
      (f.healthOk = false → fails 4) ∧
      (f.healthOk = true → f.hbmOk = false → fails 3) ∧
      (f.healthOk = true → f.hbmOk = true → ∃ s', exec (.deviceReset f) s = .next s' ∧ s'.stage = 6 ∧
        s'.thresholds = t ∧ s'.part = s.part ∧ s'.booted = s.firmware ∧ (∀ a, a < s.part.hbmBytes → s'.mem.get a = 0) ∧
        (s.mem.wf = true → ∀ a, hostBase ≤ a → s'.mem.get a = s.mem.get a) ∧
        s'.cores.length = s.part.cores ∧ s'.health.retired = s.record.pages ∧
        s'.plan = (if s.part.fab then State.defaultPlan else []) ∧
        (f.unlocked = [] → s'.record = s.record ∧ s'.health.lanesDown = s.record.lanes) ∧
        (∀ x ∈ f.unlocked, s.part.fab = true → x.1 < 64 → x.2.1 < 8 →
          s'.health.lanesDown.has (laneKey x.1 x.2.1 x.2.2) = true) ∧
        ∀ n c, s'.core? n = some c → (c.service = .out ↔ s.record.cores.has n = true) ∧
          ∀ b ∈ c.bays, (n, b) ∉ s.record.bays))

/-- The order of rails, reset, the stages of a boot with their failures, and firmware updates. Rests on log entries 2, 92 and 93. -/
def Obligations.PowerResetAndBoot : Prop :=
  Claim.RailsResetAndImages ∧ Claim.PowerResetAndBoot

/-- R308, R356, R377, R380: management messages are answered while management runs, with contents that other standards give
(log entry 5), and a key is staged only in a session; a failed device takes neither a key nor a clearing of its record; the
test access port takes its instruction while a rail is up, and EXTEST holds the cores. EXTEST holds until the next reset (log
entry 78). -/
def Obligations.ManagementAndTestPort : Prop :=
  ∀ (s : State),
    (s.managed = true →
      (∀ slot key, 0 < slot → slot < 256 → s.health.failed = false →
        (∃ s', exec (.keyDelivery slot key true) s = .next s' ∧
          (s'.keySlot slot) = { s.keySlot slot with staged := some key } ∧
          ∀ k, k ≠ slot → s'.keySlot k = s.keySlot k) ∧
        exec (.keyDelivery slot key false) s = .next s) ∧
      (∀ m, exec (.spdmRequest m) s = .next (s.send (.mctp (Config.spdmReply m s.measurements))) ∧
        exec (.mctpControl m) s = .next { s.send (.mctp (Config.mctpReply m s.free)) with free := s.free + 1 }) ∧
      (∀ item, exec (.vendorRead item) s =
        .next { s.send (.vendorReply item (s.vendorValues item)) with free := s.free + 1 }) ∧
      exec .healthRecordClear s = .next (if s.health.failed then s else { s with record := {} }) ∧
      (∀ slot key b, s.health.failed = true → exec (.keyDelivery slot key b) s = .next s)) ∧
    (s.managed = false → ∀ m, exec (.spdmRequest m) s = .next s ∧ exec (.mctpControl m) s = .next s ∧
      exec .healthRecordClear s = .next s) ∧
    (s.rails ≠ .down →
      exec .bypass s = .next { s with tap := .bypass } ∧
      exec .idcode s = .next (State.send { s with tap := .idcode }
        (.tdo (if s.part = .tk840 then 0x184004B7 else 0x188004B7))) ∧
      exec .samplePreload s = .next { s with tap := .sample } ∧
      exec .extest s = .next { s with tap := .extest, extest := true })

/-- R350, R352, R353, R357: a corrected error changes a health count and no value; an uncorrectable one in HBM marks the unit it
lies in, and one in a register marks the register; a page whose count of either kind reaches its threshold is pending
retirement. In the window of a core in service an uncorrectable error is a machine check 0x03 too, and stops Caster threads that
use the data (log entry 128). Counts halve. -/
def Claim.SoftErrors : Prop :=
  ∀ (s : State) (pa : Nat), pa < s.part.hbmBytes →
    let page := pa / 4096
    let n := countAt s.health.pages page + 1
    let m := countAt s.health.pagesBad page + 1
    let seen : State := { s with health := { s.health with pages := insertKey s.health.pages page n }
                                 count := { s.count with corrected := s.count.corrected + 1 } }
    let due : State := if s.thresholds.pageCorrected ≠ 0 ∧ n = s.thresholds.pageCorrected then seen.pagePending page else seen
    let lost : State := { s with mpois := s.mpois.add (pa / 16)
                                 health := { s.health with pagesBad := insertKey s.health.pagesBad page m }
                                 count := { s.count with uncorrectable := s.count.uncorrectable + 1 } }
    let bad : State :=
      if s.thresholds.pageUncorrectable ≠ 0 ∧ m = s.thresholds.pageUncorrectable then lost.pagePending page else lost
    exec (.correctedError (.hbm pa)) s = .next due.settle ∧
    exec (.patrolScrub pa true) s = .next due ∧ exec (.patrolScrub pa false) s = .next s ∧
    (s.inWindow pa 1 = false → exec (.uncorrectableError (.hbm pa)) s = .next bad.settle) ∧
    (∀ core c, s.windowCore? pa = some core → s.core? core = some c → c.inService = true →
      exec (.uncorrectableError (.hbm pa)) s = .next (State.settle (State.dataCheck
        { bad with free := bad.free + 1 } core (BitVec.ofNat 64 pa) (Config.usesLost bad.free)))) ∧
    bad.mem = s.mem ∧ bad.mpois.has (pa / 16) = true ∧
    (∀ (r : ThreadRef) (t : Thread) (v : Reg) (bay : Nat) (place i : Nat), s.thread? r = some t → r.who = .user place i →
      exec (.uncorrectableError (.register r v bay)) s = .next (State.settle (State.countUncorrectable
        (s.modThread r fun t => { t with poison := putBit t.poison v.toNat true })))) ∧
    ((s.health.pages.map Prod.fst).Nodup → ∃ s', exec .healthCountHalving s = .next s' ∧ (∀ k, countAt s'.health.pages k = countAt s.health.pages k / 2) ∧
      s'.mem = s.mem ∧ s'.regs = s.regs)

/-- R357 to R359: an error in a lane column counts for the column and its bay, and the bay leaves service as either reaches its
threshold; errors in the storage of a core count for the core, which leaves dispatch at a threshold of either kind. A bay that
leaves is in the health record and announced, and tasks that the others cannot hold are re-sliced; the last one takes its core
out of dispatch, and a core that leaves dispatch without a task leaves service. -/
def Claim.HealthThresholds : Prop :=
  ∀ (s : State) (core : Nat) (c : Core), s.core? core = some c → c.inService = true →
    let hits (n threshold : Nat) : Prop := threshold ≠ 0 ∧ n = threshold
    (∀ bay lane, bay < s.part.bays → lane < 32 →
      let k := bay * 32 + lane
      let s₁ := State.modHealth { s with count := { s.count with corrected := s.count.corrected + 1 } } core fun h =>
        { h with lanes := bump h.lanes k, bays := bump h.bays bay }
      let due := hits (countAt c.health.lanes k + 1) s.thresholds.lane ∨ hits (countAt c.health.bays bay + 1) s.thresholds.bay
      (due → exec (.correctedError (.lane core bay lane)) s = .next (s₁.bayOut core bay).settle) ∧
      (¬ due → exec (.correctedError (.lane core bay lane)) s = .next s₁.settle)) ∧
    (∀ site, (∃ p o, site = .scratch core p o) ∨ (∃ p k e, site = .acc core p k e) ∨ (∃ u w b, site = .plane core u w b) ∨
        (∃ a, site = .l1 core a) →
      let s₁ := State.modHealth { s with count := { s.count with corrected := s.count.corrected + 1 } } core fun h =>
        { h with corrected := h.corrected + 1 }
      let due := hits (c.health.corrected + 1) s.thresholds.coreCorrected
      (due → exec (.correctedError site) s = .next (s₁.leaveDispatch core).settle) ∧
      (¬ due → exec (.correctedError site) s = .next s₁.settle)) ∧
    (let s₁ := State.modHealth { s with count := { s.count with uncorrectable := s.count.uncorrectable + 1 } } core fun h =>
        { h with uncorrectable := h.uncorrectable + 1 }
      let due := hits (c.health.uncorrectable + 1) s.thresholds.coreUncorrectable
      (due → s.coreUncorrectable core = s₁.leaveDispatch core) ∧ (¬ due → s.coreUncorrectable core = s₁)) ∧
    (∀ bay, bay ∉ c.bays → s.bayOut core bay = s) ∧
    (∀ bay, c.bays = [bay] → s.bayOut core bay = s.leaveDispatch core) ∧
    (∀ bay, bay ∈ c.bays → 1 < c.bays.length →
      let c' : Core := { c with bays := c.bays.filter (· != bay) }
      let s₁ := s.modCore core fun c => { c with bays := c'.bays, tasks := c.tasks.map fun p =>
        (p.1, if c'.baysHold p.2.grant then p.2 else State.startSlice p.2 (grantFor s.part c' p.2.reqw)) }
      s.bayOut core bay = (State.healthEvent { s₁ with record := { s₁.record with bays := s₁.record.bays ++ [(core, bay)] } }
        1 (core + bay * 2 ^ 16)).replaceRequested) ∧
    (c.service = .running →
      let s₁ := if c.tasks = [] then s.takeOut core else (s.passRunners core).modCore core fun c => { c with service := .leaving }
      s.leaveDispatch core = (State.healthEvent { s₁ with record := { s₁.record with cores := s₁.record.cores.add core } }
        2 core).replaceRequested) ∧
    (c.service ≠ .running → s.leaveDispatch core = s)

/-- R352, R356: uncorrectable errors elsewhere: a scratchpad word, an accumulator entry and a row of a plane are poisoned; a
clean line of a cache is dropped, and of a dirty one the unit is poisoned; instruction lines and translations are fetched and
walked again; the control state of a core takes the core out of service, and that of the device stops the device. -/
def Claim.UncorrectableErrors : Prop :=
  ∀ (s : State) (core : Nat) (c : Core), s.core? core = some c → c.inService = true →
    let gives (site : ErrSite) (t : State) : Prop := exec (.uncorrectableError site) s = .next t.settle
    (∀ place t, s.task? core place = some t →
      (∀ off, off < t.scratch → gives (.scratch core place off)
        ((s.modTask core place fun t => { t with spois := t.spois.add (off / 8) }).coreUncorrectable core)) ∧
      (∀ slot e, slot < t.accslots → e < 256 → gives (.acc core place slot e) ((s.modTask core place fun t =>
        t.putAcc slot e { t.acc slot e with pois := true }).coreUncorrectable core))) ∧
    (∀ cru row, cru < s.part.crucibles → row < 64 →
      gives (.plane core cru row false) ((s.modCore core fun c => { c with crus := c.crus.modify cru fun k =>
        { k with apois := k.apois.add row } }).coreUncorrectable core) ∧
      gives (.plane core cru row true) ((s.modCore core fun c => { c with crus := c.crus.modify cru fun k =>
        { k with spois := k.spois.add row } }).coreUncorrectable core)) ∧
    (∀ pa l, s.l1Line? core (lineOf pa) = some l →
      (l.dirty = 0 → gives (.l1 core pa) ((s.modCore core fun c => { c with l1 := c.l1.erase l }).coreUncorrectable core)) ∧
      (l.dirty ≠ 0 → s.inWindow pa 1 = false →
        let u := pa % 64 / 16
        gives (.l1 core pa) ((s.putL1 core { l with pois := putBit l.pois u true
                                                    dirty := l.dirty ||| byteMask (16 * u) 16 }).coreUncorrectable core))) ∧
    (∀ pa, pa < s.part.hbmBytes → s.inWindow pa 1 = false →
      gives (.l2 pa false) s.countUncorrectable ∧
      gives (.l2 pa true) (State.countUncorrectable { s with mpois := s.mpois.add (pa / 16) })) ∧
    (∀ pa l, s.iline? core (lineOf pa) = some l → gives (.icache core pa) (s.putLine core (lineOf pa) none)) ∧
    gives (.tlb core) { s with tlb := s.tlb.filter fun e => e.core != core } ∧
    gives (.coreState core) ((s.countUncorrectable.healthEvent 2 core).haltCore core 0xFF 0 0 0) ∧
    (∃ t : State, gives .deviceState t ∧ t.health.failed = true ∧ t.health.rr = true ∧ t.mem = s.mem)


/-- Corrected errors count, uncorrectable ones mark their data, units leave service at thresholds, and counts halve. Rests on log entry 128. -/
def Obligations.SoftErrors : Prop :=
  Claim.SoftErrors ∧ Claim.HealthThresholds ∧ Claim.UncorrectableErrors


/-! ## Encoding (R28 to R42) -/

/-- The word of R28 from its fields: MAJ, GN, GQ, DST, SA, SB, SC, FEB, MIN, MOD, IMM. -/
def Claim.word (maj : BitVec 8) (gn : BitVec 1) (gq : BitVec 3) (dst sa sb sc : BitVec 6) (feb : BitVec 3)
    (min : BitVec 9) (mod : BitVec 16) (imm : BitVec 32) : InstrWord :=
  maj ++ gn ++ gq ++ dst ++ sa ++ sb ++ sc ++ feb ++ min ++ mod ++ imm

/-- R28, R32 to R39: words written out from the encoding tables with what they decode to, of each class, and words that
are refused with the sub-kind of what they break. -/
def Obligations.WordsOfTheEncodingTables : Prop :=
  let w := Claim.word
  let v (n : Reg) : Src := { reg := n, trap := false }
  let g : Guard := { neg := false, q := 0 }
  decode 0 = .ok .nop ∧
  decode (w 0x01 1 2 3 1 2 0 0b110 0 0x0080 0) =
    .ok (.iadd { neg := true, q := 2 } .i32 true 3 { reg := 1, trap := true } (.reg { reg := 2, trap := true })) ∧
  decode (w 0x20 0 0 4 5 0 0 0 0 0x0128 0x3F800000) = .ok (.fadd g .f32 .rtz false 4 (v 5) (.imm 0x3F800000)) ∧
  decode (w 0x38 0 0 1 2 0 0 0 0 0x100D 0) = .ok (.cvt g .ta8 .f32 .dyn false 1 (v 2)) ∧
  decode (w 0x40 0 0 0 0 0 0 0 0 0 16) = .ok (.setw g 16) ∧
  decode (w 0x48 0 0 8 9 0 0 0 0 0x200A 16) =
    .ok (.ld g false .b32 false .thr .wait 8 { space := .own, base := v 9, off := 16, swz := 0 }) ∧
  decode (w 0x50 0 0 1 4 2 0 0 0 0x0382 0) =
    .ok (.atom g .add .i32 .ar .dev 1 { space := .global, base := v 4, off := 0, swz := 0 } (v 2)) ∧
  decode (w 0x62 0 0 0 5 0 0 0 0 0 0) = .ok (.cpwait g (v 5)) ∧
  decode (w 0x6A 0 0 0 0 0 0 0 0 0x0005 3) = .ok (.mbegin g .ta8 1 3) ∧
  decode (w 0x74 0 0 1 2 0 0 0 0 1 0) = .ok (.alw g true 1 (v 2)) ∧
  decode (w 0x78 0 3 0 0 0 0 0 0 0 0xFFFFFFFA) = .ok (.bra { neg := false, q := 3 } 0xFFFFFFFA) ∧
  decode (w 0x80 0 0 2 0 0 0 0 0 0 0x010) = .ok (.ctlrd g 2 0x010) ∧
  decode (w 0x84 0 0 0 0 0 0 0 0 0 5) = .ok (.sys g 5) ∧
  decode (w 0x8C 0 0 1 2 0 0 0 0 0 0) = .ok (.kload g 1 (v 2)) ∧
  decode (w 0x00 0 0 0 0 0 0 0 0 0 1) = .illegal 0x05 ∧
  decode (w 0x1F 0 0 0 0 0 0 0 0 0 0) = .illegal 0x01 ∧
  decode (w 0x01 0 0 3 1 2 4 0 0 0x0000 0) = .illegal 0x02 ∧
  decode (w 0x01 0 0 3 1 2 0 0 0 0x0008 0) = .illegal 0x03 ∧
  decode (w 0x01 0 0 3 2 4 0 0 0 0x0002 0) = .illegal 0x04

/-- R28 to R38: every well-formed instruction has a word, and the word decodes to it with every operand as it was. -/
def Obligations.DecodingAnEncodedInstruction : Prop :=
  ∀ i : Instr, i.wf = true → ∃ w, encode i = some w ∧ decode w = .ok i

/-- R30, R32, R42 step 5: the decoder answers well-formed instructions only, each word has one meaning, and it is the
word the encoder gives that instruction. -/
def Obligations.EncodingADecodedWord : Prop :=
  ∀ (w : InstrWord) (i : Instr), decode w = .ok i → i.wf = true ∧ encode i = some w


/-! ## Issue and frames -/

/-- R29, R42 step 7: an instruction of any class but the cross-lane one whose guard is false has no effect but that the
PC advances; a privileged one needs the Caster mode for that. -/
def Claim.FalseGuardsOnlyAdvance : Prop :=
  ∀ (s : State) (t : Thread) (i : Instr) (f : Fields), encodeFields i = some f → i ≠ .nop →
    f.maj < 0x40 ∨ 0x48 ≤ f.maj → (0x88 ≤ f.maj → ∃ n, s.issuer.who = .caster n) →
    s.thread? s.issuer = some t → s.canIssue s.issuer t = true → t.predBusy f.guard.q = false →
    guardHolds f.guard t = false → exec i s = Completes s s

/-- R30, R31, R42 step 8, R74, R83, R146: an integer, address, float or conversion instruction whose guard is true looks at
its sources in order: the first empty one parks its thread, or traps EMPTYREG where its FEB bit says so; with none empty, a
thread with a result still on its way to a destination or predicate of the instruction stays where it is; then a poisoned
source traps POISON, unless the instruction carries poison, and a float root traps UNINIT on a marker. Of several empty or
poisoned sources the first of A, B, C decides, the lower register of a pair first (log entry 89). -/
def Claim.SourcesAreCheckedInOrder : Prop :=
  ∀ (s : State) (t : Thread) (i : Instr) (u : Machine.Use), useOf i = some u → s.thread? s.issuer = some t →
    s.canIssue s.issuer t = true → t.predBusy u.g.q = false → guardHolds u.g t = true →
    (∀ v, firstEmpty t u.srcs = some (v, false) → exec i s = Parks s s (.emptyReg v)) ∧
    (∀ v, firstEmpty t u.srcs = some (v, true) → exec i s = Traps s { kind := .emptyreg, sub := v.zeroExtend 8 }) ∧
    (firstEmpty t u.srcs = none → mustWait t u.dsts (u.qr ++ u.qw) = true → exec i s = Holds s) ∧
    (firstEmpty t u.srcs = none → mustWait t u.dsts (u.qr ++ u.qw) = false →
      (∀ p, firstPoison t u.srcs = some p → (∀ g ty d a, i ≠ .mov g ty d a) → (∀ g ty d a b q, i ≠ .sel g ty d a b q) →
        (∀ g rm sat d a b, i ≠ .pack g .b32 rm sat d a b) → (∀ g d a, i ≠ .unpack g .b32 d a) →
        exec i s = Traps s p) ∧
      (∀ p w, firstPoison t u.srcs = none → encodeFields i = some w → 0x20 ≤ w.maj → w.maj ≤ 0x34 →
        markerTrap t u.srcs = some p → exec i s = Traps s p))

/-- A false guard only advances; sources are checked in order for emptiness, poison and markers. Rests on log entry 89. -/
def Obligations.IssueChecks : Prop :=
  Claim.FalseGuardsOnlyAdvance ∧ Claim.SourcesAreCheckedInOrder

/-- R25, R29, R42: an integer, address, float or conversion instruction that issues traps, or completes and changes of its
thread its destination registers and predicates and the flags of FPCTL alone, an integer one not even those; and an
instruction that completes in its thread alone leaves every other thread and all the rest of the machine as it was. -/
def Obligations.RegisterInstructionsLeaveTheRest : Prop :=
  (∀ (s : State) (t : Thread) (i : Instr) (u : Machine.Use), useOf i = some u →
    Issues s t u.g u.srcs u.dsts (u.qr ++ u.qw) →
    (∃ x, exec i s = Traps s x) ∨
    ∃ f : Thread → Thread, exec i s = Writes s f ∧
      (∀ v, v ∉ u.written → (f t).reg v = t.reg v ∧ (f t).isFull v = t.isFull v ∧ (f t).isPois v = t.isPois v) ∧
      (∀ q, q ∉ u.qw → (f t).pred q = t.pred q) ∧
      (∃ fl, (f t).fpctl = orFlags t.fpctl fl) ∧
      (∀ w, encodeFields i = some w → w.maj < 0x20 → (f t).fpctl = t.fpctl) ∧
      f t = { t with regs := (f t).regs, full := (f t).full, poison := (f t).poison, preds := (f t).preds
                     fpctl := (f t).fpctl }) ∧
  (∀ (s : State) (t : Thread) (f : Thread → Thread), s.thread? s.issuer = some t → (f t).reserved = none →
    ∃ s', Writes s f = .next s' ∧ s' = { s with cores := s'.cores } ∧
      s'.thread? s.issuer = some { f t with pc := nextPC (f t).pc, wait := 0 } ∧
      (∀ r, r ≠ s.issuer → s'.thread? r = s.thread? r) ∧
      (∀ n c, s.core? n = some c → ∃ c', s'.core? n = some c' ∧
        c' = { c with tasks := c'.tasks, casters := c'.casters, count := c'.count } ∧
        ∀ p k, c.task? p = some k → ∃ k', c'.task? p = some k' ∧ k' = { k with threads := k'.threads }))

/-- R140, R143, R158, R169: a store changes the bytes it stores and no others: in a scratchpad, in the line of a core that holds
it with ownership, with what the home then serves pushed to the cores that subscribe the line, and at a home that no core holds a
copy of. -/
def Obligations.StoresChangeOnlyTheirBytes : Prop :=
  (∀ (s : State) (core place off : Nat) (bs : List Byte) (pois : Bool) (k : Task), s.task? core place = some k →
    k.bytes.wf = true → ∃ k', (s.scratchWrite core place off bs pois).task? core place = some k' ∧
      k'.bytes.read off bs.length = bs ∧ (∀ a, a < off ∨ off + bs.length ≤ a → k'.bytes.get a = k.bytes.get a) ∧
      k' = { k with bytes := k'.bytes, spois := k'.spois } ∧
      (∀ c p, (c, p) ≠ (core, place) → (s.scratchWrite core place off bs pois).task? c p = s.task? c p) ∧
      (s.scratchWrite core place off bs pois).mem = s.mem) ∧
  (∀ (s : State) (n pa : Nat) (bs : List Byte) (l : L1Line), s.l1Line? n (lineOf pa) = some l → l.owned = true →
    l.data.length = 64 → 0 < bs.length → pa % 64 + bs.length ≤ 64 → s.subscribed n (.mem (lineOf pa)) = false →
    let s' := s.storeLine n pa bs 0
    (∃ l', s'.l1Line? n (lineOf pa) = some l' ∧ l'.owned = true ∧ l'.data.length = 64 ∧
      (l'.data.drop (pa % 64)).take bs.length = bs ∧
      ∀ i, i < pa % 64 ∨ pa % 64 + bs.length ≤ i → l'.data[i]? = l.data[i]?) ∧
    (∀ m la, (m, la) ≠ (n, lineOf pa) → (la = lineOf pa → s.subscribed m (.mem la) = false) →
      s'.l1Line? m la = s.l1Line? m la) ∧
    (∀ m, s.subscribed m (.mem (lineOf pa)) = true → ∃ l', s'.l1Line? m (lineOf pa) = some l' ∧
      (l'.data, l'.pois) = s'.homeRead (lineOf pa)) ∧ s'.mem = s.mem) ∧
  (∀ (s : State) (pa : Nat) (bs : List Byte), s.mem.wf = true → 0 < bs.length → pa % 64 + bs.length ≤ 64 →
    s.ownedCopies (lineOf pa) = [] →
    let s' := s.storeHome pa bs 0
    s'.mem.read pa bs.length = bs ∧ ∀ a, a < pa ∨ pa + bs.length ≤ a → s'.mem.get a = s.mem.get a)


/-! ## Steps and reset -/

/-- R41, R42, R176, R221, R222, R223, R228, R348: an event of the schedule is run as it is. A turn goes to the candidates of a
group in issue order (log entry 17): the first issues with its subset, and where it is held the next has the turn. The threads of
a subset pass their boundaries, fetch the lines at their PCs, and then the lanes run one after the other, a lane that traps
stopping no other, each matched against the watchpoints as they stood. A lane runs the instruction that its word decodes to, and
of a legal pair the second once the first has completed. -/
def Obligations.StepRunsTheDecodedInstruction : Prop :=
  (∀ (s : State) (rest : List Turn), let s₀ : State := { s.tickCycle with agenda := rest }
    (∀ e, s.agenda = .event e :: rest → step s = exec e s₀) ∧
    (∀ r, s.agenda = .issue r :: rest →
      step s = firstTurn ((s₀.groupCandidates r.core (keyOf r.who).1 (s₀.groupNo r)).map (·.thread)) s₀)) ∧
  (∀ (s s' : State) (r : ThreadRef) (rs : List ThreadRef),
    firstTurn [] s = .next s ∧
    (issueSubset r s = .next s' → held r s s' = false → firstTurn (r :: rs) s = .next s') ∧
    (issueSubset r s = .next s' → held r s s' = true → firstTurn (r :: rs) s = firstTurn rs s') ∧
    (r ∉ s.subsetOf r → issueSubset r s = .next s) ∧
    (r ∈ s.subsetOf r →
      (∀ place tidx, r.who = .user place tidx → issueSubset r s = runSubset (s.subsetOf r)
        (s.modCore r.core fun c => { c with rr := State.groupKey place (s.groupNo r) + 1 })) ∧
      (∀ n, r.who = .caster n → issueSubset r s = runSubset (s.subsetOf r) s))) ∧
  (∀ (s : State) (l : List ThreadRef), runSubset [] s = .next s ∧
    (∀ xs s', fetchLanes (passBoundaries l s).1 (passBoundaries l s).2 = (xs, s') → runSubset l s = runLanes xs s')) ∧
  (∀ (s : State) (x y : Lane) (xs : List Lane),
    runLanes [] s = .next s ∧ runLanes [x] s = runLane x s ∧
    ∀ s' s'', runLane x s = .next s' →
      runLanes (y :: xs) (s'.setWatches x.thread (s.watches x.thread)) = .next s'' →
      (s'.watches x.thread = s.watches x.thread →
        runLanes (x :: y :: xs) s = .next (s''.setWatches x.thread (s''.watches x.thread))) ∧
      (s''.watches x.thread = s.watches x.thread →
        runLanes (x :: y :: xs) s = .next (s''.setWatches x.thread (s'.watches x.thread)))) ∧
  (∀ (s s₂ : State) (r : ThreadRef) (t : Thread) (bs : List Byte) (i : Instr),
    let k := pcSlot t.pc
    let word := slotWord bs k
    s.thread? r = some t → s.canIssue r t = true → s.boundary r = none → t.starting = false → pcBad t.pc = false →
    s.fetch r (pcLine t.pc) t.pc = (.line bs, s₂) → s₂.thread? r = some t → s₂.canIssue r t = true →
    ((s₂.accessor r).user = true → privileged word = false) →
    (namesCrucible1 word = true → 2 ≤ s₂.part.crucibles) → (needsFabric word = true → s₂.part.fab = true) →
    decode word = .ok i →
    let s₃ : State := { s₂ with issuer := r }
    (linePair bs k = false → runSubset [r] s = exec i s₃) ∧
    (∀ j u w, linePair bs k = true → checkSlot s₂.part (s₂.accessor r).user bs k = .ok (i, some j) →
      useOf i = some u → useOf j = some w → t.predBusy u.g.q = false → t.predBusy w.g.q = false →
      firstEmpty t (pairSrcs t u w) = none → pairWaits t u w = false →
      ∀ s₄, exec i s₃ = .next s₄ →
        runSubset [r] s = if s₄.issuesAt r (t.pc + 1) then exec j s₄ else .next s₄))

/-- R42, R221: an instruction answers a next state whatever its operands, on every state, and so does every event; and so does
every step, whatever turn the schedule names. The choices of an empty agenda are log entry 14, the order of a subset and of a
group log entries 15 and 17. -/
def Obligations.NoInstructionStops : Prop :=
  (∀ (i : Instr) (s : State), Goes (exec i s)) ∧ ∀ s : State, Goes (step s)

/-- The stores of the device (memory, the context table, the queue table, the measured image) stay in their one form in
every step, from whatever state. -/
def Obligations.StepsKeepMemoryCanonical : Prop :=
  ∀ s s' : State, s.Canonical → step s = .next s' → s'.Canonical

/-- R15, R273, R278, R292, R307, R316, R319, R350, R375, R378, R379, R382: what reset leaves, where the spec gives it; and that
memory lists nothing, which is how the model holds bytes that nothing has written (log entry 2): they read 0. Reset values that
the spec does not give are the model's own (log entry 3), and none is stated here but the memory's. -/
def Obligations.ResetState : Prop :=
  let s := State.reset
  s.Canonical ∧ s.mem = [] ∧ (∀ a, s.mem.get a = 0) ∧ s.stage = 0 ∧ s.cycle = 0 ∧ s.mhz = 800 ∧ s.therm = false ∧ s.regs.devLock = false ∧
  s.regs.cntctl = 10 ∧ s.planSeq = 0 ∧ (∀ d < 64, s.dest d = Dest.reset) ∧ Dest.reset.unreach = true ∧
  s.regs.mcValid = false ∧ s.regs.mcCount = 0 ∧ s.launches = [] ∧ s.keys = [] ∧
  (∀ c ∈ s.cores, c.inService = true ∧ c.tasks = [] ∧ c.gens = List.replicate 32 0 ∧ c.riser = [] ∧ c.callring = 0 ∧
    c.casters.length = 8 ∧ ∀ k ∈ c.casters, k.thr.state = .idle) ∧
  ∀ (pc : DWord) (n : Reg), (Thread.create pc).reg n = BitVec.ofNat 32 (0x7FA00000 + n.toNat) ∧
    (Thread.create pc).isFull n = true ∧ (Thread.create pc).isPois n = false ∧ (Thread.create pc).fpctl = 0x100



/-! ## Rules stated whole -/

/-- R15: what a thread holds at creation, and that the threads of a new task are so created. -/
def Obligations.ThreadAtCreation : Prop :=
  ∀ (s : State) (c : Core) (l : Launch) (idx pick : Nat) (cl : Option ClusterPos),
    (s.newTask c l idx pick cl).threads.length = l.desc.threads ∧
    ∀ t ∈ (s.newTask c l idx pick cl).threads,
      (∀ n : Reg, t.reg n = BitVec.ofNat 32 (0x7FA00000 + n.toNat) ∧ t.isFull n = true) ∧
      (∀ q : PredReg, q ≠ 0 → t.pred q = false) ∧ t.fpctl = 0x00000100 ∧ t.pc = l.desc.entry ∧ t.state = .runnable

/-- R23: a line passes its parity check when for each i the bits that PAR[i] covers and PAR[i] itself hold an even number of
ones. -/
def Obligations.ParityOfALine : Prop :=
  ∀ bs : List Byte, bs.length = 64 →
    let ones (b : Byte) : Nat := (List.range 8).countP fun k => b.getLsbD k
    let word := lineWord bs
    let covered (i : Nat) : Nat :=
      (((List.range 60).filter fun j => j % 8 = i).map fun j => ones (bs.getD j 0)).sum +
        if i = 0 then (List.range 16).countP fun k => word.testBit k else 0
    (parityOk bs = true ↔ ∀ i < 8, (covered i + if word.testBit (16 + i) then 1 else 0) % 2 = 0)

/-- R26: a relative target lies IMM[31:3] lines from the instruction's own line, at slot IMM[2:0]; a slot of 5 to 7 is no
fault of the encoding and makes a malformed target. -/
def Obligations.RelativeTargets : Prop :=
  ∀ (pc : DWord) (imm : Word) (g : Guard),
    relTarget pc imm = (pc.extractLsb' 6 58 + (imm.extractLsb' 3 29).signExtend 58) ++ 0#3 ++ imm.extractLsb' 0 3 ∧
    (Instr.bra g imm).wf = true ∧ (Instr.call g imm).wf = true ∧
    (pcBad (relTarget pc imm) = true ↔ 5 ≤ imm.toNat % 8)

/-- R39: the majors that are no instructions are ILLEGAL 0x01 in every mode and under every guard, and the privileged majors
and control registers raise PRIV in a user thread. A thread that comes to such a word, in slot 0 to 4 of a line that it fetches,
takes the trap at its issue, and the word has no other effect. -/
def Obligations.MajorsOutsideTheMap : Prop :=
  (∀ (p : Part) (w : InstrWord),
    let maj := (w.extractLsb' 88 8).toNat
    (maj = 0x1F ∨ (0x35 ≤ maj ∧ maj ≤ 0x37) ∨ (0x3B ≤ maj ∧ maj ≤ 0x3F) ∨ (0x53 ≤ maj ∧ maj ≤ 0x57) ∨
        (0x65 ≤ maj ∧ maj ≤ 0x67) ∨ maj = 0x73 ∨ maj = 0x77 ∨ maj = 0x82 ∨ maj = 0x83 ∨ maj = 0x87 ∨ 0x95 ≤ maj →
      ∀ user, checkWord p user w = .error { kind := .illegal, sub := 0x01 }) ∧
    (0x88 ≤ maj → maj ≤ 0x94 → checkWord p true w = .error { kind := .priv, sub := 0 }) ∧
    (maj = 0x80 ∨ maj = 0x81 → 0x800 ≤ (w.extractLsb' 0 12).toNat →
      checkWord p true w = .error { kind := .priv, sub := 0 })) ∧
  (∀ (s s₂ : State) (r : ThreadRef) (t : Thread) (bs : List Byte) (x : Trap),
    s.thread? r = some t → s.canIssue r t = true → s.boundary r = none → t.starting = false → pcBad t.pc = false →
    s.fetch r (pcLine t.pc) t.pc = (.line bs, s₂) →
    checkWord s₂.part (s₂.accessor r).user (slotWord bs (pcSlot t.pc)) = .error x →
    runSubset [r] s = .next (s₂.takeTrap r x))


/-! ## The assembler, the loader and checkpoints (R44 to R56, R366 to R368) -/

/-- R53, R54: a line that golmen builds has 64 bytes and passes its parity check. -/
def Claim.AssembledLines : Prop :=
  ∀ (s : Golmen.Asm) (n : Nat) (bs : List Byte), 5 * n + 5 ≤ s.text.length → s.lineBytes? n = some bs →
    bs.length = 64 ∧ parityOk bs = true

/-- R56: a relocation of an IMM in the text writes bits [31:0] or [63:32] of the address, formed by one addition of 64
bits, into that field alone; it leaves every other line as it was, and its own line passes its parity check. -/
def Claim.RelocatedImmediates : Prop :=
  ∀ (m m' : Golmen.Module) (r : Golmen.Reloc),
    let o := r.off - 128
    let line (t : List Byte) (k : Nat) : List Byte := (t.drop (64 * k)).take 64
    let base := if r.sec = 0 then m.textVa else if r.sec = 1 then m.dataVa else m.launchVa
    let a := (base + leNat ((m.text.drop o).take 4) + r.high * 2 ^ 32) % 2 ^ 64
    Golmen.applyReloc m r = some m' → (r.kind = 2 ∨ r.kind = 3) → o % 64 + 4 ≤ 60 → o < m.text.length →
      m.text.length % 64 = 0 →
      m'.text.length = m.text.length ∧ m'.data = m.data ∧ m'.launch = m.launch ∧
      leNat ((m'.text.drop o).take 4) = (if r.kind = 2 then a % 2 ^ 32 else a / 2 ^ 32) ∧
      (∀ i < 60, i < o % 64 ∨ o % 64 + 4 ≤ i → (line m'.text (o / 64))[i]? = (line m.text (o / 64))[i]?) ∧
      parityOk (line m'.text (o / 64)) = true ∧ ∀ k, k ≠ o / 64 → line m'.text k = line m.text k

/-- Lines that golmen builds and that the loader patches pass their parity check, and a relocation changes one field. -/
def Obligations.LinesOfTheAssemblerAndLoader : Prop :=
  Claim.AssembledLines ∧ Claim.RelocatedImmediates

/-- R366, R368: the image of a shard reads back as the shard, and its digest is that of its data. -/
def Obligations.ShardsReadBack : Prop :=
  ∀ s : Shard, s.ok = true → (∀ n ∈ s.shape, n < 2 ^ 64) → s.data.length < 2 ^ 64 →
    Shard.read s.image = some
      { nameh := Shard.nameh s.name, ty := s.ty, rank := s.rank, shape := s.shape, box := s.box, len := s.data.length
        data := Shard.padded s.data, digest := s.digest } ∧
    ∀ v, Shard.read s.image = some v → Shard.verified v s.digest false = true ∧ Shard.verified v s.digest true = false
end

