-- ==== Sys2Proof/Laws/Memory.lean ====
section
/-!
SUPPORT. What the operations of the byte store do: reading after a write, and that each keeps the canonical form.
-/

namespace Sys2Proof.Machine

/-! ## The canonical form is kept -/

theorem Memory.wfFrom_mono {m : Memory} {lo lo' : Nat} (h : lo' ≤ lo) (hm : m.wfFrom lo = true) :
    m.wfFrom lo' = true := by
  cases m with
  | nil => rfl
  | cons c m =>
    simp only [Memory.wfFrom, Bool.and_eq_true, decide_eq_true_eq] at hm ⊢
    exact ⟨⟨by omega, hm.1.2⟩, hm.2⟩

theorem Memory.wfFrom_set {m : Memory} {lo x : Nat} {v : Byte} (hx : lo ≤ x) (hm : m.wfFrom lo = true) :
    (m.set x v).wfFrom lo = true := by
  induction m generalizing lo with
  | nil =>
    by_cases hv : v = 0#8 <;> simp [Memory.set, Memory.wfFrom, hv, hx]
  | cons c m ih =>
    obtain ⟨a, b⟩ := c
    simp only [Memory.wfFrom, Bool.and_eq_true, decide_eq_true_eq, bne_iff_ne, ne_eq] at hm
    obtain ⟨⟨ha, hb⟩, hm⟩ := hm
    unfold Memory.set
    split
    · split
      · have hb : b ≠ 0#8 := hb
        simp [Memory.wfFrom, ha, hb, hm]
      · rename_i h _
        simp only [Memory.wfFrom, Bool.and_eq_true, decide_eq_true_eq, bne_iff_ne, ne_eq]
        exact ⟨⟨hx, ‹_›⟩, ⟨by omega, hb⟩, hm⟩
    · split
      · split
        · exact Memory.wfFrom_mono (by omega) hm
        · subst_vars
          simp only [Memory.wfFrom, Bool.and_eq_true, decide_eq_true_eq, bne_iff_ne, ne_eq]
          exact ⟨⟨hx, ‹_›⟩, hm⟩
      · simp only [Memory.wfFrom, Bool.and_eq_true, decide_eq_true_eq, bne_iff_ne, ne_eq]
        exact ⟨⟨ha, hb⟩, ih (by omega) hm⟩

/-- A byte written keeps the form. -/
theorem Memory.wf_set {m : Memory} {x : Nat} {v : Byte} (hm : m.wf = true) : (m.set x v).wf = true :=
  Memory.wfFrom_set (Nat.zero_le x) hm

/-- Bytes written keep the form. -/
theorem Memory.wf_write {m : Memory} {a : Nat} {bs : List Byte} (hm : m.wf = true) : (m.write a bs).wf = true := by
  induction bs generalizing m a with
  | nil => exact hm
  | cons b bs ih => exact ih (Memory.wf_set hm)

/-- Bytes written under a mask keep the form. -/
theorem Memory.wf_writeSome {m : Memory} {a : Nat} {bs : List (Option Byte)} (hm : m.wf = true) :
    (m.writeSome a bs).wf = true := by
  induction bs generalizing m a with
  | nil => exact hm
  | cons b bs ih =>
    cases b with
    | none => exact ih hm
    | some b => exact ih (Memory.wf_set hm)

theorem Memory.wfFrom_filter {m : Memory} {lo : Nat} (p : Host.Cell → Bool) (hm : m.wfFrom lo = true) :
    Memory.wfFrom lo (m.filter p) = true := by
  induction m generalizing lo with
  | nil => rfl
  | cons c m ih =>
    obtain ⟨a, b⟩ := c
    simp only [Memory.wfFrom, Bool.and_eq_true, decide_eq_true_eq, bne_iff_ne, ne_eq] at hm
    obtain ⟨⟨ha, hb⟩, hm⟩ := hm
    rw [List.filter_cons]
    split
    · simp only [Memory.wfFrom, Bool.and_eq_true, decide_eq_true_eq, bne_iff_ne, ne_eq]
      exact ⟨⟨ha, hb⟩, ih hm⟩
    · exact Memory.wfFrom_mono (by omega) (ih hm)

/-- A range cleared keeps the form. -/
theorem Memory.wf_clear {m : Memory} {a n : Nat} (hm : m.wf = true) : (m.clear a n).wf = true :=
  Memory.wfFrom_filter _ hm

/-! ## Reading after a write -/

theorem Memory.get_below {m : Memory} {lo x : Nat} (hm : m.wfFrom lo = true) (hx : x < lo) : m.get x = 0 := by
  cases m with
  | nil => rfl
  | cons c m =>
    obtain ⟨a, b⟩ := c
    simp only [Memory.wfFrom, Bool.and_eq_true, decide_eq_true_eq] at hm
    have h1 : x ≠ a := by omega
    have h2 : x < a := by omega
    simp [Memory.get, h1, h2]

theorem Memory.get_set_from {m : Memory} {lo x y : Nat} {v : Byte} (hm : m.wfFrom lo = true) :
    (m.set x v).get y = if y = x then v else m.get y := by
  induction m generalizing lo with
  | nil =>
    by_cases hv : v = 0#8 <;> by_cases hy : y = x <;> simp [Memory.set, Memory.get, hv, hy]
  | cons c m ih =>
    obtain ⟨a, b⟩ := c
    simp only [Memory.wfFrom, Bool.and_eq_true, decide_eq_true_eq] at hm
    obtain ⟨_, hm⟩ := hm
    by_cases h1 : x < a
    · by_cases hv : v = 0#8
      · by_cases hy : y = x
        · subst hy
          simp [Memory.set, Memory.get, h1, hv, Nat.ne_of_lt h1]
        · simp [Memory.set, h1, hv, hy]
      · by_cases hy : y = x
        · simp [Memory.set, Memory.get, h1, hv, hy]
        · by_cases hlt : y < x
          · have : y ≠ a := by omega
            have : y < a := by omega
            simp [Memory.set, Memory.get, *]
          · simp [Memory.set, Memory.get, h1, hv, hy, hlt]
    · by_cases h2 : x = a
      · subst h2
        by_cases hv : v = 0#8
        · by_cases hy : y = x
          · simp [Memory.set, hv, hy, Memory.get_below hm (Nat.lt_succ_self x)]
          · by_cases hlt : y < x
            · simp [Memory.set, Memory.get, hv, hy, hlt, Memory.get_below hm (by omega : y < x + 1)]
            · simp [Memory.set, Memory.get, hv, hy, hlt]
        · by_cases hy : y = x
          · simp [Memory.set, Memory.get, hv, hy]
          · simp [Memory.set, Memory.get, hv, hy]
      · by_cases hya : y = a
        · have : y ≠ x := by omega
          subst hya; simp [Memory.set, Memory.get, h1, h2, this]
        · by_cases hlt : y < a
          · have : y ≠ x := by omega
            simp [Memory.set, Memory.get, h1, h2, hya, hlt, this]
          · simp [Memory.set, Memory.get, h1, h2, hya, hlt, ih hm]

/-- A byte written is read back, and every other byte is as it was. -/
theorem Memory.get_set {m : Memory} {x y : Nat} {v : Byte} (hm : m.wf = true) :
    (m.set x v).get y = if y = x then v else m.get y :=
  Memory.get_set_from hm

/-- A byte outside the bytes written is as it was. -/
theorem Memory.get_write_other {m : Memory} {a y : Nat} {bs : List Byte} (hm : m.wf = true)
    (hy : y < a ∨ a + bs.length ≤ y) : (m.write a bs).get y = m.get y := by
  induction bs generalizing m a with
  | nil => rfl
  | cons b bs ih =>
    simp only [List.length_cons] at hy
    rw [Memory.write, ih (Memory.wf_set hm) (by omega), Memory.get_set hm, if_neg (by omega)]

/-- A byte written is read back. -/
theorem Memory.get_write {m : Memory} {a i : Nat} {bs : List Byte} (hm : m.wf = true) (hi : i < bs.length) :
    (m.write a bs).get (a + i) = bs[i] := by
  induction bs generalizing m a i with
  | nil => simp at hi
  | cons b bs ih =>
    rw [Memory.write]
    cases i with
    | zero => rw [Memory.get_write_other (Memory.wf_set hm) (by omega), Memory.get_set hm]; simp
    | succ i =>
      have := ih (m := m.set a b) (a := a + 1) (i := i) (Memory.wf_set hm) (by simpa using hi)
      rw [show a + (i + 1) = a + 1 + i by omega, this]; rfl

/-- Bytes written are read back. -/
theorem Memory.read_write {m : Memory} {a : Nat} {bs : List Byte} (hm : m.wf = true) :
    (m.write a bs).read a bs.length = bs := by
  apply List.ext_getElem
  · simp [Memory.read]
  · intro i h1 h2
    simp only [Memory.read, List.getElem_map, List.getElem_range]
    exact Memory.get_write hm h2

/-- Two memories in their one form that read alike are equal. -/
theorem Memory.ext_from {m m' : Memory} {lo : Nat} (hm : m.wfFrom lo = true) (hm' : m'.wfFrom lo = true)
    (h : ∀ x, m.get x = m'.get x) : m = m' := by
  induction m generalizing m' lo with
  | nil =>
    cases m' with
    | nil => rfl
    | cons c m' =>
      obtain ⟨a, b⟩ := c
      simp only [Memory.wfFrom, Bool.and_eq_true, decide_eq_true_eq, bne_iff_ne, ne_eq] at hm'
      have := h a
      simp only [Memory.get, if_true] at this
      exact absurd this.symm hm'.1.2
  | cons c m ih =>
    obtain ⟨a, b⟩ := c
    simp only [Memory.wfFrom, Bool.and_eq_true, decide_eq_true_eq, bne_iff_ne, ne_eq] at hm
    cases m' with
    | nil =>
      have := h a
      simp only [Memory.get, if_true] at this
      exact absurd this hm.1.2
    | cons c' m' =>
      obtain ⟨a', b'⟩ := c'
      simp only [Memory.wfFrom, Bool.and_eq_true, decide_eq_true_eq, bne_iff_ne, ne_eq] at hm'
      have haa : a = a' := by
        rcases Nat.lt_trichotomy a a' with hlt | heq | hlt
        · have := h a
          simp only [Memory.get, if_true, if_neg (Nat.ne_of_lt hlt), if_pos hlt] at this
          exact absurd this hm.1.2
        · exact heq
        · have := h a'
          simp only [Memory.get, if_true, if_neg (Nat.ne_of_lt hlt), if_pos hlt] at this
          exact absurd this.symm hm'.1.2
      subst haa
      have hbb : b = b' := by simpa [Memory.get] using h a
      subst hbb
      rw [ih hm.2 hm'.2 fun x => ?_]
      rcases Nat.lt_or_ge x (a + 1) with hx | hx
      · rw [Memory.get_below hm.2 hx, Memory.get_below hm'.2 hx]
      · have := h x
        have h1 : x ≠ a := by omega
        have h2 : ¬ x < a := by omega
        simpa [Memory.get, h1, h2] using this

end Sys2Proof.Machine
end

