-- ==== Sys2Proof/Laws/State.lean ====
section
/-!
SUPPORT. What an update of the machine, of a core or of a thread leaves alone and what it changes.
-/

namespace Sys2Proof.Machine

/-! ## Updates of the machine -/

@[simp] theorem State.modCore_part (s : State) (n : Nat) (f : Core → Core) : (s.modCore n f).part = s.part := rfl
@[simp] theorem State.modCore_mem (s : State) (n : Nat) (f : Core → Core) : (s.modCore n f).mem = s.mem := rfl
@[simp] theorem State.modCore_mpois (s : State) (n : Nat) (f : Core → Core) : (s.modCore n f).mpois = s.mpois := rfl
@[simp] theorem State.modCore_hostBias (s : State) (n : Nat) (f : Core → Core) : (s.modCore n f).hostBias = s.hostBias := rfl
@[simp] theorem State.modCore_flips (s : State) (n : Nat) (f : Core → Core) : (s.modCore n f).flips = s.flips := rfl
@[simp] theorem State.modCore_hostWaits (s : State) (n : Nat) (f : Core → Core) : (s.modCore n f).hostWaits = s.hostWaits := rfl
@[simp] theorem State.modCore_devWaits (s : State) (n : Nat) (f : Core → Core) : (s.modCore n f).devWaits = s.devWaits := rfl
@[simp] theorem State.modCore_pslots (s : State) (n : Nat) (f : Core → Core) : (s.modCore n f).pslots = s.pslots := rfl
@[simp] theorem State.modCore_pslotBusy (s : State) (n : Nat) (f : Core → Core) : (s.modCore n f).pslotBusy = s.pslotBusy := rfl
@[simp] theorem State.modCore_marked (s : State) (n : Nat) (f : Core → Core) : (s.modCore n f).marked = s.marked := rfl
@[simp] theorem State.modCore_evicting (s : State) (n : Nat) (f : Core → Core) : (s.modCore n f).evicting = s.evicting := rfl
@[simp] theorem State.modCore_keys (s : State) (n : Nat) (f : Core → Core) : (s.modCore n f).keys = s.keys := rfl
@[simp] theorem State.modCore_lineKeys (s : State) (n : Nat) (f : Core → Core) : (s.modCore n f).lineKeys = s.lineKeys := rfl
@[simp] theorem State.modCore_ctxTable (s : State) (n : Nat) (f : Core → Core) : (s.modCore n f).ctxTable = s.ctxTable := rfl
@[simp] theorem State.modCore_queueTable (s : State) (n : Nat) (f : Core → Core) : (s.modCore n f).queueTable = s.queueTable := rfl
@[simp] theorem State.modCore_launches (s : State) (n : Nat) (f : Core → Core) : (s.modCore n f).launches = s.launches := rfl
@[simp] theorem State.modCore_launchNo (s : State) (n : Nat) (f : Core → Core) : (s.modCore n f).launchNo = s.launchNo := rfl
@[simp] theorem State.modCore_preempt (s : State) (n : Nat) (f : Core → Core) : (s.modCore n f).preempt = s.preempt := rfl
@[simp] theorem State.modCore_dests (s : State) (n : Nat) (f : Core → Core) : (s.modCore n f).dests = s.dests := rfl
@[simp] theorem State.modCore_plan (s : State) (n : Nat) (f : Core → Core) : (s.modCore n f).plan = s.plan := rfl
@[simp] theorem State.modCore_staged (s : State) (n : Nat) (f : Core → Core) : (s.modCore n f).staged = s.staged := rfl
@[simp] theorem State.modCore_planErr (s : State) (n : Nat) (f : Core → Core) : (s.modCore n f).planErr = s.planErr := rfl
@[simp] theorem State.modCore_planSeq (s : State) (n : Nat) (f : Core → Core) : (s.modCore n f).planSeq = s.planSeq := rfl
@[simp] theorem State.modCore_planNunr (s : State) (n : Nat) (f : Core → Core) : (s.modCore n f).planNunr = s.planNunr := rfl
@[simp] theorem State.modCore_commit (s : State) (n : Nat) (f : Core → Core) : (s.modCore n f).commit = s.commit := rfl
@[simp] theorem State.modCore_lockedIn (s : State) (n : Nat) (f : Core → Core) : (s.modCore n f).lockedIn = s.lockedIn := rfl
@[simp] theorem State.modCore_lockedOut (s : State) (n : Nat) (f : Core → Core) : (s.modCore n f).lockedOut = s.lockedOut := rfl
@[simp] theorem State.modCore_reqs (s : State) (n : Nat) (f : Core → Core) : (s.modCore n f).reqs = s.reqs := rfl
@[simp] theorem State.modCore_reqNo (s : State) (n : Nat) (f : Core → Core) : (s.modCore n f).reqNo = s.reqNo := rfl
@[simp] theorem State.modCore_barPeers (s : State) (n : Nat) (f : Core → Core) : (s.modCore n f).barPeers = s.barPeers := rfl
@[simp] theorem State.modCore_peerSubs (s : State) (n : Nat) (f : Core → Core) : (s.modCore n f).peerSubs = s.peerSubs := rfl
@[simp] theorem State.modCore_seqs (s : State) (n : Nat) (f : Core → Core) : (s.modCore n f).seqs = s.seqs := rfl
@[simp] theorem State.modCore_colls (s : State) (n : Nat) (f : Core → Core) : (s.modCore n f).colls = s.colls := rfl
@[simp] theorem State.modCore_tlb (s : State) (n : Nat) (f : Core → Core) : (s.modCore n f).tlb = s.tlb := rfl
@[simp] theorem State.modCore_shoots (s : State) (n : Nat) (f : Core → Core) : (s.modCore n f).shoots = s.shoots := rfl
@[simp] theorem State.modCore_regs (s : State) (n : Nat) (f : Core → Core) : (s.modCore n f).regs = s.regs := rfl
@[simp] theorem State.modCore_health (s : State) (n : Nat) (f : Core → Core) : (s.modCore n f).health = s.health := rfl
@[simp] theorem State.modCore_record (s : State) (n : Nat) (f : Core → Core) : (s.modCore n f).record = s.record := rfl
@[simp] theorem State.modCore_thresholds (s : State) (n : Nat) (f : Core → Core) : (s.modCore n f).thresholds = s.thresholds := rfl
@[simp] theorem State.modCore_count (s : State) (n : Nat) (f : Core → Core) : (s.modCore n f).count = s.count := rfl
@[simp] theorem State.modCore_stage (s : State) (n : Nat) (f : Core → Core) : (s.modCore n f).stage = s.stage := rfl
@[simp] theorem State.modCore_failCode (s : State) (n : Nat) (f : Core → Core) : (s.modCore n f).failCode = s.failCode := rfl
@[simp] theorem State.modCore_therm (s : State) (n : Nat) (f : Core → Core) : (s.modCore n f).therm = s.therm := rfl
@[simp] theorem State.modCore_cycle (s : State) (n : Nat) (f : Core → Core) : (s.modCore n f).cycle = s.cycle := rfl
@[simp] theorem State.modCore_mhz (s : State) (n : Nat) (f : Core → Core) : (s.modCore n f).mhz = s.mhz := rfl
@[simp] theorem State.modCore_mhzChanged (s : State) (n : Nat) (f : Core → Core) : (s.modCore n f).mhzChanged = s.mhzChanged := rfl
@[simp] theorem State.modCore_tick (s : State) (n : Nat) (f : Core → Core) : (s.modCore n f).tick = s.tick := rfl
@[simp] theorem State.modCore_cntLost (s : State) (n : Nat) (f : Core → Core) : (s.modCore n f).cntLost = s.cntLost := rfl
@[simp] theorem State.modCore_rails (s : State) (n : Nat) (f : Core → Core) : (s.modCore n f).rails = s.rails := rfl
@[simp] theorem State.modCore_tap (s : State) (n : Nat) (f : Core → Core) : (s.modCore n f).tap = s.tap := rfl
@[simp] theorem State.modCore_extest (s : State) (n : Nat) (f : Core → Core) : (s.modCore n f).extest = s.extest := rfl
@[simp] theorem State.modCore_firmware (s : State) (n : Nat) (f : Core → Core) : (s.modCore n f).firmware = s.firmware := rfl
@[simp] theorem State.modCore_firmwareOk (s : State) (n : Nat) (f : Core → Core) : (s.modCore n f).firmwareOk = s.firmwareOk := rfl
@[simp] theorem State.modCore_booted (s : State) (n : Nat) (f : Core → Core) : (s.modCore n f).booted = s.booted := rfl
@[simp] theorem State.modCore_resetNo (s : State) (n : Nat) (f : Core → Core) : (s.modCore n f).resetNo = s.resetNo := rfl
@[simp] theorem State.modCore_image (s : State) (n : Nat) (f : Core → Core) : (s.modCore n f).image = s.image := rfl
@[simp] theorem State.modCore_records (s : State) (n : Nat) (f : Core → Core) : (s.modCore n f).records = s.records := rfl
@[simp] theorem State.modCore_hdmBase (s : State) (n : Nat) (f : Core → Core) : (s.modCore n f).hdmBase = s.hdmBase := rfl
@[simp] theorem State.modCore_outbox (s : State) (n : Nat) (f : Core → Core) : (s.modCore n f).outbox = s.outbox := rfl
@[simp] theorem State.modCore_touched (s : State) (n : Nat) (f : Core → Core) : (s.modCore n f).touched = s.touched := rfl
@[simp] theorem State.modCore_agenda (s : State) (n : Nat) (f : Core → Core) : (s.modCore n f).agenda = s.agenda := rfl
@[simp] theorem State.modCore_issuer (s : State) (n : Nat) (f : Core → Core) : (s.modCore n f).issuer = s.issuer := rfl
@[simp] theorem State.modCore_issueNo (s : State) (n : Nat) (f : Core → Core) : (s.modCore n f).issueNo = s.issueNo := rfl
@[simp] theorem State.modCore_free (s : State) (n : Nat) (f : Core → Core) : (s.modCore n f).free = s.free := rfl
@[simp] theorem State.modTask_part (s : State) (n p : Nat) (f : Task → Task) : (s.modTask n p f).part = s.part := rfl
@[simp] theorem State.modTask_mem (s : State) (n p : Nat) (f : Task → Task) : (s.modTask n p f).mem = s.mem := rfl
@[simp] theorem State.modTask_mpois (s : State) (n p : Nat) (f : Task → Task) : (s.modTask n p f).mpois = s.mpois := rfl
@[simp] theorem State.modTask_hostBias (s : State) (n p : Nat) (f : Task → Task) : (s.modTask n p f).hostBias = s.hostBias := rfl
@[simp] theorem State.modTask_flips (s : State) (n p : Nat) (f : Task → Task) : (s.modTask n p f).flips = s.flips := rfl
@[simp] theorem State.modTask_hostWaits (s : State) (n p : Nat) (f : Task → Task) : (s.modTask n p f).hostWaits = s.hostWaits := rfl
@[simp] theorem State.modTask_devWaits (s : State) (n p : Nat) (f : Task → Task) : (s.modTask n p f).devWaits = s.devWaits := rfl
@[simp] theorem State.modTask_pslots (s : State) (n p : Nat) (f : Task → Task) : (s.modTask n p f).pslots = s.pslots := rfl
@[simp] theorem State.modTask_pslotBusy (s : State) (n p : Nat) (f : Task → Task) : (s.modTask n p f).pslotBusy = s.pslotBusy := rfl
@[simp] theorem State.modTask_marked (s : State) (n p : Nat) (f : Task → Task) : (s.modTask n p f).marked = s.marked := rfl
@[simp] theorem State.modTask_evicting (s : State) (n p : Nat) (f : Task → Task) : (s.modTask n p f).evicting = s.evicting := rfl
@[simp] theorem State.modTask_keys (s : State) (n p : Nat) (f : Task → Task) : (s.modTask n p f).keys = s.keys := rfl
@[simp] theorem State.modTask_lineKeys (s : State) (n p : Nat) (f : Task → Task) : (s.modTask n p f).lineKeys = s.lineKeys := rfl
@[simp] theorem State.modTask_ctxTable (s : State) (n p : Nat) (f : Task → Task) : (s.modTask n p f).ctxTable = s.ctxTable := rfl
@[simp] theorem State.modTask_queueTable (s : State) (n p : Nat) (f : Task → Task) : (s.modTask n p f).queueTable = s.queueTable := rfl
@[simp] theorem State.modTask_launches (s : State) (n p : Nat) (f : Task → Task) : (s.modTask n p f).launches = s.launches := rfl
@[simp] theorem State.modTask_launchNo (s : State) (n p : Nat) (f : Task → Task) : (s.modTask n p f).launchNo = s.launchNo := rfl
@[simp] theorem State.modTask_preempt (s : State) (n p : Nat) (f : Task → Task) : (s.modTask n p f).preempt = s.preempt := rfl
@[simp] theorem State.modTask_dests (s : State) (n p : Nat) (f : Task → Task) : (s.modTask n p f).dests = s.dests := rfl
@[simp] theorem State.modTask_plan (s : State) (n p : Nat) (f : Task → Task) : (s.modTask n p f).plan = s.plan := rfl
@[simp] theorem State.modTask_staged (s : State) (n p : Nat) (f : Task → Task) : (s.modTask n p f).staged = s.staged := rfl
@[simp] theorem State.modTask_planErr (s : State) (n p : Nat) (f : Task → Task) : (s.modTask n p f).planErr = s.planErr := rfl
@[simp] theorem State.modTask_planSeq (s : State) (n p : Nat) (f : Task → Task) : (s.modTask n p f).planSeq = s.planSeq := rfl
@[simp] theorem State.modTask_planNunr (s : State) (n p : Nat) (f : Task → Task) : (s.modTask n p f).planNunr = s.planNunr := rfl
@[simp] theorem State.modTask_commit (s : State) (n p : Nat) (f : Task → Task) : (s.modTask n p f).commit = s.commit := rfl
@[simp] theorem State.modTask_lockedIn (s : State) (n p : Nat) (f : Task → Task) : (s.modTask n p f).lockedIn = s.lockedIn := rfl
@[simp] theorem State.modTask_lockedOut (s : State) (n p : Nat) (f : Task → Task) : (s.modTask n p f).lockedOut = s.lockedOut := rfl
@[simp] theorem State.modTask_reqs (s : State) (n p : Nat) (f : Task → Task) : (s.modTask n p f).reqs = s.reqs := rfl
@[simp] theorem State.modTask_reqNo (s : State) (n p : Nat) (f : Task → Task) : (s.modTask n p f).reqNo = s.reqNo := rfl
@[simp] theorem State.modTask_barPeers (s : State) (n p : Nat) (f : Task → Task) : (s.modTask n p f).barPeers = s.barPeers := rfl
@[simp] theorem State.modTask_peerSubs (s : State) (n p : Nat) (f : Task → Task) : (s.modTask n p f).peerSubs = s.peerSubs := rfl
@[simp] theorem State.modTask_seqs (s : State) (n p : Nat) (f : Task → Task) : (s.modTask n p f).seqs = s.seqs := rfl
@[simp] theorem State.modTask_colls (s : State) (n p : Nat) (f : Task → Task) : (s.modTask n p f).colls = s.colls := rfl
@[simp] theorem State.modTask_tlb (s : State) (n p : Nat) (f : Task → Task) : (s.modTask n p f).tlb = s.tlb := rfl
@[simp] theorem State.modTask_shoots (s : State) (n p : Nat) (f : Task → Task) : (s.modTask n p f).shoots = s.shoots := rfl
@[simp] theorem State.modTask_regs (s : State) (n p : Nat) (f : Task → Task) : (s.modTask n p f).regs = s.regs := rfl
@[simp] theorem State.modTask_health (s : State) (n p : Nat) (f : Task → Task) : (s.modTask n p f).health = s.health := rfl
@[simp] theorem State.modTask_record (s : State) (n p : Nat) (f : Task → Task) : (s.modTask n p f).record = s.record := rfl
@[simp] theorem State.modTask_thresholds (s : State) (n p : Nat) (f : Task → Task) : (s.modTask n p f).thresholds = s.thresholds := rfl
@[simp] theorem State.modTask_count (s : State) (n p : Nat) (f : Task → Task) : (s.modTask n p f).count = s.count := rfl
@[simp] theorem State.modTask_stage (s : State) (n p : Nat) (f : Task → Task) : (s.modTask n p f).stage = s.stage := rfl
@[simp] theorem State.modTask_failCode (s : State) (n p : Nat) (f : Task → Task) : (s.modTask n p f).failCode = s.failCode := rfl
@[simp] theorem State.modTask_therm (s : State) (n p : Nat) (f : Task → Task) : (s.modTask n p f).therm = s.therm := rfl
@[simp] theorem State.modTask_cycle (s : State) (n p : Nat) (f : Task → Task) : (s.modTask n p f).cycle = s.cycle := rfl
@[simp] theorem State.modTask_mhz (s : State) (n p : Nat) (f : Task → Task) : (s.modTask n p f).mhz = s.mhz := rfl
@[simp] theorem State.modTask_mhzChanged (s : State) (n p : Nat) (f : Task → Task) : (s.modTask n p f).mhzChanged = s.mhzChanged := rfl
@[simp] theorem State.modTask_tick (s : State) (n p : Nat) (f : Task → Task) : (s.modTask n p f).tick = s.tick := rfl
@[simp] theorem State.modTask_cntLost (s : State) (n p : Nat) (f : Task → Task) : (s.modTask n p f).cntLost = s.cntLost := rfl
@[simp] theorem State.modTask_rails (s : State) (n p : Nat) (f : Task → Task) : (s.modTask n p f).rails = s.rails := rfl
@[simp] theorem State.modTask_tap (s : State) (n p : Nat) (f : Task → Task) : (s.modTask n p f).tap = s.tap := rfl
@[simp] theorem State.modTask_extest (s : State) (n p : Nat) (f : Task → Task) : (s.modTask n p f).extest = s.extest := rfl
@[simp] theorem State.modTask_firmware (s : State) (n p : Nat) (f : Task → Task) : (s.modTask n p f).firmware = s.firmware := rfl
@[simp] theorem State.modTask_firmwareOk (s : State) (n p : Nat) (f : Task → Task) : (s.modTask n p f).firmwareOk = s.firmwareOk := rfl
@[simp] theorem State.modTask_booted (s : State) (n p : Nat) (f : Task → Task) : (s.modTask n p f).booted = s.booted := rfl
@[simp] theorem State.modTask_resetNo (s : State) (n p : Nat) (f : Task → Task) : (s.modTask n p f).resetNo = s.resetNo := rfl
@[simp] theorem State.modTask_image (s : State) (n p : Nat) (f : Task → Task) : (s.modTask n p f).image = s.image := rfl
@[simp] theorem State.modTask_records (s : State) (n p : Nat) (f : Task → Task) : (s.modTask n p f).records = s.records := rfl
@[simp] theorem State.modTask_hdmBase (s : State) (n p : Nat) (f : Task → Task) : (s.modTask n p f).hdmBase = s.hdmBase := rfl
@[simp] theorem State.modTask_outbox (s : State) (n p : Nat) (f : Task → Task) : (s.modTask n p f).outbox = s.outbox := rfl
@[simp] theorem State.modTask_touched (s : State) (n p : Nat) (f : Task → Task) : (s.modTask n p f).touched = s.touched := rfl
@[simp] theorem State.modTask_agenda (s : State) (n p : Nat) (f : Task → Task) : (s.modTask n p f).agenda = s.agenda := rfl
@[simp] theorem State.modTask_issuer (s : State) (n p : Nat) (f : Task → Task) : (s.modTask n p f).issuer = s.issuer := rfl
@[simp] theorem State.modTask_issueNo (s : State) (n p : Nat) (f : Task → Task) : (s.modTask n p f).issueNo = s.issueNo := rfl
@[simp] theorem State.modTask_free (s : State) (n p : Nat) (f : Task → Task) : (s.modTask n p f).free = s.free := rfl
@[simp] theorem State.modThread_part (s : State) (r : ThreadRef) (f : Thread → Thread) : (s.modThread r f).part = s.part := rfl
@[simp] theorem State.modThread_mem (s : State) (r : ThreadRef) (f : Thread → Thread) : (s.modThread r f).mem = s.mem := rfl
@[simp] theorem State.modThread_mpois (s : State) (r : ThreadRef) (f : Thread → Thread) : (s.modThread r f).mpois = s.mpois := rfl
@[simp] theorem State.modThread_hostBias (s : State) (r : ThreadRef) (f : Thread → Thread) : (s.modThread r f).hostBias = s.hostBias := rfl
@[simp] theorem State.modThread_flips (s : State) (r : ThreadRef) (f : Thread → Thread) : (s.modThread r f).flips = s.flips := rfl
@[simp] theorem State.modThread_hostWaits (s : State) (r : ThreadRef) (f : Thread → Thread) : (s.modThread r f).hostWaits = s.hostWaits := rfl
@[simp] theorem State.modThread_devWaits (s : State) (r : ThreadRef) (f : Thread → Thread) : (s.modThread r f).devWaits = s.devWaits := rfl
@[simp] theorem State.modThread_pslots (s : State) (r : ThreadRef) (f : Thread → Thread) : (s.modThread r f).pslots = s.pslots := rfl
@[simp] theorem State.modThread_pslotBusy (s : State) (r : ThreadRef) (f : Thread → Thread) : (s.modThread r f).pslotBusy = s.pslotBusy := rfl
@[simp] theorem State.modThread_marked (s : State) (r : ThreadRef) (f : Thread → Thread) : (s.modThread r f).marked = s.marked := rfl
@[simp] theorem State.modThread_evicting (s : State) (r : ThreadRef) (f : Thread → Thread) : (s.modThread r f).evicting = s.evicting := rfl
@[simp] theorem State.modThread_keys (s : State) (r : ThreadRef) (f : Thread → Thread) : (s.modThread r f).keys = s.keys := rfl
@[simp] theorem State.modThread_lineKeys (s : State) (r : ThreadRef) (f : Thread → Thread) : (s.modThread r f).lineKeys = s.lineKeys := rfl
@[simp] theorem State.modThread_ctxTable (s : State) (r : ThreadRef) (f : Thread → Thread) : (s.modThread r f).ctxTable = s.ctxTable := rfl
@[simp] theorem State.modThread_queueTable (s : State) (r : ThreadRef) (f : Thread → Thread) : (s.modThread r f).queueTable = s.queueTable := rfl
@[simp] theorem State.modThread_launches (s : State) (r : ThreadRef) (f : Thread → Thread) : (s.modThread r f).launches = s.launches := rfl
@[simp] theorem State.modThread_launchNo (s : State) (r : ThreadRef) (f : Thread → Thread) : (s.modThread r f).launchNo = s.launchNo := rfl
@[simp] theorem State.modThread_preempt (s : State) (r : ThreadRef) (f : Thread → Thread) : (s.modThread r f).preempt = s.preempt := rfl
@[simp] theorem State.modThread_dests (s : State) (r : ThreadRef) (f : Thread → Thread) : (s.modThread r f).dests = s.dests := rfl
@[simp] theorem State.modThread_plan (s : State) (r : ThreadRef) (f : Thread → Thread) : (s.modThread r f).plan = s.plan := rfl
@[simp] theorem State.modThread_staged (s : State) (r : ThreadRef) (f : Thread → Thread) : (s.modThread r f).staged = s.staged := rfl
@[simp] theorem State.modThread_planErr (s : State) (r : ThreadRef) (f : Thread → Thread) : (s.modThread r f).planErr = s.planErr := rfl
@[simp] theorem State.modThread_planSeq (s : State) (r : ThreadRef) (f : Thread → Thread) : (s.modThread r f).planSeq = s.planSeq := rfl
@[simp] theorem State.modThread_planNunr (s : State) (r : ThreadRef) (f : Thread → Thread) : (s.modThread r f).planNunr = s.planNunr := rfl
@[simp] theorem State.modThread_commit (s : State) (r : ThreadRef) (f : Thread → Thread) : (s.modThread r f).commit = s.commit := rfl
@[simp] theorem State.modThread_lockedIn (s : State) (r : ThreadRef) (f : Thread → Thread) : (s.modThread r f).lockedIn = s.lockedIn := rfl
@[simp] theorem State.modThread_lockedOut (s : State) (r : ThreadRef) (f : Thread → Thread) : (s.modThread r f).lockedOut = s.lockedOut := rfl
@[simp] theorem State.modThread_reqs (s : State) (r : ThreadRef) (f : Thread → Thread) : (s.modThread r f).reqs = s.reqs := rfl
@[simp] theorem State.modThread_reqNo (s : State) (r : ThreadRef) (f : Thread → Thread) : (s.modThread r f).reqNo = s.reqNo := rfl
@[simp] theorem State.modThread_barPeers (s : State) (r : ThreadRef) (f : Thread → Thread) : (s.modThread r f).barPeers = s.barPeers := rfl
@[simp] theorem State.modThread_peerSubs (s : State) (r : ThreadRef) (f : Thread → Thread) : (s.modThread r f).peerSubs = s.peerSubs := rfl
@[simp] theorem State.modThread_seqs (s : State) (r : ThreadRef) (f : Thread → Thread) : (s.modThread r f).seqs = s.seqs := rfl
@[simp] theorem State.modThread_colls (s : State) (r : ThreadRef) (f : Thread → Thread) : (s.modThread r f).colls = s.colls := rfl
@[simp] theorem State.modThread_tlb (s : State) (r : ThreadRef) (f : Thread → Thread) : (s.modThread r f).tlb = s.tlb := rfl
@[simp] theorem State.modThread_shoots (s : State) (r : ThreadRef) (f : Thread → Thread) : (s.modThread r f).shoots = s.shoots := rfl
@[simp] theorem State.modThread_regs (s : State) (r : ThreadRef) (f : Thread → Thread) : (s.modThread r f).regs = s.regs := rfl
@[simp] theorem State.modThread_health (s : State) (r : ThreadRef) (f : Thread → Thread) : (s.modThread r f).health = s.health := rfl
@[simp] theorem State.modThread_record (s : State) (r : ThreadRef) (f : Thread → Thread) : (s.modThread r f).record = s.record := rfl
@[simp] theorem State.modThread_thresholds (s : State) (r : ThreadRef) (f : Thread → Thread) : (s.modThread r f).thresholds = s.thresholds := rfl
@[simp] theorem State.modThread_count (s : State) (r : ThreadRef) (f : Thread → Thread) : (s.modThread r f).count = s.count := rfl
@[simp] theorem State.modThread_stage (s : State) (r : ThreadRef) (f : Thread → Thread) : (s.modThread r f).stage = s.stage := rfl
@[simp] theorem State.modThread_failCode (s : State) (r : ThreadRef) (f : Thread → Thread) : (s.modThread r f).failCode = s.failCode := rfl
@[simp] theorem State.modThread_therm (s : State) (r : ThreadRef) (f : Thread → Thread) : (s.modThread r f).therm = s.therm := rfl
@[simp] theorem State.modThread_cycle (s : State) (r : ThreadRef) (f : Thread → Thread) : (s.modThread r f).cycle = s.cycle := rfl
@[simp] theorem State.modThread_mhz (s : State) (r : ThreadRef) (f : Thread → Thread) : (s.modThread r f).mhz = s.mhz := rfl
@[simp] theorem State.modThread_mhzChanged (s : State) (r : ThreadRef) (f : Thread → Thread) : (s.modThread r f).mhzChanged = s.mhzChanged := rfl
@[simp] theorem State.modThread_tick (s : State) (r : ThreadRef) (f : Thread → Thread) : (s.modThread r f).tick = s.tick := rfl
@[simp] theorem State.modThread_cntLost (s : State) (r : ThreadRef) (f : Thread → Thread) : (s.modThread r f).cntLost = s.cntLost := rfl
@[simp] theorem State.modThread_rails (s : State) (r : ThreadRef) (f : Thread → Thread) : (s.modThread r f).rails = s.rails := rfl
@[simp] theorem State.modThread_tap (s : State) (r : ThreadRef) (f : Thread → Thread) : (s.modThread r f).tap = s.tap := rfl
@[simp] theorem State.modThread_extest (s : State) (r : ThreadRef) (f : Thread → Thread) : (s.modThread r f).extest = s.extest := rfl
@[simp] theorem State.modThread_firmware (s : State) (r : ThreadRef) (f : Thread → Thread) : (s.modThread r f).firmware = s.firmware := rfl
@[simp] theorem State.modThread_firmwareOk (s : State) (r : ThreadRef) (f : Thread → Thread) : (s.modThread r f).firmwareOk = s.firmwareOk := rfl
@[simp] theorem State.modThread_booted (s : State) (r : ThreadRef) (f : Thread → Thread) : (s.modThread r f).booted = s.booted := rfl
@[simp] theorem State.modThread_resetNo (s : State) (r : ThreadRef) (f : Thread → Thread) : (s.modThread r f).resetNo = s.resetNo := rfl
@[simp] theorem State.modThread_image (s : State) (r : ThreadRef) (f : Thread → Thread) : (s.modThread r f).image = s.image := rfl
@[simp] theorem State.modThread_records (s : State) (r : ThreadRef) (f : Thread → Thread) : (s.modThread r f).records = s.records := rfl
@[simp] theorem State.modThread_hdmBase (s : State) (r : ThreadRef) (f : Thread → Thread) : (s.modThread r f).hdmBase = s.hdmBase := rfl
@[simp] theorem State.modThread_outbox (s : State) (r : ThreadRef) (f : Thread → Thread) : (s.modThread r f).outbox = s.outbox := rfl
@[simp] theorem State.modThread_touched (s : State) (r : ThreadRef) (f : Thread → Thread) : (s.modThread r f).touched = s.touched := rfl
@[simp] theorem State.modThread_agenda (s : State) (r : ThreadRef) (f : Thread → Thread) : (s.modThread r f).agenda = s.agenda := rfl
@[simp] theorem State.modThread_issuer (s : State) (r : ThreadRef) (f : Thread → Thread) : (s.modThread r f).issuer = s.issuer := rfl
@[simp] theorem State.modThread_issueNo (s : State) (r : ThreadRef) (f : Thread → Thread) : (s.modThread r f).issueNo = s.issueNo := rfl
@[simp] theorem State.modThread_free (s : State) (r : ThreadRef) (f : Thread → Thread) : (s.modThread r f).free = s.free := rfl
@[simp] theorem State.send_part (s : State) (m : OutMsg) : (s.send m).part = s.part := rfl
@[simp] theorem State.send_cores (s : State) (m : OutMsg) : (s.send m).cores = s.cores := rfl
@[simp] theorem State.send_mem (s : State) (m : OutMsg) : (s.send m).mem = s.mem := rfl
@[simp] theorem State.send_mpois (s : State) (m : OutMsg) : (s.send m).mpois = s.mpois := rfl
@[simp] theorem State.send_hostBias (s : State) (m : OutMsg) : (s.send m).hostBias = s.hostBias := rfl
@[simp] theorem State.send_flips (s : State) (m : OutMsg) : (s.send m).flips = s.flips := rfl
@[simp] theorem State.send_hostWaits (s : State) (m : OutMsg) : (s.send m).hostWaits = s.hostWaits := rfl
@[simp] theorem State.send_devWaits (s : State) (m : OutMsg) : (s.send m).devWaits = s.devWaits := rfl
@[simp] theorem State.send_pslots (s : State) (m : OutMsg) : (s.send m).pslots = s.pslots := rfl
@[simp] theorem State.send_pslotBusy (s : State) (m : OutMsg) : (s.send m).pslotBusy = s.pslotBusy := rfl
@[simp] theorem State.send_marked (s : State) (m : OutMsg) : (s.send m).marked = s.marked := rfl
@[simp] theorem State.send_evicting (s : State) (m : OutMsg) : (s.send m).evicting = s.evicting := rfl
@[simp] theorem State.send_keys (s : State) (m : OutMsg) : (s.send m).keys = s.keys := rfl
@[simp] theorem State.send_lineKeys (s : State) (m : OutMsg) : (s.send m).lineKeys = s.lineKeys := rfl
@[simp] theorem State.send_ctxTable (s : State) (m : OutMsg) : (s.send m).ctxTable = s.ctxTable := rfl
@[simp] theorem State.send_queueTable (s : State) (m : OutMsg) : (s.send m).queueTable = s.queueTable := rfl
@[simp] theorem State.send_launches (s : State) (m : OutMsg) : (s.send m).launches = s.launches := rfl
@[simp] theorem State.send_launchNo (s : State) (m : OutMsg) : (s.send m).launchNo = s.launchNo := rfl
@[simp] theorem State.send_preempt (s : State) (m : OutMsg) : (s.send m).preempt = s.preempt := rfl
@[simp] theorem State.send_dests (s : State) (m : OutMsg) : (s.send m).dests = s.dests := rfl
@[simp] theorem State.send_plan (s : State) (m : OutMsg) : (s.send m).plan = s.plan := rfl
@[simp] theorem State.send_staged (s : State) (m : OutMsg) : (s.send m).staged = s.staged := rfl
@[simp] theorem State.send_planErr (s : State) (m : OutMsg) : (s.send m).planErr = s.planErr := rfl
@[simp] theorem State.send_planSeq (s : State) (m : OutMsg) : (s.send m).planSeq = s.planSeq := rfl
@[simp] theorem State.send_planNunr (s : State) (m : OutMsg) : (s.send m).planNunr = s.planNunr := rfl
@[simp] theorem State.send_commit (s : State) (m : OutMsg) : (s.send m).commit = s.commit := rfl
@[simp] theorem State.send_lockedIn (s : State) (m : OutMsg) : (s.send m).lockedIn = s.lockedIn := rfl
@[simp] theorem State.send_lockedOut (s : State) (m : OutMsg) : (s.send m).lockedOut = s.lockedOut := rfl
@[simp] theorem State.send_reqs (s : State) (m : OutMsg) : (s.send m).reqs = s.reqs := rfl
@[simp] theorem State.send_reqNo (s : State) (m : OutMsg) : (s.send m).reqNo = s.reqNo := rfl
@[simp] theorem State.send_barPeers (s : State) (m : OutMsg) : (s.send m).barPeers = s.barPeers := rfl
@[simp] theorem State.send_peerSubs (s : State) (m : OutMsg) : (s.send m).peerSubs = s.peerSubs := rfl
@[simp] theorem State.send_seqs (s : State) (m : OutMsg) : (s.send m).seqs = s.seqs := rfl
@[simp] theorem State.send_colls (s : State) (m : OutMsg) : (s.send m).colls = s.colls := rfl
@[simp] theorem State.send_tlb (s : State) (m : OutMsg) : (s.send m).tlb = s.tlb := rfl
@[simp] theorem State.send_shoots (s : State) (m : OutMsg) : (s.send m).shoots = s.shoots := rfl
@[simp] theorem State.send_regs (s : State) (m : OutMsg) : (s.send m).regs = s.regs := rfl
@[simp] theorem State.send_health (s : State) (m : OutMsg) : (s.send m).health = s.health := rfl
@[simp] theorem State.send_record (s : State) (m : OutMsg) : (s.send m).record = s.record := rfl
@[simp] theorem State.send_thresholds (s : State) (m : OutMsg) : (s.send m).thresholds = s.thresholds := rfl
@[simp] theorem State.send_count (s : State) (m : OutMsg) : (s.send m).count = s.count := rfl
@[simp] theorem State.send_stage (s : State) (m : OutMsg) : (s.send m).stage = s.stage := rfl
@[simp] theorem State.send_failCode (s : State) (m : OutMsg) : (s.send m).failCode = s.failCode := rfl
@[simp] theorem State.send_therm (s : State) (m : OutMsg) : (s.send m).therm = s.therm := rfl
@[simp] theorem State.send_cycle (s : State) (m : OutMsg) : (s.send m).cycle = s.cycle := rfl
@[simp] theorem State.send_mhz (s : State) (m : OutMsg) : (s.send m).mhz = s.mhz := rfl
@[simp] theorem State.send_mhzChanged (s : State) (m : OutMsg) : (s.send m).mhzChanged = s.mhzChanged := rfl
@[simp] theorem State.send_tick (s : State) (m : OutMsg) : (s.send m).tick = s.tick := rfl
@[simp] theorem State.send_cntLost (s : State) (m : OutMsg) : (s.send m).cntLost = s.cntLost := rfl
@[simp] theorem State.send_rails (s : State) (m : OutMsg) : (s.send m).rails = s.rails := rfl
@[simp] theorem State.send_tap (s : State) (m : OutMsg) : (s.send m).tap = s.tap := rfl
@[simp] theorem State.send_extest (s : State) (m : OutMsg) : (s.send m).extest = s.extest := rfl
@[simp] theorem State.send_firmware (s : State) (m : OutMsg) : (s.send m).firmware = s.firmware := rfl
@[simp] theorem State.send_firmwareOk (s : State) (m : OutMsg) : (s.send m).firmwareOk = s.firmwareOk := rfl
@[simp] theorem State.send_booted (s : State) (m : OutMsg) : (s.send m).booted = s.booted := rfl
@[simp] theorem State.send_resetNo (s : State) (m : OutMsg) : (s.send m).resetNo = s.resetNo := rfl
@[simp] theorem State.send_image (s : State) (m : OutMsg) : (s.send m).image = s.image := rfl
@[simp] theorem State.send_records (s : State) (m : OutMsg) : (s.send m).records = s.records := rfl
@[simp] theorem State.send_hdmBase (s : State) (m : OutMsg) : (s.send m).hdmBase = s.hdmBase := rfl
@[simp] theorem State.send_touched (s : State) (m : OutMsg) : (s.send m).touched = s.touched := rfl
@[simp] theorem State.send_agenda (s : State) (m : OutMsg) : (s.send m).agenda = s.agenda := rfl
@[simp] theorem State.send_issuer (s : State) (m : OutMsg) : (s.send m).issuer = s.issuer := rfl
@[simp] theorem State.send_issueNo (s : State) (m : OutMsg) : (s.send m).issueNo = s.issueNo := rfl
@[simp] theorem State.send_free (s : State) (m : OutMsg) : (s.send m).free = s.free := rfl
@[simp] theorem State.modDest_part (s : State) (d : Nat) (f : Dest → Dest) : (s.modDest d f).part = s.part := rfl
@[simp] theorem State.modDest_cores (s : State) (d : Nat) (f : Dest → Dest) : (s.modDest d f).cores = s.cores := rfl
@[simp] theorem State.modDest_mem (s : State) (d : Nat) (f : Dest → Dest) : (s.modDest d f).mem = s.mem := rfl
@[simp] theorem State.modDest_mpois (s : State) (d : Nat) (f : Dest → Dest) : (s.modDest d f).mpois = s.mpois := rfl
@[simp] theorem State.modDest_hostBias (s : State) (d : Nat) (f : Dest → Dest) : (s.modDest d f).hostBias = s.hostBias := rfl
@[simp] theorem State.modDest_flips (s : State) (d : Nat) (f : Dest → Dest) : (s.modDest d f).flips = s.flips := rfl
@[simp] theorem State.modDest_hostWaits (s : State) (d : Nat) (f : Dest → Dest) : (s.modDest d f).hostWaits = s.hostWaits := rfl
@[simp] theorem State.modDest_devWaits (s : State) (d : Nat) (f : Dest → Dest) : (s.modDest d f).devWaits = s.devWaits := rfl
@[simp] theorem State.modDest_pslots (s : State) (d : Nat) (f : Dest → Dest) : (s.modDest d f).pslots = s.pslots := rfl
@[simp] theorem State.modDest_pslotBusy (s : State) (d : Nat) (f : Dest → Dest) : (s.modDest d f).pslotBusy = s.pslotBusy := rfl
@[simp] theorem State.modDest_marked (s : State) (d : Nat) (f : Dest → Dest) : (s.modDest d f).marked = s.marked := rfl
@[simp] theorem State.modDest_evicting (s : State) (d : Nat) (f : Dest → Dest) : (s.modDest d f).evicting = s.evicting := rfl
@[simp] theorem State.modDest_keys (s : State) (d : Nat) (f : Dest → Dest) : (s.modDest d f).keys = s.keys := rfl
@[simp] theorem State.modDest_lineKeys (s : State) (d : Nat) (f : Dest → Dest) : (s.modDest d f).lineKeys = s.lineKeys := rfl
@[simp] theorem State.modDest_ctxTable (s : State) (d : Nat) (f : Dest → Dest) : (s.modDest d f).ctxTable = s.ctxTable := rfl
@[simp] theorem State.modDest_queueTable (s : State) (d : Nat) (f : Dest → Dest) : (s.modDest d f).queueTable = s.queueTable := rfl
@[simp] theorem State.modDest_launches (s : State) (d : Nat) (f : Dest → Dest) : (s.modDest d f).launches = s.launches := rfl
@[simp] theorem State.modDest_launchNo (s : State) (d : Nat) (f : Dest → Dest) : (s.modDest d f).launchNo = s.launchNo := rfl
@[simp] theorem State.modDest_preempt (s : State) (d : Nat) (f : Dest → Dest) : (s.modDest d f).preempt = s.preempt := rfl
@[simp] theorem State.modDest_plan (s : State) (d : Nat) (f : Dest → Dest) : (s.modDest d f).plan = s.plan := rfl
@[simp] theorem State.modDest_staged (s : State) (d : Nat) (f : Dest → Dest) : (s.modDest d f).staged = s.staged := rfl
@[simp] theorem State.modDest_planErr (s : State) (d : Nat) (f : Dest → Dest) : (s.modDest d f).planErr = s.planErr := rfl
@[simp] theorem State.modDest_planSeq (s : State) (d : Nat) (f : Dest → Dest) : (s.modDest d f).planSeq = s.planSeq := rfl
@[simp] theorem State.modDest_planNunr (s : State) (d : Nat) (f : Dest → Dest) : (s.modDest d f).planNunr = s.planNunr := rfl
@[simp] theorem State.modDest_commit (s : State) (d : Nat) (f : Dest → Dest) : (s.modDest d f).commit = s.commit := rfl
@[simp] theorem State.modDest_lockedIn (s : State) (d : Nat) (f : Dest → Dest) : (s.modDest d f).lockedIn = s.lockedIn := rfl
@[simp] theorem State.modDest_lockedOut (s : State) (d : Nat) (f : Dest → Dest) : (s.modDest d f).lockedOut = s.lockedOut := rfl
@[simp] theorem State.modDest_reqs (s : State) (d : Nat) (f : Dest → Dest) : (s.modDest d f).reqs = s.reqs := rfl
@[simp] theorem State.modDest_reqNo (s : State) (d : Nat) (f : Dest → Dest) : (s.modDest d f).reqNo = s.reqNo := rfl
@[simp] theorem State.modDest_barPeers (s : State) (d : Nat) (f : Dest → Dest) : (s.modDest d f).barPeers = s.barPeers := rfl
@[simp] theorem State.modDest_peerSubs (s : State) (d : Nat) (f : Dest → Dest) : (s.modDest d f).peerSubs = s.peerSubs := rfl
@[simp] theorem State.modDest_seqs (s : State) (d : Nat) (f : Dest → Dest) : (s.modDest d f).seqs = s.seqs := rfl
@[simp] theorem State.modDest_colls (s : State) (d : Nat) (f : Dest → Dest) : (s.modDest d f).colls = s.colls := rfl
@[simp] theorem State.modDest_tlb (s : State) (d : Nat) (f : Dest → Dest) : (s.modDest d f).tlb = s.tlb := rfl
@[simp] theorem State.modDest_shoots (s : State) (d : Nat) (f : Dest → Dest) : (s.modDest d f).shoots = s.shoots := rfl
@[simp] theorem State.modDest_regs (s : State) (d : Nat) (f : Dest → Dest) : (s.modDest d f).regs = s.regs := rfl
@[simp] theorem State.modDest_health (s : State) (d : Nat) (f : Dest → Dest) : (s.modDest d f).health = s.health := rfl
@[simp] theorem State.modDest_record (s : State) (d : Nat) (f : Dest → Dest) : (s.modDest d f).record = s.record := rfl
@[simp] theorem State.modDest_thresholds (s : State) (d : Nat) (f : Dest → Dest) : (s.modDest d f).thresholds = s.thresholds := rfl
@[simp] theorem State.modDest_count (s : State) (d : Nat) (f : Dest → Dest) : (s.modDest d f).count = s.count := rfl
@[simp] theorem State.modDest_stage (s : State) (d : Nat) (f : Dest → Dest) : (s.modDest d f).stage = s.stage := rfl
@[simp] theorem State.modDest_failCode (s : State) (d : Nat) (f : Dest → Dest) : (s.modDest d f).failCode = s.failCode := rfl
@[simp] theorem State.modDest_therm (s : State) (d : Nat) (f : Dest → Dest) : (s.modDest d f).therm = s.therm := rfl
@[simp] theorem State.modDest_cycle (s : State) (d : Nat) (f : Dest → Dest) : (s.modDest d f).cycle = s.cycle := rfl
@[simp] theorem State.modDest_mhz (s : State) (d : Nat) (f : Dest → Dest) : (s.modDest d f).mhz = s.mhz := rfl
@[simp] theorem State.modDest_mhzChanged (s : State) (d : Nat) (f : Dest → Dest) : (s.modDest d f).mhzChanged = s.mhzChanged := rfl
@[simp] theorem State.modDest_tick (s : State) (d : Nat) (f : Dest → Dest) : (s.modDest d f).tick = s.tick := rfl
@[simp] theorem State.modDest_cntLost (s : State) (d : Nat) (f : Dest → Dest) : (s.modDest d f).cntLost = s.cntLost := rfl
@[simp] theorem State.modDest_rails (s : State) (d : Nat) (f : Dest → Dest) : (s.modDest d f).rails = s.rails := rfl
@[simp] theorem State.modDest_tap (s : State) (d : Nat) (f : Dest → Dest) : (s.modDest d f).tap = s.tap := rfl
@[simp] theorem State.modDest_extest (s : State) (d : Nat) (f : Dest → Dest) : (s.modDest d f).extest = s.extest := rfl
@[simp] theorem State.modDest_firmware (s : State) (d : Nat) (f : Dest → Dest) : (s.modDest d f).firmware = s.firmware := rfl
@[simp] theorem State.modDest_firmwareOk (s : State) (d : Nat) (f : Dest → Dest) : (s.modDest d f).firmwareOk = s.firmwareOk := rfl
@[simp] theorem State.modDest_booted (s : State) (d : Nat) (f : Dest → Dest) : (s.modDest d f).booted = s.booted := rfl
@[simp] theorem State.modDest_resetNo (s : State) (d : Nat) (f : Dest → Dest) : (s.modDest d f).resetNo = s.resetNo := rfl
@[simp] theorem State.modDest_image (s : State) (d : Nat) (f : Dest → Dest) : (s.modDest d f).image = s.image := rfl
@[simp] theorem State.modDest_records (s : State) (d : Nat) (f : Dest → Dest) : (s.modDest d f).records = s.records := rfl
@[simp] theorem State.modDest_hdmBase (s : State) (d : Nat) (f : Dest → Dest) : (s.modDest d f).hdmBase = s.hdmBase := rfl
@[simp] theorem State.modDest_outbox (s : State) (d : Nat) (f : Dest → Dest) : (s.modDest d f).outbox = s.outbox := rfl
@[simp] theorem State.modDest_touched (s : State) (d : Nat) (f : Dest → Dest) : (s.modDest d f).touched = s.touched := rfl
@[simp] theorem State.modDest_agenda (s : State) (d : Nat) (f : Dest → Dest) : (s.modDest d f).agenda = s.agenda := rfl
@[simp] theorem State.modDest_issuer (s : State) (d : Nat) (f : Dest → Dest) : (s.modDest d f).issuer = s.issuer := rfl
@[simp] theorem State.modDest_issueNo (s : State) (d : Nat) (f : Dest → Dest) : (s.modDest d f).issueNo = s.issueNo := rfl
@[simp] theorem State.modDest_free (s : State) (d : Nat) (f : Dest → Dest) : (s.modDest d f).free = s.free := rfl
@[simp] theorem State.modLaunch_part (s : State) (k : Nat) (f : Launch → Launch) : (s.modLaunch k f).part = s.part := rfl
@[simp] theorem State.modLaunch_cores (s : State) (k : Nat) (f : Launch → Launch) : (s.modLaunch k f).cores = s.cores := rfl
@[simp] theorem State.modLaunch_mem (s : State) (k : Nat) (f : Launch → Launch) : (s.modLaunch k f).mem = s.mem := rfl
@[simp] theorem State.modLaunch_mpois (s : State) (k : Nat) (f : Launch → Launch) : (s.modLaunch k f).mpois = s.mpois := rfl
@[simp] theorem State.modLaunch_hostBias (s : State) (k : Nat) (f : Launch → Launch) : (s.modLaunch k f).hostBias = s.hostBias := rfl
@[simp] theorem State.modLaunch_flips (s : State) (k : Nat) (f : Launch → Launch) : (s.modLaunch k f).flips = s.flips := rfl
@[simp] theorem State.modLaunch_hostWaits (s : State) (k : Nat) (f : Launch → Launch) : (s.modLaunch k f).hostWaits = s.hostWaits := rfl
@[simp] theorem State.modLaunch_devWaits (s : State) (k : Nat) (f : Launch → Launch) : (s.modLaunch k f).devWaits = s.devWaits := rfl
@[simp] theorem State.modLaunch_pslots (s : State) (k : Nat) (f : Launch → Launch) : (s.modLaunch k f).pslots = s.pslots := rfl
@[simp] theorem State.modLaunch_pslotBusy (s : State) (k : Nat) (f : Launch → Launch) : (s.modLaunch k f).pslotBusy = s.pslotBusy := rfl
@[simp] theorem State.modLaunch_marked (s : State) (k : Nat) (f : Launch → Launch) : (s.modLaunch k f).marked = s.marked := rfl
@[simp] theorem State.modLaunch_evicting (s : State) (k : Nat) (f : Launch → Launch) : (s.modLaunch k f).evicting = s.evicting := rfl
@[simp] theorem State.modLaunch_keys (s : State) (k : Nat) (f : Launch → Launch) : (s.modLaunch k f).keys = s.keys := rfl
@[simp] theorem State.modLaunch_lineKeys (s : State) (k : Nat) (f : Launch → Launch) : (s.modLaunch k f).lineKeys = s.lineKeys := rfl
@[simp] theorem State.modLaunch_ctxTable (s : State) (k : Nat) (f : Launch → Launch) : (s.modLaunch k f).ctxTable = s.ctxTable := rfl
@[simp] theorem State.modLaunch_queueTable (s : State) (k : Nat) (f : Launch → Launch) : (s.modLaunch k f).queueTable = s.queueTable := rfl
@[simp] theorem State.modLaunch_launchNo (s : State) (k : Nat) (f : Launch → Launch) : (s.modLaunch k f).launchNo = s.launchNo := rfl
@[simp] theorem State.modLaunch_preempt (s : State) (k : Nat) (f : Launch → Launch) : (s.modLaunch k f).preempt = s.preempt := rfl
@[simp] theorem State.modLaunch_dests (s : State) (k : Nat) (f : Launch → Launch) : (s.modLaunch k f).dests = s.dests := rfl
@[simp] theorem State.modLaunch_plan (s : State) (k : Nat) (f : Launch → Launch) : (s.modLaunch k f).plan = s.plan := rfl
@[simp] theorem State.modLaunch_staged (s : State) (k : Nat) (f : Launch → Launch) : (s.modLaunch k f).staged = s.staged := rfl
@[simp] theorem State.modLaunch_planErr (s : State) (k : Nat) (f : Launch → Launch) : (s.modLaunch k f).planErr = s.planErr := rfl
@[simp] theorem State.modLaunch_planSeq (s : State) (k : Nat) (f : Launch → Launch) : (s.modLaunch k f).planSeq = s.planSeq := rfl
@[simp] theorem State.modLaunch_planNunr (s : State) (k : Nat) (f : Launch → Launch) : (s.modLaunch k f).planNunr = s.planNunr := rfl
@[simp] theorem State.modLaunch_commit (s : State) (k : Nat) (f : Launch → Launch) : (s.modLaunch k f).commit = s.commit := rfl
@[simp] theorem State.modLaunch_lockedIn (s : State) (k : Nat) (f : Launch → Launch) : (s.modLaunch k f).lockedIn = s.lockedIn := rfl
@[simp] theorem State.modLaunch_lockedOut (s : State) (k : Nat) (f : Launch → Launch) : (s.modLaunch k f).lockedOut = s.lockedOut := rfl
@[simp] theorem State.modLaunch_reqs (s : State) (k : Nat) (f : Launch → Launch) : (s.modLaunch k f).reqs = s.reqs := rfl
@[simp] theorem State.modLaunch_reqNo (s : State) (k : Nat) (f : Launch → Launch) : (s.modLaunch k f).reqNo = s.reqNo := rfl
@[simp] theorem State.modLaunch_barPeers (s : State) (k : Nat) (f : Launch → Launch) : (s.modLaunch k f).barPeers = s.barPeers := rfl
@[simp] theorem State.modLaunch_peerSubs (s : State) (k : Nat) (f : Launch → Launch) : (s.modLaunch k f).peerSubs = s.peerSubs := rfl
@[simp] theorem State.modLaunch_seqs (s : State) (k : Nat) (f : Launch → Launch) : (s.modLaunch k f).seqs = s.seqs := rfl
@[simp] theorem State.modLaunch_colls (s : State) (k : Nat) (f : Launch → Launch) : (s.modLaunch k f).colls = s.colls := rfl
@[simp] theorem State.modLaunch_tlb (s : State) (k : Nat) (f : Launch → Launch) : (s.modLaunch k f).tlb = s.tlb := rfl
@[simp] theorem State.modLaunch_shoots (s : State) (k : Nat) (f : Launch → Launch) : (s.modLaunch k f).shoots = s.shoots := rfl
@[simp] theorem State.modLaunch_regs (s : State) (k : Nat) (f : Launch → Launch) : (s.modLaunch k f).regs = s.regs := rfl
@[simp] theorem State.modLaunch_health (s : State) (k : Nat) (f : Launch → Launch) : (s.modLaunch k f).health = s.health := rfl
@[simp] theorem State.modLaunch_record (s : State) (k : Nat) (f : Launch → Launch) : (s.modLaunch k f).record = s.record := rfl
@[simp] theorem State.modLaunch_thresholds (s : State) (k : Nat) (f : Launch → Launch) : (s.modLaunch k f).thresholds = s.thresholds := rfl
@[simp] theorem State.modLaunch_count (s : State) (k : Nat) (f : Launch → Launch) : (s.modLaunch k f).count = s.count := rfl
@[simp] theorem State.modLaunch_stage (s : State) (k : Nat) (f : Launch → Launch) : (s.modLaunch k f).stage = s.stage := rfl
@[simp] theorem State.modLaunch_failCode (s : State) (k : Nat) (f : Launch → Launch) : (s.modLaunch k f).failCode = s.failCode := rfl
@[simp] theorem State.modLaunch_therm (s : State) (k : Nat) (f : Launch → Launch) : (s.modLaunch k f).therm = s.therm := rfl
@[simp] theorem State.modLaunch_cycle (s : State) (k : Nat) (f : Launch → Launch) : (s.modLaunch k f).cycle = s.cycle := rfl
@[simp] theorem State.modLaunch_mhz (s : State) (k : Nat) (f : Launch → Launch) : (s.modLaunch k f).mhz = s.mhz := rfl
@[simp] theorem State.modLaunch_mhzChanged (s : State) (k : Nat) (f : Launch → Launch) : (s.modLaunch k f).mhzChanged = s.mhzChanged := rfl
@[simp] theorem State.modLaunch_tick (s : State) (k : Nat) (f : Launch → Launch) : (s.modLaunch k f).tick = s.tick := rfl
@[simp] theorem State.modLaunch_cntLost (s : State) (k : Nat) (f : Launch → Launch) : (s.modLaunch k f).cntLost = s.cntLost := rfl
@[simp] theorem State.modLaunch_rails (s : State) (k : Nat) (f : Launch → Launch) : (s.modLaunch k f).rails = s.rails := rfl
@[simp] theorem State.modLaunch_tap (s : State) (k : Nat) (f : Launch → Launch) : (s.modLaunch k f).tap = s.tap := rfl
@[simp] theorem State.modLaunch_extest (s : State) (k : Nat) (f : Launch → Launch) : (s.modLaunch k f).extest = s.extest := rfl
@[simp] theorem State.modLaunch_firmware (s : State) (k : Nat) (f : Launch → Launch) : (s.modLaunch k f).firmware = s.firmware := rfl
@[simp] theorem State.modLaunch_firmwareOk (s : State) (k : Nat) (f : Launch → Launch) : (s.modLaunch k f).firmwareOk = s.firmwareOk := rfl
@[simp] theorem State.modLaunch_booted (s : State) (k : Nat) (f : Launch → Launch) : (s.modLaunch k f).booted = s.booted := rfl
@[simp] theorem State.modLaunch_resetNo (s : State) (k : Nat) (f : Launch → Launch) : (s.modLaunch k f).resetNo = s.resetNo := rfl
@[simp] theorem State.modLaunch_image (s : State) (k : Nat) (f : Launch → Launch) : (s.modLaunch k f).image = s.image := rfl
@[simp] theorem State.modLaunch_records (s : State) (k : Nat) (f : Launch → Launch) : (s.modLaunch k f).records = s.records := rfl
@[simp] theorem State.modLaunch_hdmBase (s : State) (k : Nat) (f : Launch → Launch) : (s.modLaunch k f).hdmBase = s.hdmBase := rfl
@[simp] theorem State.modLaunch_outbox (s : State) (k : Nat) (f : Launch → Launch) : (s.modLaunch k f).outbox = s.outbox := rfl
@[simp] theorem State.modLaunch_touched (s : State) (k : Nat) (f : Launch → Launch) : (s.modLaunch k f).touched = s.touched := rfl
@[simp] theorem State.modLaunch_agenda (s : State) (k : Nat) (f : Launch → Launch) : (s.modLaunch k f).agenda = s.agenda := rfl
@[simp] theorem State.modLaunch_issuer (s : State) (k : Nat) (f : Launch → Launch) : (s.modLaunch k f).issuer = s.issuer := rfl
@[simp] theorem State.modLaunch_issueNo (s : State) (k : Nat) (f : Launch → Launch) : (s.modLaunch k f).issueNo = s.issueNo := rfl
@[simp] theorem State.modLaunch_free (s : State) (k : Nat) (f : Launch → Launch) : (s.modLaunch k f).free = s.free := rfl

/-! ## Updates of a core -/

@[simp] theorem Core.modTask_gens (c : Core) (p : Nat) (f : Task → Task) : (c.modTask p f).gens = c.gens := rfl
@[simp] theorem Core.modTask_casters (c : Core) (p : Nat) (f : Task → Task) : (c.modTask p f).casters = c.casters := rfl
@[simp] theorem Core.modTask_asid (c : Core) (p : Nat) (f : Task → Task) : (c.modTask p f).asid = c.asid := rfl
@[simp] theorem Core.modTask_kslot (c : Core) (p : Nat) (f : Task → Task) : (c.modTask p f).kslot = c.kslot := rfl
@[simp] theorem Core.modTask_ptroot (c : Core) (p : Nat) (f : Task → Task) : (c.modTask p f).ptroot = c.ptroot := rfl
@[simp] theorem Core.modTask_forebase (c : Core) (p : Nat) (f : Task → Task) : (c.modTask p f).forebase = c.forebase := rfl
@[simp] theorem Core.modTask_window (c : Core) (p : Nat) (f : Task → Task) : (c.modTask p f).window = c.window := rfl
@[simp] theorem Core.modTask_callring (c : Core) (p : Nat) (f : Task → Task) : (c.modTask p f).callring = c.callring := rfl
@[simp] theorem Core.modTask_sigvec (c : Core) (p : Nat) (f : Task → Task) : (c.modTask p f).sigvec = c.sigvec := rfl
@[simp] theorem Core.modTask_riser (c : Core) (p : Nat) (f : Task → Task) : (c.modTask p f).riser = c.riser := rfl
@[simp] theorem Core.modTask_stalled (c : Core) (p : Nat) (f : Task → Task) : (c.modTask p f).stalled = c.stalled := rfl
@[simp] theorem Core.modTask_popped (c : Core) (p : Nat) (f : Task → Task) : (c.modTask p f).popped = c.popped := rfl
@[simp] theorem Core.modTask_copies (c : Core) (p : Nat) (f : Task → Task) : (c.modTask p f).copies = c.copies := rfl
@[simp] theorem Core.modTask_crus (c : Core) (p : Nat) (f : Task → Task) : (c.modTask p f).crus = c.crus := rfl
@[simp] theorem Core.modTask_work (c : Core) (p : Nat) (f : Task → Task) : (c.modTask p f).work = c.work := rfl
@[simp] theorem Core.modTask_subs (c : Core) (p : Nat) (f : Task → Task) : (c.modTask p f).subs = c.subs := rfl
@[simp] theorem Core.modTask_l1 (c : Core) (p : Nat) (f : Task → Task) : (c.modTask p f).l1 = c.l1 := rfl
@[simp] theorem Core.modTask_wbacks (c : Core) (p : Nat) (f : Task → Task) : (c.modTask p f).wbacks = c.wbacks := rfl
@[simp] theorem Core.modTask_hwrites (c : Core) (p : Nat) (f : Task → Task) : (c.modTask p f).hwrites = c.hwrites := rfl
@[simp] theorem Core.modTask_icache (c : Core) (p : Nat) (f : Task → Task) : (c.modTask p f).icache = c.icache := rfl
@[simp] theorem Core.modTask_bays (c : Core) (p : Nat) (f : Task → Task) : (c.modTask p f).bays = c.bays := rfl
@[simp] theorem Core.modTask_service (c : Core) (p : Nat) (f : Task → Task) : (c.modTask p f).service = c.service := rfl
@[simp] theorem Core.modTask_calls (c : Core) (p : Nat) (f : Task → Task) : (c.modTask p f).calls = c.calls := rfl
@[simp] theorem Core.modTask_unposted (c : Core) (p : Nat) (f : Task → Task) : (c.modTask p f).unposted = c.unposted := rfl
@[simp] theorem Core.modTask_callNo (c : Core) (p : Nat) (f : Task → Task) : (c.modTask p f).callNo = c.callNo := rfl
@[simp] theorem Core.modTask_sigReq (c : Core) (p : Nat) (f : Task → Task) : (c.modTask p f).sigReq = c.sigReq := rfl
@[simp] theorem Core.modTask_reqs (c : Core) (p : Nat) (f : Task → Task) : (c.modTask p f).reqs = c.reqs := rfl
@[simp] theorem Core.modTask_startNo (c : Core) (p : Nat) (f : Task → Task) : (c.modTask p f).startNo = c.startNo := rfl
@[simp] theorem Core.modTask_mcheck (c : Core) (p : Nat) (f : Task → Task) : (c.modTask p f).mcheck = c.mcheck := rfl
@[simp] theorem Core.modTask_insts (c : Core) (p : Nat) (f : Task → Task) : (c.modTask p f).insts = c.insts := rfl
@[simp] theorem Core.modTask_rr (c : Core) (p : Nat) (f : Task → Task) : (c.modTask p f).rr = c.rr := rfl
@[simp] theorem Core.modTask_health (c : Core) (p : Nat) (f : Task → Task) : (c.modTask p f).health = c.health := rfl
@[simp] theorem Core.modTask_count (c : Core) (p : Nat) (f : Task → Task) : (c.modTask p f).count = c.count := rfl
@[simp] theorem Core.modCaster_tasks (c : Core) (n : Nat) (f : Caster → Caster) : (c.modCaster n f).tasks = c.tasks := rfl
@[simp] theorem Core.modCaster_gens (c : Core) (n : Nat) (f : Caster → Caster) : (c.modCaster n f).gens = c.gens := rfl
@[simp] theorem Core.modCaster_asid (c : Core) (n : Nat) (f : Caster → Caster) : (c.modCaster n f).asid = c.asid := rfl
@[simp] theorem Core.modCaster_kslot (c : Core) (n : Nat) (f : Caster → Caster) : (c.modCaster n f).kslot = c.kslot := rfl
@[simp] theorem Core.modCaster_ptroot (c : Core) (n : Nat) (f : Caster → Caster) : (c.modCaster n f).ptroot = c.ptroot := rfl
@[simp] theorem Core.modCaster_forebase (c : Core) (n : Nat) (f : Caster → Caster) : (c.modCaster n f).forebase = c.forebase := rfl
@[simp] theorem Core.modCaster_window (c : Core) (n : Nat) (f : Caster → Caster) : (c.modCaster n f).window = c.window := rfl
@[simp] theorem Core.modCaster_callring (c : Core) (n : Nat) (f : Caster → Caster) : (c.modCaster n f).callring = c.callring := rfl
@[simp] theorem Core.modCaster_sigvec (c : Core) (n : Nat) (f : Caster → Caster) : (c.modCaster n f).sigvec = c.sigvec := rfl
@[simp] theorem Core.modCaster_riser (c : Core) (n : Nat) (f : Caster → Caster) : (c.modCaster n f).riser = c.riser := rfl
@[simp] theorem Core.modCaster_stalled (c : Core) (n : Nat) (f : Caster → Caster) : (c.modCaster n f).stalled = c.stalled := rfl
@[simp] theorem Core.modCaster_popped (c : Core) (n : Nat) (f : Caster → Caster) : (c.modCaster n f).popped = c.popped := rfl
@[simp] theorem Core.modCaster_copies (c : Core) (n : Nat) (f : Caster → Caster) : (c.modCaster n f).copies = c.copies := rfl
@[simp] theorem Core.modCaster_crus (c : Core) (n : Nat) (f : Caster → Caster) : (c.modCaster n f).crus = c.crus := rfl
@[simp] theorem Core.modCaster_work (c : Core) (n : Nat) (f : Caster → Caster) : (c.modCaster n f).work = c.work := rfl
@[simp] theorem Core.modCaster_subs (c : Core) (n : Nat) (f : Caster → Caster) : (c.modCaster n f).subs = c.subs := rfl
@[simp] theorem Core.modCaster_l1 (c : Core) (n : Nat) (f : Caster → Caster) : (c.modCaster n f).l1 = c.l1 := rfl
@[simp] theorem Core.modCaster_wbacks (c : Core) (n : Nat) (f : Caster → Caster) : (c.modCaster n f).wbacks = c.wbacks := rfl
@[simp] theorem Core.modCaster_hwrites (c : Core) (n : Nat) (f : Caster → Caster) : (c.modCaster n f).hwrites = c.hwrites := rfl
@[simp] theorem Core.modCaster_icache (c : Core) (n : Nat) (f : Caster → Caster) : (c.modCaster n f).icache = c.icache := rfl
@[simp] theorem Core.modCaster_bays (c : Core) (n : Nat) (f : Caster → Caster) : (c.modCaster n f).bays = c.bays := rfl
@[simp] theorem Core.modCaster_service (c : Core) (n : Nat) (f : Caster → Caster) : (c.modCaster n f).service = c.service := rfl
@[simp] theorem Core.modCaster_calls (c : Core) (n : Nat) (f : Caster → Caster) : (c.modCaster n f).calls = c.calls := rfl
@[simp] theorem Core.modCaster_unposted (c : Core) (n : Nat) (f : Caster → Caster) : (c.modCaster n f).unposted = c.unposted := rfl
@[simp] theorem Core.modCaster_callNo (c : Core) (n : Nat) (f : Caster → Caster) : (c.modCaster n f).callNo = c.callNo := rfl
@[simp] theorem Core.modCaster_sigReq (c : Core) (n : Nat) (f : Caster → Caster) : (c.modCaster n f).sigReq = c.sigReq := rfl
@[simp] theorem Core.modCaster_reqs (c : Core) (n : Nat) (f : Caster → Caster) : (c.modCaster n f).reqs = c.reqs := rfl
@[simp] theorem Core.modCaster_startNo (c : Core) (n : Nat) (f : Caster → Caster) : (c.modCaster n f).startNo = c.startNo := rfl
@[simp] theorem Core.modCaster_mcheck (c : Core) (n : Nat) (f : Caster → Caster) : (c.modCaster n f).mcheck = c.mcheck := rfl
@[simp] theorem Core.modCaster_insts (c : Core) (n : Nat) (f : Caster → Caster) : (c.modCaster n f).insts = c.insts := rfl
@[simp] theorem Core.modCaster_rr (c : Core) (n : Nat) (f : Caster → Caster) : (c.modCaster n f).rr = c.rr := rfl
@[simp] theorem Core.modCaster_health (c : Core) (n : Nat) (f : Caster → Caster) : (c.modCaster n f).health = c.health := rfl
@[simp] theorem Core.modCaster_count (c : Core) (n : Nat) (f : Caster → Caster) : (c.modCaster n f).count = c.count := rfl

/-! ## Updates of a thread -/

@[simp] theorem Thread.setReg_pc (t : Thread) (r : Reg) (x : Word) (p : Bool) : (t.setReg r x p).pc = t.pc := rfl
@[simp] theorem Thread.setReg_preds (t : Thread) (r : Reg) (x : Word) (p : Bool) : (t.setReg r x p).preds = t.preds := rfl
@[simp] theorem Thread.setReg_fpctl (t : Thread) (r : Reg) (x : Word) (p : Bool) : (t.setReg r x p).fpctl = t.fpctl := rfl
@[simp] theorem Thread.setReg_state (t : Thread) (r : Reg) (x : Word) (p : Bool) : (t.setReg r x p).state = t.state := rfl
@[simp] theorem Thread.setReg_signal (t : Thread) (r : Reg) (x : Word) (p : Bool) : (t.setReg r x p).signal = t.signal := rfl
@[simp] theorem Thread.setReg_exited (t : Thread) (r : Reg) (x : Word) (p : Bool) : (t.setReg r x p).exited = t.exited := rfl
@[simp] theorem Thread.setReg_kept (t : Thread) (r : Reg) (x : Word) (p : Bool) : (t.setReg r x p).kept = t.kept := rfl
@[simp] theorem Thread.setReg_queue (t : Thread) (r : Reg) (x : Word) (p : Bool) : (t.setReg r x p).queue = t.queue := rfl
@[simp] theorem Thread.setReg_pend (t : Thread) (r : Reg) (x : Word) (p : Bool) : (t.setReg r x p).pend = t.pend := rfl
@[simp] theorem Thread.setReg_fails (t : Thread) (r : Reg) (x : Word) (p : Bool) : (t.setReg r x p).fails = t.fails := rfl
@[simp] theorem Thread.setReg_stop (t : Thread) (r : Reg) (x : Word) (p : Bool) : (t.setReg r x p).stop = t.stop := rfl
@[simp] theorem Thread.setReg_later (t : Thread) (r : Reg) (x : Word) (p : Bool) : (t.setReg r x p).later = t.later := rfl
@[simp] theorem Thread.setReg_trapping (t : Thread) (r : Reg) (x : Word) (p : Bool) : (t.setReg r x p).trapping = t.trapping := rfl
@[simp] theorem Thread.setReg_wait (t : Thread) (r : Reg) (x : Word) (p : Bool) : (t.setReg r x p).wait = t.wait := rfl
@[simp] theorem Thread.setReg_yielded (t : Thread) (r : Reg) (x : Word) (p : Bool) : (t.setReg r x p).yielded = t.yielded := rfl
@[simp] theorem Thread.setReg_woken (t : Thread) (r : Reg) (x : Word) (p : Bool) : (t.setReg r x p).woken = t.woken := rfl
@[simp] theorem Thread.setReg_reserved (t : Thread) (r : Reg) (x : Word) (p : Bool) : (t.setReg r x p).reserved = t.reserved := rfl
@[simp] theorem Thread.setReg_starting (t : Thread) (r : Reg) (x : Word) (p : Bool) : (t.setReg r x p).starting = t.starting := rfl

/-! ## Reading back an update -/

@[simp] theorem State.core?_modCore_self (s : State) (n : Nat) (f : Core → Core) :
    (s.modCore n f).core? n = (s.core? n).map f := by
  simp [State.core?, State.modCore]

theorem State.core?_modCore_ne (s : State) {n m : Nat} (f : Core → Core) (h : m ≠ n) :
    (s.modCore n f).core? m = s.core? m := by
  simp [State.core?, State.modCore, h.symm]

@[simp] theorem State.send_outbox (s : State) (m : OutMsg) : (s.send m).outbox = s.outbox ++ [m] := rfl

theorem lookup_cons {α : Type} (j : Nat) (v : α) (l : List (Nat × α)) (k : Nat) :
    lookup ((j, v) :: l) k = if j = k then some v else lookup l k := by
  by_cases h : j = k <;> simp [lookup, h]

theorem lookup_map_self {α : Type} (l : List (Nat × α)) (k : Nat) (f : α → α) :
    lookup (l.map fun p => if p.1 = k then (p.1, f p.2) else p) k = (lookup l k).map f := by
  induction l with
  | nil => rfl
  | cons p l ih =>
    obtain ⟨j, v⟩ := p
    rw [List.map_cons]
    by_cases h : j = k
    · simp only [h, if_true, lookup_cons, Option.map_some]
    · simp only [h, if_false, lookup_cons, ih]

theorem lookup_map_ne {α : Type} (l : List (Nat × α)) {j k : Nat} (f : α → α) (h : j ≠ k) :
    lookup (l.map fun p => if p.1 = k then (p.1, f p.2) else p) j = lookup l j := by
  induction l with
  | nil => rfl
  | cons p l ih =>
    obtain ⟨i, v⟩ := p
    rw [List.map_cons]
    by_cases hi : i = k
    · simp only [hi, if_true, lookup_cons, h.symm, if_false, ih]
    · simp only [hi, if_false, lookup_cons, ih]

@[simp] theorem Core.task?_modTask_self (c : Core) (p : Nat) (f : Task → Task) :
    (c.modTask p f).task? p = (c.task? p).map f := lookup_map_self c.tasks p f

theorem Core.task?_modTask_ne (c : Core) {p q : Nat} (f : Task → Task) (h : q ≠ p) :
    (c.modTask p f).task? q = c.task? q := lookup_map_ne c.tasks f h

/-- The thread an update names is its image. -/
@[simp] theorem Core.thread?_modThread_self (c : Core) (w : Who) (f : Thread → Thread) :
    (c.modThread w f).thread? w = (c.thread? w).map f := by
  cases w with
  | user p i =>
    simp only [Core.modThread, Core.thread?, Core.task?_modTask_self]
    cases c.task? p <;> simp
  | caster n => simp [Core.modThread, Core.thread?]; cases c.casters[n]? <;> rfl

/-- Every other thread is as it was. -/
theorem Core.thread?_modThread_ne (c : Core) {w v : Who} (f : Thread → Thread) (h : v ≠ w) :
    (c.modThread w f).thread? v = c.thread? v := by
  cases w with
  | user p i =>
    cases v with
    | user q j =>
      simp only [Core.modThread, Core.thread?]
      by_cases hq : q = p
      · subst hq
        have hj : ¬ i = j := fun e => h (by rw [e])
        simp only [Core.task?_modTask_self]
        cases c.task? q <;> simp [hj]
      · rw [Core.task?_modTask_ne c _ hq]
    | caster n => rfl
  | caster n =>
    cases v with
    | user q j => rfl
    | caster m =>
      have hm : ¬ n = m := fun e => h (by rw [e])
      simp [Core.modThread, Core.thread?, hm]

@[simp] theorem State.thread?_modThread_self (s : State) (r : ThreadRef) (f : Thread → Thread) :
    (s.modThread r f).thread? r = (s.thread? r).map f := by
  simp only [State.modThread, State.thread?, State.core?_modCore_self]
  cases s.core? r.core <;> simp

theorem State.thread?_modThread_ne (s : State) {r q : ThreadRef} (f : Thread → Thread) (h : q ≠ r) :
    (s.modThread r f).thread? q = s.thread? q := by
  simp only [State.modThread, State.thread?]
  by_cases hc : q.core = r.core
  · rw [hc, State.core?_modCore_self]
    have hw : q.who ≠ r.who := fun e => h (by cases q; cases r; simp_all)
    cases s.core? r.core <;> simp [Core.thread?_modThread_ne _ f hw]
  · rw [State.core?_modCore_ne s _ hc]

/-- A change of a core that leaves its threads alone leaves every thread alone. -/
theorem State.thread?_modCore (s : State) (n : Nat) (f : Core → Core) (r : ThreadRef)
    (h : ∀ c w, (f c).thread? w = c.thread? w) : (s.modCore n f).thread? r = s.thread? r := by
  simp only [State.thread?]
  by_cases hc : r.core = n
  · subst hc
    rw [State.core?_modCore_self]
    cases s.core? r.core <;> simp [h]
  · rw [State.core?_modCore_ne s f hc]

theorem State.modThread_modThread (s : State) (r : ThreadRef) (f g : Thread → Thread) :
    (s.modThread r f).modThread r g = s.modThread r fun t => g (f t) := by
  have hc : ∀ (c : Core) (w : Who), (c.modThread w f).modThread w g = c.modThread w fun t => g (f t) := by
    intro c w
    cases w with
    | user p i =>
      simp only [Core.modThread, Core.modTask, List.map_map]
      congr 1
      apply List.map_congr_left
      intro x _
      by_cases hx : x.1 = p <;> simp [hx, List.modify_modify_eq, Function.comp_def]
    | caster n => simp [Core.modThread, List.modify_modify_eq, Function.comp_def]
  simp only [State.modThread, State.modCore, List.modify_modify_eq]
  congr 2
  funext c
  exact hc c r.who

/-! ## Registers and predicates -/

theorem Thread.reg_setReg (t : Thread) (r q : Reg) (x : Word) (p : Bool) :
    (t.setReg r x p).reg q = if q = r then x else t.reg q := by
  simp only [Thread.reg, Thread.setReg, Vector.getElem_set, BitVec.toNat_eq]
  by_cases h : r.toNat = q.toNat
  · simp [h]
  · simp [h, Ne.symm h]

@[simp] theorem Thread.reg_setReg_self (t : Thread) (r : Reg) (x : Word) (p : Bool) : (t.setReg r x p).reg r = x := by
  simp [Thread.reg_setReg]

/-- q0 reads true, whatever was written to it (R30). -/
@[simp] theorem Thread.pred_zero (t : Thread) : t.pred 0 = true := by simp [Thread.pred]

/-- A write of q0 is discarded (R30, R43). -/
@[simp] theorem Thread.setPred_zero (t : Thread) (b : Bool) : t.setPred 0 b = t := by simp [Thread.setPred]

end Sys2Proof.Machine
end

