-- ==== Sys2Proof/Laws/Ops.lean ====
section
/-!
SUPPORT. What the shared operations of an instruction do: its issue, its end, and the classes of the element core.
-/

namespace Sys2Proof.Machine

/-- An instruction that issues comes to its own checks and effects. -/
theorem issue_eq {s : State} {t : Thread} {g : Guard} {srcs dsts qs} (body : Thread → Eff)
    (h : Issues s t g srcs dsts qs) : issue s g srcs dsts qs body = .next (State.finish s.issuer (body t)) := by
  simp [issue, h.thread, h.can, h.guardReady, h.guard, step8, h.full, h.free]

/-- A thread whose guard is false completes with no effect (R29). -/
theorem issue_guard_false {s : State} {t : Thread} {g : Guard} {srcs dsts qs} (body : Thread → Eff)
    (ht : s.thread? s.issuer = some t) (hc : s.canIssue s.issuer t = true) (hq : t.predBusy g.q = false)
    (hg : guardHolds g t = false) : issue s g srcs dsts qs body = Completes s s := by
  simp [issue, ht, hc, hq, hg, Completes]

/-- `issue` always answers a next state. -/
theorem issue_goes (s : State) (g : Guard) (srcs dsts qs) (body : Thread → Eff) :
    Goes (issue s g srcs dsts qs body) := by
  simp only [issue, Goes]
  repeat' split
  all_goals exact ⟨_, rfl⟩

/-- A clean integer-class instruction writes its registers. -/
theorem intOp_eq {s : State} {t : Thread} {g : Guard} {srcs} {d : Reg} {n : Nat} (f : Thread → Nat)
    (h : Clean s t g srcs [(d, n)] []) : intOp s g srcs d n f = Writes s fun t => t.setRegs d n (f t) 0 := by
  simp [intOp, issue_eq _ h.issues, h.clean, Writes, Completes]

/-- An integer-class instruction with a poisoned source traps. -/
theorem intOp_poison {s : State} {t : Thread} {g : Guard} {srcs} {d : Reg} {n : Nat} (f : Thread → Nat) {p : Trap}
    (h : Issues s t g srcs [(d, n)] []) (hp : firstPoison t srcs = some p) : intOp s g srcs d n f = Traps s p := by
  simp [intOp, issue_eq _ h, hp, Traps, State.finish]

/-- A poison carrier writes its registers with the marks it carries. -/
theorem carryOp_eq {s : State} {t : Thread} {g : Guard} {srcs} {d : Reg} {n : Nat} {qs} (f : Thread → Nat × BitVec 4)
    (h : Issues s t g srcs [(d, n)] qs) :
    carryOp s g srcs d n qs f = Writes s fun t => t.setRegs d n (f t).1 (f t).2 := by
  simp [carryOp, issue_eq _ h, Writes, Completes]

/-- A clean float-class instruction that rounds puts its result and ORs its flags. -/
theorem floatOp_eq {s : State} {t : Thread} {g : Guard} {srcs dsts qs} {rm : RmField} {m : Rm}
    (f : Rm → Thread → Nat × Flags) (put : Nat → Thread → Thread) (h : FloatClean s t g srcs dsts qs rm m (f m t).2) :
    floatOp s g srcs dsts qs true (some rm) f put =
      Writes s fun th => put (f m t).1 { th with fpctl := orFlags th.fpctl (f m t).2 } := by
  simp [floatOp, issue_eq _ h.clean.issues, h.clean.clean, h.markers, h.mode, h.flags, orTrap, Writes, Completes]

/-- A clean float-class instruction that does not round. -/
theorem floatOp_eq_none {s : State} {t : Thread} {g : Guard} {srcs dsts qs}
    (f : Rm → Thread → Nat × Flags) (put : Nat → Thread → Thread)
    (h : FloatClean s t g srcs dsts qs .rne .rne (f .rne t).2) :
    floatOp s g srcs dsts qs true none f put =
      Writes s fun th => put (f .rne t).1 { th with fpctl := orFlags th.fpctl (f .rne t).2 } := by
  simp [floatOp, issue_eq _ h.clean.issues, h.clean.clean, h.markers, h.flags, orTrap, Writes, Completes]

theorem floatReg_eq {s : State} {t : Thread} {g : Guard} {srcs} {d : Reg} {rm : RmField} {m : Rm}
    (f : Rm → Thread → Nat × Flags) (h : FloatClean s t g srcs [(d, 1)] [] rm m (f m t).2) :
    floatReg s g srcs d (some rm) f = Writes s (putFloat d (f m t)) := by
  rw [floatReg, floatOp_eq f _ h]; rfl

theorem floatReg_eq_none {s : State} {t : Thread} {g : Guard} {srcs} {d : Reg}
    (f : Rm → Thread → Nat × Flags) (h : FloatClean s t g srcs [(d, 1)] [] .rne .rne (f .rne t).2) :
    floatReg s g srcs d none f = Writes s (putFloat d (f .rne t)) := by
  rw [floatReg, floatOp_eq_none f _ h]; rfl

/-- Everything the issue of an instruction can do: nothing, where no thread may issue; completion without an effect
under a false guard; and under a true one a park or a trap at the first empty source, a wait for results on their way,
or the instruction's own checks and effects. -/
theorem issue_cases {s s' : State} {g : Guard} {srcs dsts qs} {body : Thread → Eff}
    (h : issue s g srcs dsts qs body = .next s') :
    s' = s ∨ ∃ t, s.thread? s.issuer = some t ∧ s.canIssue s.issuer t = true ∧ t.predBusy g.q = false ∧
      ((guardHolds g t = false ∧ s' = State.finish s.issuer (.next s)) ∨
       (guardHolds g t = true ∧ ∃ v, firstEmpty t srcs = some (v, true) ∧
          s' = s.takeTrap s.issuer { kind := .emptyreg, sub := v.zeroExtend 8 }) ∨
       (guardHolds g t = true ∧ ∃ v, firstEmpty t srcs = some (v, false) ∧
          s' = State.finish s.issuer (.park s (.emptyReg v))) ∨
       (Issues s t g srcs dsts qs ∧ s' = State.finish s.issuer (body t))) := by
  simp only [issue] at h
  split at h
  · simp_all
  · rename_i t ht
    split at h
    · simp_all
    · rename_i hc
      simp only [Bool.or_eq_true, Bool.not_eq_eq_eq_not, Bool.not_true, not_or, Bool.not_eq_false, Bool.not_eq_true] at hc
      split at h <;> rename_i hg
      · injection h with h
        subst h
        simp only [step8]
        split
        · exact .inr ⟨t, ht, hc.1, hc.2, .inr (.inl ⟨hg, _, ‹_›, rfl⟩)⟩
        · exact .inr ⟨t, ht, hc.1, hc.2, .inr (.inr (.inl ⟨hg, _, ‹_›, rfl⟩))⟩
        · split <;> rename_i hw
          · exact .inl rfl
          · exact .inr ⟨t, ht, hc.1, hc.2, .inr (.inr (.inr ⟨⟨ht, hc.1, hc.2, hg, ‹_›, by simpa using hw⟩, rfl⟩))⟩
      · injection h with h
        exact .inr ⟨t, ht, hc.1, hc.2, .inl ⟨by simpa using hg, h.symm⟩⟩

/-- The first poisoned register of two groups of sources. -/
theorem firstPoison_append (t : Thread) (a b : List (Src × Nat)) :
    firstPoison t (a ++ b) = (firstPoison t a).or (firstPoison t b) := by
  simp only [firstPoison, List.flatMap_append, List.find?_append]
  cases List.find? t.isPois (List.flatMap (fun x => operandRegs x.1.reg x.2) a) <;> rfl

/-- A cross-lane instruction past its checks arrives at its instance, unless the thread keeps an exact result for it. -/
theorem crossLane_eq {s : State} {t : Thread} {g : Guard} {i srcs dsts qs} {checks} {mk}
    (h : Issues s t g srcs dsts qs) (hk : ∀ k, t.kept = some k → k.pc ≠ t.pc) (hc : checks t = none) :
    crossLane s g i srcs dsts qs checks mk = Stays s (s.arriveX s.issuer t.pc (mk t (arrivalOf s.issuer i))) := by
  have : t.kept.filter (fun k => k.pc == t.pc) = none := by
    cases hh : t.kept with
    | none => rfl
    | some k => simp [hk k hh]
  simp [crossLane, h.thread, h.can, h.guardReady, h.guard, step8, h.full, h.free, hc, this, Stays]

/-- A privileged instruction of a Caster thread comes to its own checks and effects once its sources are clean. -/
theorem privOp_eq {s : State} {t : Thread} {g srcs travels dsts} {n} (body : Nat → Thread → Eff)
    (hw : s.issuer.who = .caster n) (h : Issues s t g (srcs ++ travels) dsts []) (hp : firstPoison t srcs = none) :
    privOp s g srcs travels dsts body = .next (State.finish s.issuer (body n t)) := by
  simp only [privOp, hw]
  rw [issue_eq _ h, hp]

/-- An instruction that may pair issues with the sources and destinations `useOf` names. -/
theorem exec_useOf {i : Instr} {u : Machine.Use} (s : State) (h : useOf i = some u) :
    ∃ body, exec i s = issue s u.g u.srcs u.dsts (u.qr ++ u.qw) body := by
  cases i <;> first
    | (simp only [useOf, reduceCtorEq] at h; done)
    | (simp only [useOf, Option.some.injEq] at h; subst h; exact ⟨_, rfl⟩)
    | (simp only [useOf, Option.some.injEq] at h; subst h; simp only [exec, execPack, execUnpack]; split <;> exact ⟨_, rfl⟩)

/-- The trap of a user thread whose older work is done: it leaves the lists it waits in, and its record is written. -/
theorem takeTrap_user {s : State} {core place tidx : Nat} (t : Trap)
    (h : (s.withdraw ⟨core, .user place tidx⟩).drained ⟨core, .user place tidx⟩ = true) :
    s.takeTrap ⟨core, .user place tidx⟩ t = (s.withdraw ⟨core, .user place tidx⟩).recordOldest core place tidx t := by
  simp only [State.takeTrap]
  rw [if_pos h]

/-- The trap of a Caster thread that serves CAUSE 5 takes its core out of service. -/
theorem takeTrap_caster_five {s : State} {core n : Nat} {c : Core} {k : Caster} (t : Trap) (hc : s.core? core = some c)
    (hk : c.casters[n]? = some k) (h5 : k.cause = 5) :
    s.takeTrap ⟨core, .caster n⟩ t = s.haltCore core 0x04 n k.thr.pc (State.trapWord t) := by
  simp [State.takeTrap, State.casterTrap, hc, hk, h5]

end Sys2Proof.Machine
end

