-- ==== Sys2Proof/Tests/Slice0.lean ====
section
/-!
SUPPORT. Tests, each on one step or one word: the checks of well-formedness, words written out from the encoding tables,
single instructions, and for each statement with hypotheses a state and operands that meet them (`witness_…`).
-/

namespace Sys2Proof.Tests

open Sys2Proof Sys2Proof.Machine

-- One thread: each theorem here is a long evaluation, and side by side they hold a stack each.
set_option Elab.async false

/-! ## States for the tests -/

/-- The guard that always holds. -/
def always : Guard := { neg := false, q := 0 }

/-- The guard that never holds. -/
def never : Guard := { neg := true, q := 0 }

/-- A register as a source. -/
def src (r : Reg) : Src := { reg := r, trap := false }

/-- A thread at the placed line, with every register full and 0. -/
def thr : Thread := { Thread.create (BitVec.ofNat 64 placedLine) with regs := Vector.replicate 64 0 }

/-- That thread with a number in a pair of registers. -/
def thr64 (r : Reg) (x : Nat) : Thread := thr.setRegs r 2 x 0

/-- That thread with a number in one register. -/
def thr32 (r : Reg) (x : Nat) : Thread := thr.setReg r (BitVec.ofNat 32 x)

/-- A line of five `nop` words whose slot 0 is a target. -/
def nopLine : List Byte :=
  let bs := List.replicate 60 (0 : Byte) ++ leBytes 4 (2 ^ 24 + 1)
  bs.take 60 ++ leBytes 4 (2 ^ 24 + 1 + lineParity bs * 2 ^ 16)

/-- A device in service whose core 0 is the one given. -/
def device (c : Core → Core) : State :=
  { State.reset with stage := 7, cores := State.reset.cores.modify 0 c
                     mem := (placedTables []).write placedLine nopLine }

/-- The thread as the one thread of a task in place 0 of core 0, issuing. -/
def user (t : Thread) : State :=
  { device (fun c => { c with tasks := [(0, { placedTask with threads := [t], scratch := 4096, accslots := 2 })] }) with
    issuer := { core := 0, who := .user 0 0 } }

/-- The thread as Caster thread 0 of core 0, issuing. -/
def caster (t : Thread) : State := device fun c => c.modCaster 0 fun k => { k with thr := t, cause := 1 }

/-- A state whose core 0 is changed. -/
def onCore (s : State) (f : Core → Core) : State := s.modCore 0 f

/-- The task of place 0 of core 0 changed. -/
def onTask (s : State) (f : Task → Task) : State := s.modTask 0 0 f

/-- That the issuing thread is the one given, and that its registers and work hold nothing back. -/
def ready (s : State) (t : Thread) : Bool :=
  s.thread? s.issuer == some t && s.canIssue s.issuer t && t.full == BitVec.allOnes 64 && t.poison == 0 && t.pend.isEmpty

theorem clean_of {s : State} {t : Thread} (h : ready s t = true) (srcs : List (Src × Nat)) (dsts : List (Reg × Nat))
    (qs : List PredReg) : Clean s t always srcs dsts qs := by
  simp only [ready, Bool.and_eq_true, beq_iff_eq, List.isEmpty_iff] at h
  obtain ⟨⟨⟨⟨hth, hc⟩, hf⟩, hp⟩, hw⟩ := h
  refine ⟨⟨hth, hc, ?_, ?_, ?_, ?_⟩, ?_⟩
  · simp [Thread.predBusy, hw]
  · simp [guardHolds, always, Thread.pred]
  · simp only [firstEmpty, List.find?_eq_none]
    intro x _
    have hx : (BitVec.allOnes 64).getLsbD x.1.toNat = true := by
      rw [BitVec.getLsbD_allOnes]; exact decide_eq_true x.1.isLt
    simpa only [Thread.isFull, hf, Bool.not_eq_true, Bool.not_eq_false'] using hx
  · simp [mustWait, Thread.regBusy, Thread.predBusy, hw]
  · simp [firstPoison, Thread.isPois, hp]

theorem issues_of {s : State} {t : Thread} (h : ready s t = true) (srcs : List (Src × Nat)) (dsts : List (Reg × Nat))
    (qs : List PredReg) : Issues s t always srcs dsts qs := (clean_of h srcs dsts qs).issues

/-- With FPCTL as at creation and registers of 0 no float instruction of `thr` traps. -/
theorem float_of {s : State} (h : ready s thr = true) (srcs : List (Src × Nat)) (dsts : List (Reg × Nat))
    (qs : List PredReg) (fl : Flags) : FloatClean s thr always srcs dsts qs .rne .rne fl := by
  refine ⟨clean_of h srcs dsts qs, ?_, rfl, ?_⟩
  · have hr : ∀ r : Reg, isMarker (thr.reg r) = false := by decide +kernel
    simp [markerTrap, hr]
  · have ht : teBits thr.fpctl = 0 := by decide
    simp [fpTrap, ht]

theorem ready_user : ready (user thr) thr = true := by decide +kernel

theorem ready_caster : ready (caster thr) thr = true := by decide +kernel

/-- What a function that may trap answers, and the state it leaves. -/
theorem ok_pair {ε σ α : Type} [DecidableEq α] {x : Except ε α × σ} {a : α} (h : x.1.toOption = some a) :
    x = (.ok a, x.2) := by
  obtain ⟨e | b, s⟩ := x
  · simp [Except.toOption] at h
  · simp [Except.toOption] at h; simp [h]

theorem pair_of {α β : Type} {x : α × β} {a : α} (h : x.1 = a) : x = (a, x.2) := by simp [← h]

/-! ## Witnesses: the element core -/

abbrev r0 : ThreadRef := { core := 0, who := .user 0 0 }

theorem witness_IntegerArithmetic :
    Clean (user thr) thr always (srcA .i32 (src 1) ++ srcB .i32 (.reg (src 2))) [(3, tyRegs .i32)] [] ∧
    Clean (user thr) thr always (srcA .n64 (src 2) ++ srcB .n64 (.imm 5) ++ srcA .n64 (src 62)) [(2, tyRegs .n64)] [] ∧
    Clean (user thr) thr always (srcA .i8 (src 63)) [(63, tyRegs .i8)] [] ∧ Ty.i8.isInt = true :=
  ⟨clean_of ready_user .., clean_of ready_user .., clean_of ready_user .., rfl⟩

theorem witness_BitInstructions :
    Ty.b32.isBits = true ∧ Ty.b32.is64 = false ∧ Clean (user thr) thr always [(src 1, 1), (src 2, 1)] [(3, 1)] [] ∧
    Clean (user thr) thr always [(src 1, 1)] [(1, 1)] [] ∧
    Clean (user thr) thr always (srcA .i64 (src 2) ++ srcB .i64 (.imm 1)) [(4, tyRegs .i64)] [] ∧
    Clean (user thr) thr always (srcA .i64 (src 2) ++ srcB32 (.reg (src 1))) [(4, tyRegs .i64)] [] ∧
    Clean (user thr) thr always (srcA .n64 (src 2)) [(4, 1)] [] ∧
    Clean (user thr) thr always (srcA .b32 (src 2) ++ srcB .b32 (.imm 1) ++ [(src 3, 1)]) [(4, tyRegs .b32)] [] ∧
    (2 ^ 32 - 1 < 2 ^ Ty.b32.width ∧ 31 < Ty.b32.width ∧ 2 ^ 32 - 1 ≠ 0) ∧ (0 : Nat) < 2 ^ 64 ∧
    (Ty.n32 ≠ .i32 ∧ Ty.n32 ≠ .i64 ∧ 0x0400 / 256 % 256 ≤ 31) :=
  ⟨rfl, rfl, clean_of ready_user .., clean_of ready_user .., clean_of ready_user .., clean_of ready_user ..,
    clean_of ready_user .., clean_of ready_user .., by decide, by decide, by decide⟩

theorem witness_ComparesMovesAndAddresses :
    Clean (user thr) thr always (srcA .i8 (src 1) ++ srcB .i8 (.imm 255)) [] [7] ∧
    Issues (user thr) thr always (srcA .i64 (src 2) ++ srcB .i64 (.reg (src 4))) [(6, tyRegs .i64)] [7] ∧
    Issues (user thr) thr always (srcA .f32 (src 1)) [(1, tyRegs .f32)] [] ∧ Issues (user thr) thr always [] [(62, tyRegs .i64)] [] ∧
    Clean (user thr) thr always [(src 2, 2), (src 1, 1)] [(62, 2)] [] ∧ Issues (user thr) thr always [] [] [] :=
  ⟨clean_of ready_user .., issues_of ready_user .., issues_of ready_user .., issues_of ready_user .., clean_of ready_user ..,
    issues_of ready_user ..⟩

theorem witness_FloatRoundedResults :
    (∀ fl, FloatClean (user thr) thr always (floatSrcs (src 1) (.reg (src 2))) [(3, 1)] [] .rne .rne fl) ∧
    (∀ fl, FloatClean (user thr) thr always [(src 63, 1)] [(63, 1)] [] .rne .rne fl) ∧
    ∀ fl, FloatClean (user thr) thr always (floatSrcs (src 1) (.imm 0x3F800000) ++ [(src 2, 1)]) [(3, 1)] [] .rne .rne fl :=
  ⟨float_of ready_user _ _ _, float_of ready_user _ _ _, float_of ready_user _ _ _⟩

theorem witness_FloatSelectionAndConversion :
    (∀ fl, FloatClean (user thr) thr always (floatSrcs (src 1) (.imm 0)) [(3, 1)] [] .rne .rne fl) ∧
    (∀ fl, FloatClean (user thr) thr always (floatSrcs (src 1) (.reg (src 2))) [] [1] .rne .rne fl) ∧
    (Clean (user thr) thr always (srcA .f32 (src 1)) [(2, tyRegs .i64)] [] ∧
      (Ty.f32.isInt = false → markerTrap thr (srcA .f32 (src 1)) = none) ∧ rmOf thr .dyn = some .rne ∧
      ∀ fl, fpTrap thr fl = none) ∧
    Issues (user thr) thr always [(src 1, 1), (src 2, 1)] [(3, 1)] [] ∧ Issues (user thr) thr always [(src 1, 1)] [(2, 2)] [] ∧
    (Ty.f16x2 ≠ .b32 ∧ ∀ fl, FloatClean (user thr) thr always [(src 1, 1), (src 2, 1)] [(3, 1)] [] .rne .rne fl) ∧
    ∀ fl, FloatClean (user thr) thr always [(src 1, 1)] [(62, 2)] [] .rne .rne fl :=
  ⟨float_of ready_user _ _ _, float_of ready_user _ _ _, ⟨clean_of ready_user .., fun _ => (float_of ready_user _ [] [] 0).markers,
    by decide, fun fl => (float_of ready_user [] [] [] fl).flags⟩, issues_of ready_user .., issues_of ready_user ..,
    ⟨by decide, float_of ready_user _ _ _⟩, float_of ready_user _ _ _⟩

theorem witness_CrossLaneArrivals :
    (∀ k, thr.kept = some k → k.pc ≠ thr.pc) ∧
    (Issues (user thr) thr always (srcA .i64 (src 2) ++ srcB32 (.reg (src 1))) [(4, tyRegs .i64)] [] ∧
      firstPoison thr (srcB32 (.reg (src 1))) = none) ∧
    Issues (user thr) thr always [] [] [1, 7] ∧ Issues (user thr) thr always [] [(3, 1)] [7] ∧
    (Clean (user thr) thr always (srcA .f32 (src 2)) [(4, tyRegs .f32)] [] ∧ markerTrap thr [(src 2, 1)] = none ∧
      (rmOf thr .dyn).isSome = true) ∧
    Issues (user thr) thr always (srcA .b32 (src 2)) [(4, tyRegs .b32)] [] ∧
    Clean (user thr) thr always (srcA .n64 (src 2)) [(4, 1)] [] ∧ Issues (user thr) thr always [] [(4, 1)] [] ∧
    ((user thr).thread? (user thr).issuer = some thr ∧ (user thr).canIssue (user thr).issuer thr = true ∧
      thr.predBusy never.q = false ∧ guardHolds never thr = false) :=
  ⟨fun _ h => (by cases h), ⟨issues_of ready_user .., by decide⟩, issues_of ready_user .., issues_of ready_user ..,
    ⟨clean_of ready_user .., (float_of ready_user _ [] [] 0).markers, by decide⟩, issues_of ready_user ..,
    clean_of ready_user .., issues_of ready_user .., (issues_of ready_user [] [] []).thread,
    (issues_of ready_user [] [] []).can, by decide, by decide⟩

/-- An arrival with a position in its operand B. -/
def arrived (b : Nat) : Arrival := { arrivalOf r0 .nop with b := BitVec.ofNat 32 b }

theorem witness_CrossLaneResults :
    let act := [(0, arrived 63), (63, arrived 0)]
    (lookup act 63 = some (arrived 0) ∧ 63 < 64 ∧ (arrived 63).b.toNat = 63) ∧
    (lookup act 0 = some (arrived 63) ∧ 0 < 64 ∧ 63 = 0 + (arrived 63).b.toNat) ∧
    (63 = 0 + (arrived 63).b.toNat ∧ 63 = 0 ^^^ (arrived 63).b.toNat) ∧
    ((arrived 62).b.toNat < 64 → lookup act (arrived 62).b.toNat = none) ∧
    ((arrived 64).b.toNat < 64 → lookup act (arrived 64).b.toNat = none) ∧ Ty.n16.isInt = true ∧
    act.head? = some (0, arrived 63) ∧ act.getLast? = some (63, arrived 0) ∧
    ((62 < 64 → lookup act 62 = none) ∧ 63 = 62 + (arrived 1).b.toNat ∧ 62 = 0 + (arrived 62).b.toNat ∧
      62 = 0 ^^^ (arrived 62).b.toNat) ∧ 0 < (arrived 1).b.toNat ∧ (act.map Prod.fst).Pairwise (· < ·) ∧
    ([(0, arrived 63)] = act.filter (fun y => y.1 < 0 || (y.1 = 0 && !false)) ∧
      [] = act.filter (fun y => y.1 < 0 || (y.1 = 0 && !true))) ∧
    Ty.f32.isFloat = true ∧ Ty.b32.isFloat = false ∧ RedOp.and ≠ .or := by decide

/-- An instance at the placed line that thread 0 has arrived at. -/
def inst : Instance :=
  { pc := BitVec.ofNat 64 placedLine, base := 0, width := 8, arrivals := [arrived 0] }

theorem witness_InstancesAndJoins :
    let s := onTask (user { thr with state := .xlane }) fun k => { k with insts := [inst] }
    let j := user { thr with state := .join .task }
    (((s.insts 0 0).find? fun i => i.pc == BitVec.ofNat 64 placedLine && i.base == 0) = some inst ∧
      s.instFull 0 0 inst = true ∧ s.coresRun = true) ∧
    ((user thr).issuer.who = .user 0 0 ∧ Issues (user thr) thr always [] [] []) ∧
    ((caster thr).issuer.who = .caster 0 ∧ Issues (caster thr) thr always [] [] []) ∧
    j.joinReleased 0 0 (BitVec.ofNat 64 placedLine) = [0] ∧
    j.coresRun = true ∧ (0, JoinSet.task) ∈ j.waitingAt 0 0 (BitVec.ofNat 64 placedLine) ∧ j.liveMembers 0 0 (State.joinHas .task) = [0] :=
  ⟨by decide +kernel, ⟨rfl, issues_of ready_user ..⟩, ⟨rfl, issues_of ready_caster ..⟩, by decide +kernel,
    by decide +kernel, by decide +kernel, by decide +kernel⟩

/-! ## Witnesses: control -/

/-- What is asked of a transfer: the target passes R27, and the check leaves the issuing thread as it is. -/
def passes (s : State) (target : DWord) : Bool :=
  (match (s.checkTarget s.issuer target).1 with
    | .ok => true
    | _ => false) && (s.checkTarget s.issuer target).2.issuer == s.issuer

theorem passes_pair {s : State} {target : DWord} (h : passes s target = true) :
    ∃ s₁, s.checkTarget s.issuer target = (.ok, s₁) ∧ s₁.issuer = s.issuer := by
  unfold passes at h
  cases hx : s.checkTarget s.issuer target with
  | mk a s₁ => cases a <;> simp_all

theorem witness_ControlFlow :
    (∃ s₁, (user thr).checkTarget r0 (relTarget thr.pc 0) = (.ok, s₁) ∧ s₁.issuer = r0) ∧
    Issues (user thr) thr always [] [(62, 2)] [] ∧
    (let t := thr64 4 placedLine;
      (∃ s₁, (user t).checkTarget r0 (t.reg64 4) = (.ok, s₁) ∧ s₁.issuer = r0) ∧
      Clean (user t) t always [(src 4, 2)] [(62, 2)] []) ∧
    (let t := thr64 62 placedLine;
      (∃ s₁, (user t).checkTarget r0 (t.reg64 62) = (.ok, s₁) ∧ s₁.issuer = r0) ∧
      Clean (user t) t always [(src 62, 2)] [] []) ∧
    Clean (user thr) thr always [(src 63, 1)] [] [] ∧
    (thr.pend = [] ∧ thr.queue = [] ∧ (user thr).peerOpen r0 = false ∧ copyOpen (user thr) r0 = false) :=
  ⟨passes_pair (s := user thr) (by decide +kernel), issues_of ready_user ..,
    ⟨passes_pair (s := user (thr64 4 placedLine)) (by decide +kernel), clean_of (by decide +kernel) ..⟩,
    ⟨passes_pair (s := user (thr64 62 placedLine)) (by decide +kernel), clean_of (by decide +kernel) ..⟩,
    clean_of ready_user .., by decide +kernel⟩

theorem witness_ControlRegisters :
    Issues (user thr) thr always [] [(2, ctlWords 0x010)] [] ∧ ((user thr).task? 0 0).isSome = true ∧
    Issues (caster thr) thr always [] [(2, ctlWords 0x80B)] [] ∧
    (((caster thr).core? 0).bind fun c => c.casters[0]?).isSome = true ∧
    (Clean (user thr) thr always [(src 2, ctlWords 0x022)] [] [] ∧ thr.regsNat 2 (ctlWords 0x022) = 0) ∧
    (Clean (user thr) thr always [(src 1, ctlWords 0x021)] [] [] ∧ thr.regsNat 1 (ctlWords 0x021) = 0) ∧
    (Issues (user thr) thr always [] [] [] ∧ (128#20).toNat ∈ [0, 8, 16, 32, 64, 128] ∧
      ((user thr).task? 0 0).any (fun k => k.segw != 128 && k.insts.isEmpty) = true) ∧
    (Clean (caster thr) thr always [(src 62, ctlWords 0x803)] [] [] ∧ thr.regsNat 62 (ctlWords 0x803) = 0) ∧
    (Issues (caster thr) thr always [] [] [] ∧ (0xFFFFF#20).toNat = 0xFFFFF) ∧
    Issues (user thr) thr always [] [(2, ctlWords 0x7FF)] [] ∧ Issues (caster thr) thr always [] [(2, ctlWords 0x80C)] [] ∧
    (Clean (user thr) thr always [(src 1, ctlWords 0x003)] [] [] ∧ (9#20).toNat ∉ [0, 8, 16, 32, 64, 128] ∧
      ((user thr).task? 0 0).any (fun k => k.segw == 0) = true) ∧
    Clean (caster thr) thr always [(src 1, ctlWords 0x80B)] [] [] ∧ (0x00D#12) ∈ [(0x002#12), 0x00D] :=
  ⟨issues_of ready_user .., by decide +kernel, issues_of ready_caster .., by decide +kernel,
    ⟨clean_of ready_user .., by decide +kernel⟩, ⟨clean_of ready_user .., by decide +kernel⟩,
    ⟨issues_of ready_user .., by decide, by decide +kernel⟩, ⟨clean_of ready_caster .., by decide +kernel⟩,
    ⟨issues_of ready_caster .., by decide⟩, issues_of ready_user .., issues_of ready_caster ..,
    ⟨clean_of ready_user .., by decide, by decide +kernel⟩, clean_of ready_caster .., by decide⟩

/-! ## Witnesses: memory, atomics, synchronisation and allowances -/

/-- The own scratchpad at 0, and global memory from a pair of registers. -/
def own0 : MemRef := { space := .own, base := src 0, off := 0, swz := 0 }

def glob (r : Reg) : MemRef := { space := .global, base := src r, off := 0, swz := 0 }

/-- Byte 0x1000 of peer device 1. -/
def peerVa : Nat := 2 ^ 55 + 2 ^ 49 + 0x1000

/-- A state in which destination 1 is reached and has one flit of each class. -/
def reached (s : State) : State := s.modDest 1 fun e => { e with unreach := false, req := 1, rsp := 1 }

/-- A caster thread whose v4:v5 holds an address. -/
def at64 (x : Nat) : State := reached (caster (thr64 4 x))

def isPass : State.Allowed → Bool
  | .pass _ => true
  | _ => false

theorem pass_of {x : State.Allowed} (h : isPass x = true) : ∃ s, x = .pass s := by
  cases x <;> simp_all [isPass]

theorem unit_ok {ε : Type} {x : Except ε Unit} (h : x.toOption = some ()) : x = .ok () := by
  cases x <;> simp_all [Except.toOption]

theorem triple_of {α β γ : Type} {x : α × β × γ} {b : β} (h : x.2.1 = b) : x = (x.1, b, x.2.2) := by simp [← h]

abbrev c0 : ThreadRef := { core := 0, who := .caster 0 }

def loads (m : MemRef) : Access := { m, size := 4, watch := .rd, kind := .read, atom := false }

def stores (m : MemRef) : Access := { m, size := 4, watch := .wr, kind := .write, atom := false }

theorem ready_at (x : Nat) (h : ready (at64 x) (thr64 4 x) = true) (srcs : List (Src × Nat)) (dsts : List (Reg × Nat))
    (qs : List PredReg) : Issues (at64 x) (thr64 4 x) always srcs dsts qs := issues_of h srcs dsts qs

theorem witness_LoadsAtEachTarget :
    (∃ s₁, Issues (at64 0x1000) (thr64 4 0x1000) always (baseSrc (glob 4)) [(1, sizeWords .b32)] [] ∧
      (at64 0x1000).formTarget c0 (thr64 4 0x1000) (loads (glob 4)) = (.ok (.mem 0x1000), s₁) ∧ s₁.pageBusy 0x1000 = false ∧
      State.accessWaits (thr64 4 0x1000) = false) ∧
    (∃ s₁, Issues (at64 mmioBase) (thr64 4 mmioBase) always (baseSrc (glob 4)) [(1, sizeWords .b32)] [] ∧
      (at64 mmioBase).formTarget c0 (thr64 4 mmioBase) (loads (glob 4)) = (.ok (.mmio 0), s₁) ∧
      State.queuedTo (thr64 4 mmioBase) State.toMmio = false) ∧
    (∃ s₁ s₂, Issues (at64 peerVa) (thr64 4 peerVa) always (baseSrc (glob 4)) [(1, sizeWords .b32)] [] ∧
      (at64 peerVa).formTarget c0 (thr64 4 peerVa) (loads (glob 4)) = (.ok (.peer 1 0x1000), s₁) ∧
      s₁.peerLine? 0 1 0x1000 = none ∧ State.queuedTo (thr64 4 peerVa) State.toPeer = false ∧
      s₁.allow c0 1 1 1 (BitVec.ofNat 64 peerVa) = .pass s₂) ∧
    (∃ s₁, Issues (user thr) thr always (baseSrc own0) [(1, sizeWords .b32)] (peekPred (.peek 1)).toList ∧
      State.accessWaits thr = false ∧
      (user thr).formTarget r0 thr (loads own0) = (.ok (.scratch 0 0 0 false), s₁) ∧ s₁.granuleFull 0 0 0 = true) := by
  refine ⟨⟨_, issues_of (by decide +kernel) _ _ _, ok_pair (by decide +kernel), by decide +kernel⟩,
    ⟨_, issues_of (by decide +kernel) _ _ _, ok_pair (by decide +kernel), by decide +kernel⟩, ?_,
    ⟨_, issues_of ready_user _ _ _, by decide, ok_pair (by decide +kernel), by decide +kernel⟩⟩
  have hp := pass_of (x := (((at64 peerVa).formTarget c0 (thr64 4 peerVa) (loads (glob 4))).2).allow c0 1 1 1
    (BitVec.ofNat 64 peerVa)) (by decide +kernel)
  obtain ⟨s₂, hs⟩ := hp
  exact ⟨_, s₂, issues_of (by decide +kernel) _ _ _, ok_pair (by decide +kernel), by decide +kernel, by decide +kernel, hs⟩

/-- A subscribed line of a peer that the core holds. -/
def subscribed : State :=
  onCore (at64 peerVa) fun c => { c with
    subs := [{ target := .peer 1 0x1000, users := [(casterPlace, 0)] }]
    l1 := [{ pa := peerVa, data := List.replicate 64 0, dirty := 0, pois := 0, owned := false }] }

theorem witness_LoadOfASubscribedLine :
    ∃ s₁, Issues subscribed (thr64 4 peerVa) always (baseSrc (glob 4)) [(1, sizeWords .b32)] [] ∧
      subscribed.formTarget c0 (thr64 4 peerVa) (loads (glob 4)) = (.ok (.peer 1 0x1000), s₁) ∧
      (s₁.peerLine? 0 1 0x1000).isSome = true :=
  ⟨_, issues_of (by decide +kernel) _ _ _, ok_pair (by decide +kernel), by decide +kernel⟩

/-- A store of 4 bytes in the queue of the thread. -/
def queued (target : Target) (feq : StFeq) : QStore :=
  { target, size := .b32, data := 1, feq, rel := false, scope := .thr, va := 0, sent := none, issue := 0 }

/-- The thread with the first granule of its scratchpad empty. -/
def empty0 (t : Thread) : State := onTask (user t) fun k => { k with empties := [0] }

theorem witness_Stores :
    (∃ s₁, Clean (at64 0x1000) (thr64 4 0x1000) always (baseSrc (glob 4) ++ [(src 1, sizeWords .b32)]) [] [] ∧
      (at64 0x1000).formTarget c0 (thr64 4 0x1000) (stores (glob 4)) = (.ok (.mem 0x1000), s₁) ∧
      storeRelease true .dev .plain (.mem 0x1000) = some .dev ∧ s₁.releaseReady c0 .dev = true) ∧
    (∃ s₁ s₂, Clean (at64 peerVa) (thr64 4 peerVa) always (baseSrc (glob 4) ++ [(src 1, sizeWords .b32)]) [] [] ∧
      (at64 peerVa).formTarget c0 (thr64 4 peerVa) (stores (glob 4)) = (.ok (.peer 1 0x1000), s₁) ∧
      s₁.allow c0 1 1 1 (BitVec.ofNat 64 peerVa) = .pass s₂) ∧
    (∃ s₁, Clean (user thr) thr always (baseSrc own0 ++ [(src 1, sizeWords .b32)]) [] [] ∧ State.accessWaits thr = false ∧
      (user thr).formTarget r0 thr (stores own0) = (.ok (.scratch 0 0 0 false), s₁) ∧ s₁.granuleFull 0 0 0 = true ∧ thr.queue = []) ∧
    (∃ s₁, (empty0 thr).formTarget r0 thr (stores own0) = (.ok (.scratch 0 0 0 false), s₁) ∧ s₁.granuleFull 0 0 0 = false) ∧
    (∀ target feq, let t := { thr with queue := [queued target feq] };
      (user t).coresRun = true ∧ (user t).thread? r0 = some t ∧ t.queue = [queued target feq] ∧ ∀ x ∈ t.pend, x.op = none) ∧
    ((user thr).pageBusy 0x1000 = false ∧ ((user thr).popStore r0 |>.regWrite 0x1010 [1, 0, 0, 0]).isSome = true) ∧
    (at64 peerVa).unreach 1 = false ∧ (at64 peerVa).lanesOff 1 = false ∧
    (at64 peerVa).subscribed 0 (.peer 1 (lineOf 0x1000)) = false := by
  refine ⟨⟨_, clean_of (by decide +kernel) _ _ _, ok_pair (by decide +kernel), rfl, by decide +kernel⟩, ?_,
    ⟨_, clean_of ready_user _ _ _, by decide, ok_pair (by decide +kernel), by decide +kernel, rfl⟩,
    ⟨_, ok_pair (by decide +kernel), by decide +kernel⟩,
    fun _ _ => ⟨rfl, rfl, rfl, fun _ h => by cases h⟩, ⟨by decide +kernel, by decide +kernel⟩,
    by decide +kernel, by decide +kernel, by decide +kernel⟩
  have hp := pass_of (x := (((at64 peerVa).formTarget c0 (thr64 4 peerVa) (stores (glob 4))).2).allow c0 1 1 1
    (BitVec.ofNat 64 peerVa)) (by decide +kernel)
  obtain ⟨s₂, hs⟩ := hp
  exact ⟨_, s₂, clean_of (by decide +kernel) _ _ _, ok_pair (by decide +kernel), hs⟩

theorem witness_CacheControlAndFences :
    let s := at64 0x1000
    let t := thr64 4 0x1000
    (Issues s t always [] [] [] ∧ t.queue = [] ∧ t.pend = [] ∧ s.releaseReady c0 .sys = true ∧ s.releaseReady c0 .dev = true ∧
      State.accessWaits t = false ∧ s.peerOpen c0 = false) ∧
    (∃ s₁, Issues s t always [(src 4, 2)] [] [] ∧ s.lineTarget c0 t (src 4) 0 8 = (.ok (.mem 0x1000), s₁) ∧
      s₁.pageBusy 0x1000 = false ∧ queuedLine t (lineOf 0x1000) = false ∧ s₁.subscribed 0 (.mem (lineOf 0x1000)) = false) ∧
    ∃ s₁ c, Issues s t always [(src 4, 2)] [] [7] ∧ s.lineTarget c0 t (src 4) 0 64 = (.ok (.mem 0x1000), s₁) ∧
      s₁.pageBusy 0x1000 = false ∧ 0x1000 < hostBase ∧ s₁.core? 0 = some c ∧
      (c.subs.any fun u => u.target == .mem (lineOf 0x1000)) = false ∧ c.subs.length = 0 :=
  ⟨⟨issues_of (by decide +kernel) _ _ _, by decide +kernel⟩,
    ⟨_, issues_of (by decide +kernel) _ _ _, ok_pair (by decide +kernel), by decide +kernel⟩,
    ⟨_, _, issues_of (by decide +kernel) _ _ _, ok_pair (by decide +kernel), by decide +kernel, by decide, rfl, by decide +kernel,
      by decide +kernel⟩⟩

def atoms (m : MemRef) : Access := { m, size := 4, watch := .atom, kind := .atomic, atom := true }

/-- A pending addition of 1 to word 0 of the own scratchpad. -/
def pendingAdd : Pend :=
  { kind := .atomic, dst := 1, words := 1, va := 0, op := some (.scratch 0 0 0 false, .rmw (.op .add .i32 1)), acq := false
    rel := false, scope := .thr, issue := 0, tag := none, size := .b32, sx := false, pred := none, got := none }

theorem witness_Atomics :
    (∃ s₁, Clean (user thr) thr always (baseSrc own0 ++ [(src 1, 1)]) [(1, 1)] [] ∧
      (user thr).formTarget r0 thr (atoms own0) = (.ok (.scratch 0 0 0 false), s₁) ∧ s₁.opMayIssue r0 thr (some .dev) = true) ∧
    (∃ s₁ s₂, Clean (at64 peerVa) (thr64 4 peerVa) always (baseSrc (glob 4) ++ [(src 1, 1), (src 2, 1)]) [(3, 1)] [] ∧
      (at64 peerVa).formTarget c0 (thr64 4 peerVa) (atoms (glob 4)) = (.ok (.peer 1 0x1000), s₁) ∧
      s₁.opMayIssue c0 (thr64 4 peerVa) (some .dom) = true ∧ s₁.peerLane? c0 1 0x1000 (.cas .i32 0 0) = none ∧
      s₁.allow c0 1 1 1 (BitVec.ofNat 64 peerVa) = .pass s₂) ∧
    let t := { thr with pend := [pendingAdd] }
    (user t).coresRun = true ∧ (user t).thread? r0 = some t ∧ (t.pend.zipIdx.find? fun (p, _) => p.op.isSome) = some (pendingAdd, 0) ∧
      (user t).busy (.scratch 0 0 0 false) = false ∧ (user t).lanesOf r0 pendingAdd = [(r0, 0, pendingAdd)] ∧
      ((user t).opRead 0 false (.scratch 0 0 0 false) 4).2.1 = false := by
  refine ⟨⟨_, clean_of ready_user _ _ _, ok_pair (by decide +kernel), by decide +kernel⟩, ?_, by decide +kernel⟩
  have hp := pass_of (x := (((at64 peerVa).formTarget c0 (thr64 4 peerVa) (atoms (glob 4))).2).allow c0 1 1 1
    (BitVec.ofNat 64 peerVa)) (by decide +kernel)
  obtain ⟨s₂, hs⟩ := hp
  exact ⟨_, s₂, clean_of (by decide +kernel) _ _ _, ok_pair (by decide +kernel), by decide +kernel, by decide +kernel, hs⟩

theorem witness_AtomicJoinsALane :
    let r1 : ThreadRef := { core := 0, who := .caster 1 }
    let x := State.sendPeer (at64 peerVa) 1 0x1000 (.thread r1) 0 .atomic 3 [] false [.op .add .i32 0] 4
    (x.1.peerLane? c0 1 0x1000 (.op .add .i32 0)) = some x.2 := by decide +kernel

theorem witness_Barriers :
    (∃ s₁, Clean (user thr) thr always (baseSrc own0 ++ [(src 1, 1)]) [] [] ∧ Issues (user thr) thr always (baseSrc own0) [(1, 1)] [] ∧
      (user thr).formTarget r0 thr (barAccess own0) = (.ok (.scratch 0 0 0 false), s₁) ∧
      s₁.opMayIssue r0 thr (some .task) = true ∧ s₁.opMayIssue r0 thr none = true ∧ s₁.busy (.scratch 0 0 0 false) = false ∧
      (s₁.opRead 0 true (.scratch 0 0 0 false) 8).2.1 = false) ∧
    (0 < 1 ∧ 1 < 2 ^ 28) ∧ (2 ^ 28 - 2 < 2 ^ 28 - 1 ∧ 2 ^ 28 - 1 < 2 ^ 28) :=
  ⟨⟨_, clean_of ready_user _ _ _, issues_of ready_user _ _ _, ok_pair (by decide +kernel), by decide +kernel⟩, by decide,
    by decide⟩

/-- The words of a deque descriptor at its home: LOGCAP 1, BUF 0x2000, TOP 5 and BOTTOM as given. -/
def dequeLine (bottom : Nat) : List Byte :=
  [0x0103, 0x2000, 5, bottom, 0, 0, 0, 0].flatMap (leBytes 8)

/-- A Caster thread with a steal pending at a descriptor whose BOTTOM is given. -/
def stealing (bottom : Nat) : Thread × State :=
  let p := opPend (caster thr) .atomic 2 2 (some 1) 0x1000 (some (.mem 0x1000, .dq .steal 1 ((caster thr).accessor c0))) true false .dev .b64 none
  let t := { thr with pend := [p] }
  (t, { caster t with mem := (caster t).mem.write 0x1000 (dequeLine bottom) })

/-- Whether a deque operation is done, with a value that is not poisoned. -/
def isDone : State.DqEnd → Bool
  | .done _ _ pois => !pois
  | .fail _ => false
  | .wait => false

/-- A wait for word 0 of the own scratchpad to differ from 0. -/
def wordWait : AddrWait :=
  { target := .scratch 0 0 0 false, va := 0, size := .b32, acq := false, scope := .thr, dst := 1, expected := 0, timeout := 1
    asked := none }

theorem witness_DequesAndWaits :
    (∃ s₁, let t := (thr64 4 0x1000).setReg 6 24
      Clean (caster t) t always (baseSrc (lineRef (src 4) 0) ++ [(src 4, 2), (src 6, 1)]) [(2, 2)] [1] ∧
      (caster t).dequeTarget c0 t (lineRef (src 4) 0) = (.ok (.mem 0x1000), s₁) ∧ s₁.opMayIssue c0 t (some .dev) = true ∧
      s₁.opMayIssue c0 t none = true ∧ 1 ≤ (t.reg 6).toNat ∧ (t.reg 6).toNat ≤ 24 ∧ (t.reg64 4).toNat % 8 = 0) ∧
    (∀ b ∈ [5, 6, 7], let s := (stealing b).2
      s.coresRun = true ∧ ((stealing b).1.pend.zipIdx.find? fun (p, _) => p.op.isSome).isSome = true ∧ s.pageBusy 0x1000 = false ∧
      (s.readHome 0x1000 64) = (dequeLine b, false) ∧ State.dequeOf? (dequeLine b) = some (1, 0x2000, 5, b)) ∧
    isDone ((stealing 6).2.dequeStep ((caster thr).accessor c0) 0x1000 0x1000 .steal).1 = true ∧
    (∃ s₁ s₂, Clean (user thr) thr always (baseSrc own0 ++ [(src 1, 1), (src 2, 1)]) [(3, 1)] [] ∧ thr.woken ≠ some thr.pc ∧
      (user thr).formTarget r0 thr { m := own0, size := 4, watch := .rd, kind := .read, atom := true } =
        (.ok (.scratch 0 0 0 false), s₁) ∧ State.accessWaits thr = false ∧
      s₁.waitRead r0 (.scratch 0 0 0 false) .b32 = (some (0, false), s₂)) ∧
    ∃ s₁ s₂, let t := { thr with state := .waitaddr wordWait }
      (user t).coresRun = true ∧ (user t).thread? r0 = some t ∧ t.state = .waitaddr wordWait ∧ wordWait.asked = none ∧
      (user t).retarget r0 wordWait = (.ok wordWait, s₁) ∧ s₁.waitRead r0 wordWait.target wordWait.size = (some (0, false), s₂) :=
  ⟨⟨_, clean_of (by decide +kernel) _ _ _, ok_pair (by decide +kernel), by decide +kernel⟩, by decide +kernel,
    by decide +kernel,
    ⟨_, _, clean_of ready_user _ _ _, by decide, ok_pair (by decide +kernel), by decide, pair_of (by decide +kernel)⟩,
    ⟨_, _, by decide +kernel, by decide +kernel, rfl, rfl, ok_pair (by decide +kernel), pair_of (by decide +kernel)⟩⟩

theorem witness_AllowanceInstructions :
    let s := reached (user (thr32 1 1))
    Clean s (thr32 1 1) always [(src 1, 1)] [(2, 1)] [7] ∧ ((thr32 1 1).reg 1).toNat ≤ 63 ∧
    s.allowanceWord 1 true = 1 ∧ (s.allowanceWord 1 true).getLsbD 31 = false ∧ (s.allowanceWord 63 true).getLsbD 31 = true ∧
    s.allowanceWord 0 true = 0x00FFFFFF ∧ ((thr32 1 63).reg 1).toNat ≤ 63 :=
  ⟨clean_of (by decide +kernel) _ _ _, by decide +kernel⟩

/-! ## Witnesses: copies, collectives, the Crucible -/

/-- A copy of 160 bytes of the own scratchpad from 1024 on to 0, at its start. -/
def ownCopy : Copy :=
  { id := 0, place := 0, tidx := 0, dsp := .own, ssp := .own, swz := 0, dig := false, fill := false, len := 160, dst := 0, src := 1024
    prog := 0, state := .running, dstPage := none, srcPage := none, hash := shaInit, hpois := false, told := false, buf := []
    sending := 0, asked := none, flits := 0, resDev := 0, acc := (user thr).accessor r0 }

/-- The user thread with a copy in its core's table. -/
def copying (c : Copy) : State := onCore (user thr) fun k => { k with copies := [c] }

theorem witness_CopyInstructions :
    (let s := user (thr32 3 64);
      ∃ k, Clean s (thr32 3 64) always [(src 1, 1), (src 2, 1), (src 3, 1)] [(1, 1)] [] ∧
      (64 % 16 = 0 ∧ s.copyRange r0 .own 0 0 (64 + if true then 64 else 0) = .ok () ∧ s.copyRange r0 .own 0 0 64 = .ok ()) ∧
      s.core? 0 = some k ∧ State.freeCopyId? k = some 0 ∧ ((thr32 3 64).queue = [] ∧ State.accessWaits (thr32 3 64) = false ∧
        (s.knownPeer? r0 .own 0).isNone = true)) ∧
    (let s := { at64 peerVa with
                tlb := [{ core := 0, asid := 0, ptroot := 0, vpn := peerVa / 4096, level := 0, pte := 0xDF, page := .peer 1 0x1000 }] };
      (s.knownPeer? c0 .global (BitVec.ofNat 64 peerVa)) = some 1 ∧
      (s.unreach 1 = false ∧ (State.unreach (s.modDest 1 fun e => { e with unreach := true }) 1) = true) ∧
      ∃ s₁, s.allow c0 1 (min ((16 + 63) / 64) 16) 0 (BitVec.ofNat 64 peerVa) = .pass s₁) ∧
    Clean (copying ownCopy) thr always [(src 31, 1)] [(2, 1)] [] ∧ (thr.reg 31).toNat ≤ 31 ∧
    (copying ownCopy).ownCopy? r0 0 = some ownCopy ∧ (user thr).ownCopy? r0 0 = none :=
  ⟨⟨_, clean_of (by decide +kernel) _ _ _, ⟨by decide, unit_ok (by decide +kernel), unit_ok (by decide +kernel)⟩, rfl,
      by decide +kernel, by decide +kernel⟩,
    ⟨by decide +kernel, by decide +kernel, pass_of (by decide +kernel)⟩, clean_of (by decide +kernel) _ _ _, by decide +kernel⟩

def isFault {α : Type} : Except (Option Trap) α → Bool
  | .error (some _) => true
  | _ => false

theorem err_pair {σ α : Type} {x : Except (Option Trap) α × σ} (h : isFault x.1 = true) : ∃ e s, x = (.error (some e), s) := by
  obtain ⟨(_ | e) | b, s⟩ := x
  · simp [isFault] at h
  · exact ⟨e, s, rfl⟩
  · simp [isFault] at h

/-- A stopped copy of Caster thread 0. -/
def casterCopy : Copy :=
  { ownCopy with place := casterPlace, state := .stopped (some { kind := .pageNp, sub := 0x01 }), acc := (caster thr).accessor c0 }

theorem witness_CopyEngine :
    ((copying ownCopy).copy? 0 0 = some ownCopy ∧ (copying ownCopy).coresRun = true ∧ ownCopy.dig = false ∧ ownCopy.prog < ownCopy.len) ∧
    (let c := { ownCopy with dig := true, len := 128 };
      (copying c).copy? 0 0 = some c ∧ c.prog + 128 ≤ c.len) ∧
    (let c := { ownCopy with prog := 160 };
      (copying c).copy? 0 0 = some c ∧ c.prog = c.len ∧ (copying c).copyAsks 0 0 = false) ∧
    (let c := { ownCopy with dig := true, prog := 128 };
      (copying c).copy? 0 0 = some c ∧ c.len < c.prog + 128) ∧
    (∃ s₁ s₂, (copying ownCopy).sideAt 0 ownCopy false 0 = (.ok (.scratch 0 0 1024 false), s₁) ∧
      (s₁.holdPage 0 ownCopy false 0 (.scratch 0 0 1024 false)).sideAt 0 ownCopy true 0 = (.ok (.scratch 0 0 0 false), s₂)) ∧
    (let c := { ownCopy with ssp := .global, src := 0 };
      (copying c).copy? 0 0 = some c ∧ ∃ x s₁, (copying c).sideAt 0 c false 0 = (.error (some x), s₁)) ∧
    (let x : Trap := { kind := .pageNp, sub := 0x01 };
      let c := { ownCopy with state := .stopped (some x) };
      (copying c).thread? r0 = some thr ∧ (copying c).reportable r0 thr = true ∧ thr.stop = none ∧ thr.later = [] ∧ thr.fails = [] ∧
      (copying c).stoppedCopy? r0 = some (c, x) ∧ ((copying c).withdraw r0).drained r0 = true) ∧
    (let s := onCore (caster thr) fun k => { k with copies := [casterCopy] };
      s.thread? c0 = some thr ∧ s.reportable c0 thr = true ∧
      s.stoppedCopy? c0 = some (casterCopy, { kind := .pageNp, sub := 0x01 })) ∧
    (ownCopy.buf = [] ∧ ownCopy.fail = none ∧ (copying ownCopy).copyAsks 0 0 = false) :=
  ⟨by decide +kernel, by decide +kernel, by decide +kernel, by decide +kernel,
    ⟨_, _, ok_pair (by decide +kernel), ok_pair (by decide +kernel)⟩, ⟨by decide +kernel, err_pair (by decide +kernel)⟩,
    by decide +kernel, by decide +kernel, by decide +kernel⟩

/-- A descriptor of an all-reduce of one f32 element among this device alone, at 0x2000. -/
def collDesc : List Byte := leBytes 8 (0x10 + 8 * 2 ^ 12) ++ leBytes 8 1 ++ leBytes 8 1 ++ List.replicate 40 0

/-- A Caster thread that names it, with a value of CSTATE in it. -/
def descAt (cstate : Nat) : State :=
  let s := at64 0x2000
  { s with mem := (s.mem.write 0x2000 collDesc).write 0x2038 [BitVec.ofNat 8 cstate] }

theorem witness_Collectives :
    (∃ s₁ s₂ bs, Issues (descAt 0) (thr64 4 0x2000) always [(src 4, 2)] [] [] ∧
      (descAt 0).collTarget c0 (thr64 4 0x2000) (src 4) 0 = (.ok 0x2000, s₁) ∧ (thr64 4 0x2000).queue = [] ∧
      State.accessWaits (thr64 4 0x2000) = false ∧ s₁.peersQuiet c0 = true ∧ s₁.pageBusy 0x2000 = false ∧ s₁.readDesc 0 0x2000 = (bs, false, s₂) ∧
      (s₂.dev = (descAt 0).dev ∧ collBad (descAt 0).dev bs = false ∧
        (collMembers (BitVec.ofNat 64 (recWord bs 1))).filter (· != (descAt 0).dev) = [] ∧ s₂.colls.length < 16)) ∧
    (∀ n ∈ [0, 1, 2, 3, 4], ∃ s₁ s₂ bs, (descAt n).collTarget c0 (thr64 4 0x2000) (src 4) 0 = (.ok 0x2000, s₁) ∧
      s₁.readDesc 0 0x2000 = (bs, false, s₂) ∧ bits (recWord bs 7) 0 8 = n) ∧
    (let c : Coll :=
        { desc := 0x2000, descVa := 0x2000, cop := 0, red := 0, ty := .f32, rm := 0, root := 0, cid := 0, mask := 2 ^ 63 + 1, count := 1
          inbuf := 0x4000, outbuf := 0x5000, core := 0, user := false
          ctx := { ctxn := 0, kslot := 0, asid := 0, ptroot := 0, callring := 0, sigvec := 0 } }
      let s := { caster thr with colls := [c] }
      let t := { s with dests := s.dests.modify 63 fun e => { e with unreach := false } }
      s.coresRun = true ∧ s.colls[0]? = some c ∧ (collMembers c.mask).filter (· != s.dev) = [63] ∧ s.unreach 63 = true ∧ t.unreach 63 = false ∧
      collTwin t c = false ∧ collTwin { s with colls := [c, c] } c = true ∧ collPaused t c = false ∧ (leBytes 4 5).length = c.count * c.ty.width / 8 ∧
      t.bufBusy (t.collAccessor c) c.inbuf 4 .read = false ∧ s.colls[1]? = none ∧
      ∀ q ∈ [s, t, { s with colls := [c, c] }], q.endBusy c (State.collOutSize c q.dev) = false) :=
  ⟨⟨_, _, _, issues_of (by decide +kernel) _ _ _, ok_pair (by decide +kernel), by decide +kernel, by decide +kernel,
      by decide +kernel, by decide +kernel, triple_of (by decide +kernel), by decide +kernel⟩,
    fun n h => ⟨_, _, _, ok_pair (by revert n; decide +kernel), triple_of (by revert n; decide +kernel), by revert n; decide +kernel⟩,
    by decide +kernel⟩

/-- A collective of one f32 element among this device alone, with buffers as given. -/
def running (inbuf outbuf : DWord) : Coll :=
  { desc := 0x2000, descVa := 0x2000, cop := 0, red := 0, ty := .f32, rm := 0, root := 0, cid := 0, mask := 1, count := 1, inbuf, outbuf
    core := 0, user := false, ctx := { ctxn := 0, kslot := 0, asid := 0, ptroot := 0, callring := 0, sigvec := 0 } }

theorem some_pair {α σ : Type} {x : Option α × σ} (h : x.1.isSome = true) : ∃ a s, x = (some a, s) := by
  obtain ⟨_ | a, s⟩ := x
  · simp at h
  · exact ⟨a, s, rfl⟩

theorem witness_CollectiveOutputs :
    (let c := running 0x4000 0x5000;
      let a := (caster thr).collAccessor c;
      let x := (caster thr).readBuf a c.inbuf 4 (4 / 16 + 1);
      ∃ own s₂, x = (some own, x.2) ∧ x.2.dev = (caster thr).dev ∧
        (x.2.send (.collective 0 (own.map Prod.fst) (State.poisonedElems 32 own))).bufFits a c.outbuf 4 (4 / 16 + 1) = (true, s₂) ∧
        s₂.dev = (caster thr).dev ∧ State.collOverlap c (caster thr).dev = false) ∧
    (let c := running 0x4000 (2 ^ 60);
      let a := (caster thr).collAccessor c;
      ∃ s₂, (caster thr).bufFits a c.outbuf 4 (4 / 16 + 1) = (false, s₂)) ∧
    (let c := running (2 ^ 60) 0x5000;
      ∃ s₁, (caster thr).readBuf ((caster thr).collAccessor c) c.inbuf 4 (4 / 16 + 1) = (none, s₁)) ∧
    (let c := running 0 0;
      let one : List (Byte × Bool) := [(1, false), (0, false), (0, false), (0, true)];
      collType c.ty = true ∧ (∀ x ∈ [(0, one), (3, one)], x.2.length = c.count * c.ty.width / 8) ∧ c.ty.isFloat = true ∧
      collType .i32 = true ∧ Ty.isInt .i32 = true ∧ ({ c with cop := 1, root := 3 } : Coll).root ≠ 0 ∧
      [(0, one), (3, one)].find? (fun x => x.1 == 3) = some (3, one) ∧ [(0, one), (3, one)][1]? = some (3, one)) := by
  refine ⟨?_, ⟨_, pair_of (by decide +kernel)⟩, ⟨_, pair_of (by decide +kernel)⟩, by decide +kernel⟩
  intro c a x
  have h : x.1 = some (List.replicate 4 (0, false)) := by decide +kernel
  exact ⟨_, _, pair_of h, by decide +kernel, pair_of (by decide +kernel), by decide +kernel, by decide +kernel⟩

/-- The user thread in the middle of a chain on Crucible 0 that accumulates ta8 into slot 1. -/
def chained : State :=
  onCore (user thr) fun c => { c with crus := c.crus.modify 0 fun k =>
    { k with holder := some (0, 0), last := some (0, 0), chain := some { slot := 1, fmt := .ta8, closed := false } } }

theorem witness_CrucibleInstructions :
    (∃ s₁, (user thr).savedPlane? 0 0 0 0 = none ∧ Issues (user thr) thr always [(src 1, 1)] [] [] ∧
      (let rd := (user thr).operandRead r0 0 (cruAddr thr (src 1) 0) (operandBytes .ta8 64 false);
        imageTrap .ta8 64 false 0 rd.1 = none ∧ rd.2 = none) ∧
      cruFault (user thr) r0 thr (otherChain (user thr) r0 0) [] [(src 1, 0, operandBytes .ta8 64 false)] = none ∧
      otherChain (user thr) r0 0 = false ∧ (user thr).claim 0 0 0 0 = (true, s₁) ∧
      (openChain (user thr) r0 0).isSome = false ∧ cruFault (user thr) r0 thr false [1] [] = none ∧ chainWaits (user thr) r0 [1] = false ∧
      (user thr).scratchOpWaits r0 = false) ∧
    (chained.savedPlane? 0 0 0 0 = none ∧ openChain chained r0 0 = some { slot := 1, fmt := .ta8, closed := false } ∧
      cruFault chained r0 thr false [] [(src 1, 0, operandBytes .ta8 16 false)] = none ∧
      chained.scratchOpWaits r0 = false ∧ otherSteps chained r0 0 1 = false ∧
      ((chained.taskOf? r0).bind fun q => slotPoison q [1]) = none ∧ planePoison (cruOf chained r0 0) 0 48 16 = none) ∧
    ∃ task, (user thr).taskOf? r0 = some task ∧ chainWaits (user thr) r0 [1] = false ∧
      (cruFault (user thr) r0 thr false [1] [(src 1, 0, 1024)] = none ∧ ((user thr).operandRead r0 0 0 1024).2 = none) ∧
      (cruFault (user thr) r0 thr false [1] [(src 1, 0, 256 * ((ofmtTy .f32).w / 8))] = none ∧ rmOf thr .dyn = some .rne ∧
        slotPoison task [1] = none ∧ (user thr).storesMeet r0 0 0 1024 = false) ∧
      (chainWaits (user thr) r0 [0, 1] = false ∧
        cruFault (user thr) r0 thr ((0 : BitVec 8) == 1) [0, 1] [(src 1, 0, 16), (src 2, 0, 16)] = none ∧
        ((user thr).operandRead r0 0 0 16).2 = none ∧ slotPoison task [0, 1] = none) ∧
      (cruFault (user thr) r0 thr false [] [(src 1, 0, imageBytes .ta8 32), (src 2, 0, 64 * 32)] = none ∧
        ((user thr).operandRead r0 0 0 (64 * 32)).2 = none) :=
  ⟨⟨_, by decide +kernel, issues_of ready_user _ _ _, by decide +kernel, by decide +kernel, by decide +kernel, pair_of (by decide +kernel),
      by decide +kernel, by decide +kernel, by decide +kernel, by decide +kernel⟩, by decide +kernel, ⟨_, rfl, by decide +kernel⟩⟩

theorem witness_CrucibleEngine :
    let job : KStepJob := { place := 0, slot := 1, fmt := .ta8, k := 16, act := List.replicate 256 0, rows := List.replicate 256 0 }
    let s := onCore chained fun c => { c with crus := c.crus.modify 0 fun k => { k with jobs := [job] }
                                              work := [{ place := 0, tidx := 0, fills := [0] }] }
    let w := onCore (user thr) fun c => { c with crus := c.crus.modify 1 fun k => { k with waiters := [(0, 0)] } };
    (((s.core? 0).bind fun c => c.cru? 0).map Crucible.jobs = some [job] ∧ ((s.core? 0).map fun c => c.work.length) = some 1) ∧
    (((w.core? 0).bind fun c => c.cru? 1).map fun k => (k.holder, k.waiters)) = some (none, [(0, 0)]) ∧ 15 < 16 := by
  decide +kernel

/-! ## Witnesses: traps, privilege and recovery -/

theorem witness_TrapsRaisedByInstructions :
    (let s := onTask (user thr) fun k => { k with ctx := { k.ctx with callring := 0x8000 } };
      Clean s thr always [({ reg := 2, trap := false }, 6)] [(0, 2)] [] ∧ callRingOf s r0 ≠ 0 ∧ s.drained r0 = true) ∧
    callRingOf (user thr) r0 = 0 ∧ Issues (user thr) thr always [] [] [] ∧ Clean (user thr) thr always [(src 1, 1)] [] [] ∧
    (let t := thr32 61 4032;
      Clean (user t) t always [({ reg := 61, trap := false }, 1)] [(0, 4), (61, 3)] [] ∧ (t.reg 61).toNat % 2 ^ 20 % 16 = 0 ∧
      State.accessWaits t = false ∧ ((user t).task? 0 0).map Task.scratch = some ((t.reg 61).toNat % 2 ^ 20 + 64) ∧
      (let rd := (user t).scratchRead 0 0 4032 64;
        let fw := forwarded t.queue (.scratch 0 0 4032 false) rd.1 rd.2;
        (fw.2.take 12).any id = false ∧ pcBad (BitVec.ofNat 64 (leNat (fw.1.take 8))) = false)) :=
  ⟨⟨clean_of (by decide +kernel) _ _ _, by decide +kernel⟩, by decide +kernel, issues_of ready_user _ _ _, clean_of ready_user _ _ _,
    clean_of (by decide +kernel) _ _ _, by decide +kernel⟩

theorem witness_PrivilegedInstructionsOfUsersTrap :
    (user thr).issuer.who = .user 0 0 ∧ Issues (user thr) thr { neg := false, q := 0 } [] [] [] ∧
    ∃ g, Instr.rfe never = .rfe g := ⟨rfl, issues_of ready_user _ _ _, never, rfl⟩

/-- A key staged in slot 1, and one installed in slot 255. -/
def keyed (s : State) : State :=
  { s with keys := [{ slot := 1, key := none, staged := some 7, ctr := 0, window := [], last := none, past := [] },
                    { slot := 255, key := some 9, staged := none, ctr := 0, window := [], last := some 9, past := [] }] }

theorem witness_ReturnHaltAndKeys :
    ((caster thr).issuer.who = .caster 0 ∧ Issues (caster thr) thr always [] [] [] ∧ (caster thr).releaseReady c0 .dev = true ∧
      (caster thr).drained c0 = true ∧ (caster thr).releaseReady c0 .sys = true ∧
      Clean (caster thr) thr always (tlbSrcs (.asidva (src 2) (src 1))) [] [] ∧
      (caster thr).shootWaits { direct := false, tlbk := 2, asid := 0, va := 0 } = false) ∧
    (∀ k ∈ [0, 1, 2, 255, 256], ready (keyed (caster (thr32 1 k))) (thr32 1 k) = true ∧ ((thr32 1 k).reg 1).toNat = k) ∧
    (let s := keyed (caster thr);
      (s.keySlot 1).staged = some 7 ∧ (s.keySlot 1).key = none ∧ (s.keySlot 2).staged = none ∧ (s.keySlot 255).key.isSome = true ∧
      (s.cores.any fun c => c.tasks.any fun p => p.2.ctx.kslot.toNat == 255 && !p.2.threads.isEmpty) = false) ∧
    let s := onTask (keyed (user thr)) fun k => { k with ctx := { k.ctx with kslot := 255 } };
    (s.cores.any fun c => c.tasks.any fun p => p.2.ctx.kslot.toNat == 255 && !p.2.threads.isEmpty) = true :=
  ⟨⟨rfl, issues_of ready_caster _ _ _, by decide +kernel, by decide +kernel, by decide +kernel, clean_of ready_caster _ _ _,
      by decide +kernel⟩, by decide +kernel, by decide +kernel, by decide +kernel⟩

/-- Caster thread 0 with a number in v2:v3, beside a user task of core 0 whose thread is the one given. -/
def serving (x : Nat) (t : Thread) : State :=
  onCore (caster (thr64 2 x)) fun c => { c with tasks := [(0, { placedTask with threads := [t], scratch := 16, accslots := 0 })] }

/-- The handle of the thread in place 0 of core 0 at its first generation. -/
def handle0 : Nat := 0x80000000

/-- A fault record of that thread. -/
def rec0 : FaultRec :=
  { tidx := 0, core := 0, trap := { kind := .brk, sub := 3 }, pc := thr.pc, handle := BitVec.ofNat 32 handle0, lid := 0, time := 0 }

def isOk : State.Transfer → Bool
  | .ok => true
  | .trap _ | .check | .wait => false

theorem ok_target {x : State.Transfer × State} (h : isOk x.1 = true) : ∃ s₁, x = (.ok, s₁) := by
  obtain ⟨_ | _ | _ | _, s₁⟩ := x <;> simp_all [isOk]

theorem witness_RiserResumeAndContexts :
    (let s := onCore (serving 0x10000 thr) fun c => { c with riser := [rec0] };
      Clean s (thr64 2 0x10000) always [(src 2, 2)] [(1, 1)] [] ∧ (s.core? 0).map State.shownRecords = some [rec0] ∧
      ((thr64 2 0x10000).reg64 2).toNat = 0x10000 ∧ s.paOk 0x10000 64 = true ∧ s.paOk 0x10010 64 = false ∧
      ((serving 0x10000 thr).core? 0).map State.shownRecords = some []) ∧
    (∀ st ∈ [BState.riser, .syscall 5], let u := { thr with state := st }
      ready (serving handle0 u) (thr64 2 handle0) = true ∧
        liveNamed? (serving handle0 u) 0 ((thr64 2 handle0).reg 2) = some (r0, u)) ∧
    (liveNamed? (serving 0 thr) 0 ((thr64 2 0).reg 2) = none ∧ inRiser { thr with state := .riser } = true ∧
      inCall { thr with state := .syscall 5 } = true ∧ inRiser thr = false ∧ inCall thr = false) ∧
    (let u := { thr with state := .riser };
      ∃ s₁, successor (serving handle0 u) r0 u.pc = (some (thr.pc + 1), s₁)) ∧
    (∃ s₁, (serving handle0 { thr with state := .syscall 5 }).checkTarget r0 thr.pc = (.ok, s₁)) ∧
    (let s := serving 0x10000 thr;
      let t := (thr64 2 0x10000).setReg 6 (BitVec.ofNat 32 handle0)
      let s := s.modThread c0 fun _ => t
      let q := fun k => (State.threadRefs 0 0 k).foldl State.quiet (s.stopIssue 0 0 0 k);
      ∃ c k, Clean s t always [(src 2, 2), (src 6, 1)] [(1, 1)] [] ∧ s.core? 0 = some c ∧ s.named? 0 (t.reg 6) = some (0, 0) ∧
        s.task? 0 0 = some k ∧ k.threads.length = 1 ∧ s.paOk 0x10000 (256 + (s.shellSizes 0 0 c k).body) = true ∧ k.ctx.kslot = 0 ∧
        k.saver = none ∧ (State.threadRefs 0 0 k).all (q k).quietNow = true ∧ (q k).copySends 0 0 = false) ∧
    (let s := (serving 0x10000 thr);
      let t := thr64 2 0x10000
      Clean s t always [(src 2, 2)] [(4, 2)] [] ∧ s.paOk 0x10000 256 = true ∧
      (let x := s.devLoad 0x10000 256;
        (State.headerOk x.1 && x.2.2.paOk 0x10000 (256 + (State.headerSizes x.1).body)) = false ∧
        (x.2.2.shellCheck 0 0x10000 x.1 x.2.1).toOption = none) ∧
      let v := { s with
        ctxTable := Memory.write [] 0 (leBytes 8 (2 ^ 63))
        mem := s.mem.write 0x10000 (match s.core? 0, s.task? 0 0 with
          | some c, some k => s.sealShell 0 none 0 (s.shellHeader 0 0 c k 0) (s.shellBody 0 0 c k)
          | _, _ => []) };
      Clean v t always [(src 2, 2)] [(4, 2)] [] ∧ (let x := v.devLoad 0x10000 256;
        (State.headerOk x.1 && x.2.2.paOk 0x10000 (256 + (State.headerSizes x.1).body)) = true ∧
        ((x.2.2.devLoad (0x10000 + 256) (State.headerSizes x.1).body).2.2.shellCheck 0 0x10000 x.1 x.2.1).toOption.isSome = true)) :=
  ⟨⟨clean_of (by decide +kernel) _ _ _, by decide +kernel⟩, by decide +kernel, by decide +kernel, ⟨_, pair_of (by decide +kernel)⟩,
    ok_target (by decide +kernel),
    ⟨_, _, clean_of (by decide +kernel) _ _ _, rfl, by decide +kernel, rfl, by decide +kernel⟩,
    ⟨clean_of (by decide +kernel) _ _ _, by decide +kernel, by decide +kernel, clean_of (by decide +kernel) _ _ _, by decide +kernel⟩⟩

/-- A Caster thread whose v4:v5 names 1 KiB at 8 MiB. -/
def planning (f : State → State) : State := f (caster (thr64 4 0x800000))

theorem witness_SignalsPlansAndBias :
    (let t := (thr64 2 handle0).setReg 6 63;
      let s := (serving handle0 thr).modThread c0 fun _ => t
      Clean s t always [(src 2, 1), (src 6, 1)] [(1, 1)] [] ∧ (t.reg 6).toNat = 63 ∧
      liveNamed? s 0 (t.reg 2) = some (r0, thr) ∧ thr.signal = none ∧ liveNamed? s 0 (t.reg 1) = none) ∧
    (63 < ((thr32 6 64).reg 6).toNat ∧ liveNamed? (serving handle0 { thr with signal := some 5 }) 0 (BitVec.ofNat 32 handle0) =
      some (r0, { thr with signal := some 5 })) ∧
    (let s := planning id;
      Clean s (thr64 4 0x800000) always [(src 4, 2)] [(1, 1)] [] ∧ s.commit = none ∧ s.staged = none ∧ s.paOk 0x800000 1024 = true ∧
      s.paOk 0x800001 1024 = false) ∧
    ((planning fun s => { s with staged := some [] }).staged = some []) ∧
    (let s := planning fun s => { s with commit := some { plan := [], changing := [0], affected := [1], dark := false } };
      s.commit.isSome = true ∧ Clean s (thr64 4 0x800000) always [(src 4, 2)] [(1, 1)] []) ∧
    (Clean (caster (thr32 4 0)) (thr32 4 0) always [(src 4, 1)] [(1, 1)] [] ∧ (∀ f ∈ (caster (thr32 4 0)).flips, f.waiter ≠ some (c0, 1)) ∧
      ((thr32 4 0).reg 4).toNat * 4096 < (caster (thr32 4 0)).part.hbmBytes) :=
  ⟨⟨clean_of (by decide +kernel) _ _ _, by decide +kernel⟩, by decide +kernel, ⟨clean_of (by decide +kernel) _ _ _, by decide +kernel⟩,
    by decide +kernel, ⟨by decide +kernel, clean_of (by decide +kernel) _ _ _⟩, clean_of (by decide +kernel) _ _ _, by decide +kernel⟩

/-- A thread that waits for the data of a request to device 1. -/
def awaiting : State :=
  { user { thr with pend := [{ pendingAdd with op := none, tag := some 7 }] } with
    reqs := [{ tag := 7, dev := 1, off := 0x1000, owner := .thread r0, va := 0, kind := .load, dst := 1, lane := some 0, issue := 0 }] }

theorem witness_TrapEntryAndReports :
    (let s := (user thr).withdraw r0;
      ∃ c k, s.thread? r0 = some thr ∧ s.task? 0 0 = some k ∧ s.core? 0 = some c ∧ k.cluster = none ∧
      TrapKind.brk ≠ .watch ∧ c.riser.length < 64 ∧ s.drained r0 = true ∧ thr.later = [] ∧ thr.fails = []) ∧
    (let s := awaiting.withdraw r0;
      (s.thread? r0).isSome = true ∧ s.drained r0 = false ∧ ((s.core? 0).map fun c => c.riser.length) = some 0) ∧
    (∃ c k, (caster thr).core? 0 = some c ∧ c.casters[0]? = some k ∧ k.cause = 1) ∧
    (let s := onCore (caster thr) fun c => c.modCaster 0 fun k => { k with cause := 5 };
      ∃ c k, s.core? 0 = some c ∧ c.casters[0]? = some k ∧ k.cause = 5) ∧
    (user thr).coresRun = true ∧
    (let x : Trap := { kind := .peerFault, sub := 0 };
      let stop := { thr with stop := some x }
      let fail := { thr with fails := [(0, x)] }
      let later := { thr with later := [rec0] }
      (user stop).thread? r0 = some stop ∧ (user stop).reportable r0 stop = true ∧
      (user fail).reportable r0 fail = true ∧ fail.later = [] ∧ (user later).reportable r0 later = true ∧ (user later).stoppedCopy? r0 = none ∧
      (user thr).reportable r0 thr = true ∧ (user thr).stoppedCopy? r0 = none) :=
  ⟨⟨_, _, by decide +kernel, rfl, rfl, by decide +kernel⟩, by decide +kernel, ⟨_, _, rfl, rfl, by decide +kernel⟩,
    ⟨_, _, rfl, rfl, by decide +kernel⟩, by decide +kernel, by decide +kernel⟩

/-! ## Witnesses: cores, memory and the fabric -/

theorem witness_LinesDataAndWriteBacks :
    (∃ c, (user thr).coresRun = true ∧ ({ user thr with therm := true } : State).coresRun = false ∧
      (user thr).core? 0 = some c ∧ (user thr).targetOf? (lineOf placedLine) = some (.mem (lineOf placedLine)) ∧
      (user thr).pageBusy (lineOf placedLine) = false ∧ parityOk (((user thr).verify (lineOf placedLine)).homeRead (lineOf placedLine)).1 = true ∧
      (let s := { user thr with mem := (user thr).mem.write placedLine [1] };
        parityOk ((s.verify (lineOf placedLine)).homeRead (lineOf placedLine)).1 = false ∧
        ((s.verify (lineOf placedLine)).iline? 0 (lineOf placedLine)).isNone = true) ∧
      ({ user thr with pslotBusy := some (placedLine / 4096, 0) } : State).pageBusy (lineOf placedLine) = true) ∧
    ((user thr).thread? r0 = some thr ∧ (user thr).canIssue r0 thr = true ∧ thr.yielded = false ∧ thr.wait < 2048 ∧
      2048 ≤ { thr with wait := 2048 }.wait) ∧
    (let a : Arrived := { value := 5, poison := 0, pred := some (1, true) };
      let p : Pend := { pendingAdd with op := none, got := some a }
      let t := { thr with pend := [p] }
      (user t).thread? r0 = some t ∧ t.pend[0]? = some p ∧ p.got = some a) ∧
    (let l : L1Line := { pa := 0x800000, data := List.replicate 64 1, dirty := 1, pois := 0, owned := true };
      let s := onCore (user thr) fun c => { c with l1 := [l] }
      let w := onCore (user thr) fun c => { c with wbacks := [l], subs := [{ target := .mem 0x800000, users := [(0, 0)] }] };
      ∃ c d, s.core? 0 = some c ∧ s.l1Line? 0 0x800000 = some l ∧ c.subs = [] ∧ c.holdsLine 0x800000 = false ∧ d.holdsLine 0x800000 = true ∧
      w.core? 0 = some d ∧ d.wbacks.find? (·.pa == 0x800000) = some l ∧ w.pageBusy 0x800000 = false ∧
      (∃ u ∈ d.subs, u.target = .mem 0x800000) ∧ ∀ v ∈ d.subs, v.target = .mem 0x800000) :=
  ⟨⟨_, by decide +kernel, by decide +kernel, rfl, by decide +kernel⟩, by decide +kernel, by decide +kernel,
    ⟨_, _, rfl, by decide +kernel, by decide +kernel, by decide +kernel, by decide +kernel, rfl, by decide +kernel, by decide +kernel,
      by decide +kernel, by decide +kernel⟩⟩

/-- A request of the user thread to device 1. -/
def asked : PeerReq :=
  { tag := 7, dev := 1, off := 0x1000, owner := .thread r0, va := 0, kind := .load, dst := 3, lane := some 0, issue := 0 }

theorem witness_CreditsAndResponses :
    (let s := { user thr with reqs := [asked] };
      (s.reqs.find? fun x => x.tag == asked.tag) = some asked ∧ asked.owner = .thread r0 ∧ (s.reqs.find? fun x => x.tag == 8) = none) ∧
    (let q := { asked with owner := .sub r0 };
      (({ user thr with reqs := [q] } : State).reqs.find? fun x => x.tag == q.tag) = some q ∧ q.owner = .sub r0) ∧
    ((user thr).dest 1).reqOut = 0 ∧ (((user thr).modDest 1 fun e => { e with reqOut := 1 }).dest 1).reqOut = 1 := by decide +kernel

theorem witness_PeerRequests :
    let s := user thr
    s.servesPeer 63 = true ∧ (0 < 64 ∧ 0x800000 % 64 + 64 ≤ 64) ∧ s.peerRefusal s.part.hbmBytes 4 = some .unmapped ∧
    s.peerRefusal 0 8 = some .refused ∧ ({ s with marked := [2048] } : State).peerRefusal 0x800000 4 = some .notPresent ∧
    (s.peerRefusal 0x800000 64 = none ∧ s.serveWaits 63 0x800000 64 = false ∧ s.lanesOff 63 = false ∧ (63, 0x800000) ∉ s.peerSubs ∧
      ({ s with pslotBusy := some (2048, 0) } : State).serveWaits 63 0x800000 64 = true) ∧
    (let o : PeerAtom := .cas .i64 0 1;
      let m : Rmw := .cas .i64 0 1
      State.atomTyOk m.ty = true ∧ m.bytes = 8 ∧ State.atomBytes o = 8 ∧ s.peerRefusal 0x800038 m.bytes = none ∧
        0x800038 % m.bytes = 0 ∧ (s.readHome 0x800038 m.bytes).2 = false ∧ m.new 1 = none ∧ m.new 0 = some 1) ∧
    (s.peerRefusal 0x80003C 4 = none ∧ 0x80003C % 4 = 0) ∧
    (({ s with mpois := [0x80003] } : State).readHome 0x800038 8).2 = true ∧ State.atomTyOk .n32 = true := by decide +kernel

theorem witness_FlitsAndLanes :
    (let s := user thr;
      s.servesPeer 63 = true ∧ s.linksUp = true ∧ ({ s with rails := .down } : State).linksUp = false ∧
      s.health.lanesDown.has (laneKey 63 7 false) = false ∧ s.health.lanesDown.has (laneKey 63 7 true) = false ∧
      countAt s.health.resends 511 < 8 ∧ State.reached (countAt s.health.lanes 511 + 1) s.thresholds.optical = false ∧
      8 ≤ countAt ({ s with health := { s.health with resends := [(511, 8)] } } : State).health.resends 511 ∧
      ({ s with health := { s.health with lanesDown := [511] } } : State).health.lanesDown.has (laneKey 63 7 false) = true) ∧
    (let e : LaneSeq := { dev := 63, lane := 7, sent := 0, next := 3, held := [(4, .read 0x800000 64)] };
      let s := { user thr with seqs := [e] }
      s.laneSeq 63 7 = e ∧ 2 < e.next ∧ e.next < 5 ∧ (∀ h ∈ e.held, e.next < h.1 ∧ h.1 ≠ 5) ∧
      State.flitReach (.read 0x800000 64) = some (0x800000, 64) ∧ s.serveWaits 63 0x800000 64 = false) := by decide +kernel

theorem witness_ReplanningOfLanes :
    let c (dark : Bool) (late : Option (List Nat)) : Commit := { plan := [], changing := [0], affected := [1], dark, late }
    let s (c : Commit) : State := { user thr with commit := some c }
    ((s (c false none)).commit = some (c false none) ∧ (c false none).dark = false) ∧
    ((s (c true none)).commit = some (c true none) ∧ (c true none).late = none ∧ (c true (some [1])).late ≠ none ∧
      (c true none).affected.filter [1].contains ≠ [] ∧ (c true none).affected.filter [2].contains = []) ∧
    (user thr).linksUp = true ∧ 63 ≠ (user thr).dev ∧ (user thr).commit = none ∧
    (let t (x : State) (p : Nat) : State :=
        let y := x.takeReport p []; y.send (.relockReport ((y.lockedIn.map Prod.fst).filter fun l => l.dev == p));
      (t (user thr) 63).undecided 63 = false ∧ (t (s (c true (some [1]))) 1).undecided 1 = true ∧
      ((t (s (c true (some [1]))) 1).commit.any fun c => c.late.isSome) = true ∧ (t (s (c true none)) 1).undecided 1 = true ∧
      ((t (s (c true none)) 1).commit.any fun c => c.late.isNone) = true) := by decide +kernel

/-! ## Witnesses: launches, tasks, Caster threads -/

/-- The 128 bytes of a launch of one thread on core 0, entry at the placed line. -/
def recBytes : List Byte :=
  leBytes 8 1 ++ leBytes 8 placedLine ++ leBytes 8 0 ++ leBytes 8 (2 ^ 32 + 3 * 2 ^ 48) ++ leBytes 8 16 ++
    leBytes 8 (1 + 2 ^ 21 + 2 ^ 42) ++ leBytes 8 (1 + 2 ^ 16 + 2 ^ 32) ++ List.replicate 40 0 ++
    leBytes 8 (32 * 2 ^ 32) ++ List.replicate 24 0

/-- A launch of that record. -/
def launch0 (state : LState) : Launch :=
  { no := 5, pa := 0x800000, va := 0x800000, ctxn := 0, asid := 0, ptroot := 0, kslot := 0, queue := none
    desc := parseRec recBytes, state, age := 0, order := 0
    runners := if state = .dispatched then [{ lo := 0, hi := 1, owner := 0, made := 0 }] else [], live := 0, shells := []
    frozen := false }

/-- The device with that launch, its record in memory and a valid context 0. -/
def launching (state : LState) (f : Core → Core) : State :=
  let s := device f
  { s with launches := [launch0 state], launchNo := 6, ctxTable := Memory.write [] 0 (leBytes 8 (2 ^ 63))
           mem := s.mem.write 0x800000 recBytes }

/-- The device with a doorbell's queue 1023 over a descriptor at 8 MiB. -/
def ringing : State :=
  let s := device id
  { s with queueTable := Memory.write [] (32 * 1023) (leBytes 8 (2 ^ 63) ++ leBytes 8 0x800000)
           mem := s.mem.write 0x800000 (leBytes 8 (2 + 16 * 256) ++ leBytes 8 0x900000) }

theorem witness_QueuesAndDispatch :
    (let w := fun i => ringing.queueTable.nat (32 * 1023 + 8 * i) 8;
      let a := contextAccessor 0 0 0 0
      let x := ringing.devRead a 0x800000 64
      let d := recWord (x.1.getD [])
      ringing.stage = 7 ∧ ringing.health.failed = false ∧ (w 0).testBit 63 = true ∧ bits (w 0) 10 53 = 0 ∧ bits (w 3) 32 32 = 0 ∧
      w 1 = 0x800000 ∧ ringing.context (w 0 % 2 ^ 10) = { ctxn := 0, kslot := 0, asid := 0, ptroot := 0, callring := 0, sigvec := 0 } ∧
      x.1.isSome = true ∧ d 0 = 2 + 16 * 256 ∧ d 2 < 2 ^ 32 ∧ d 3 < 2 ^ 32 ∧ (∀ i ∈ [4, 5, 6, 7], d i = 0) ∧
      (x.2.devTranslate a (0x800000 + 24) .write).1 = some 0x800018 ∧
      (x.2.consume a 1023 0 0x800000 0x900000 16 0 0).devWaits = false ∧
      ({ ringing with devWaits := true } : State).devWaits = true) ∧
    (let s := launching .ready id;
      State.firstLaunch (s.launches.filter fun l => l.state == .ready) = some (launch0 .ready) ∧
      s.pieces (launch0 .ready).desc = [0] ∧ s.ctxValid 0 = true ∧ (launch0 .ready).desc.nrun = 0 ∧
      (launch0 .ready).desc.nshell = 0 ∧ s.runnerCount + 1 ≤ 4096 ∧ s.coresRun = true ∧ s.health.failed = false) := by
  decide +kernel

theorem witness_TasksStartAndRetire :
    (let s := launching .dispatched id;
      let l := launch0 .dispatched;
      ∃ c, s.coresRun = true ∧ s.health.failed = false ∧ s.stage = 7 ∧ s.nextLaunch 0 = some (l, 0, 0, 1, []) ∧
      l.desc.clusterCores = 1 ∧ State.positionCores l.desc 0 = [0] ∧ s.ctxValid 0 = true ∧ s.dispatchable 0 = true ∧
      s.core? 0 = some c ∧ c.fits l.desc.threads l.desc.scratch l.desc.accslots = true ∧ c.freePlace? = some 0) ∧
    (let s := user { thr with exited := true };
      ∃ c t, s.core? 0 = some c ∧ s.task? 0 0 = some t ∧ s.coresRun = true ∧ t.cluster = none ∧ t.threads ≠ [] ∧ State.retirable c 0 t = true ∧
      (∀ x ∈ t.threads, x.queue = [] ∧ x.pend = []) ∧ s.canFlush 0 = true) :=
  ⟨⟨_, by decide +kernel, by decide +kernel, rfl, by decide +kernel, by decide +kernel, by decide +kernel, by decide +kernel,
      by decide +kernel, rfl, by decide +kernel, by decide +kernel⟩,
    ⟨_, _, rfl, rfl, by decide +kernel, by decide +kernel, by decide +kernel, by decide +kernel, by decide +kernel,
      by decide +kernel⟩⟩

/-- A Caster thread that launches that record. -/
def launcher : State :=
  let s := caster (thr64 4 0x800000)
  { s with mem := s.mem.write 0x800000 recBytes }

theorem witness_ThreadLaunchesAndPreemption :
    (Clean (caster (thr64 4 64)) (thr64 4 64) always [(src 4, 2)] [] [] ∧
      (formAddr (thr64 4 64) (lineRef (src 4) 0)).toNat % 128 ≠ 0) ∧
    (let t := thr64 4 0x800000;
      let s := user t
      Clean s t always [(src 4, 2)] [] [] ∧ (formAddr t (lineRef (src 4) 0)).toNat % 128 = 0 ∧
      (s.devTranslate (s.accessor r0) 0x800000 .read).1 = none ∧ (s.devTranslate (s.accessor r0) 0x800000 .read).2.devWaits = false) ∧
    (let x := launcher.devTranslate (launcher.accessor c0) 0x800000 .read;
      let y := (caster (thr64 4 0x800000)).devTranslate (launcher.accessor c0) 0x800000 .read
      let z := x.2.devLoad 0x800000 128
      Clean launcher (thr64 4 0x800000) always [(src 4, 2)] [] [] ∧ x.1 = some 0x800000 ∧ x.2.devWaits = false ∧
      x.2.releaseReady c0 .dev = true ∧ z.2.1 = false ∧ recFault z.2.2.part z.1 = none ∧
      recFault y.2.part (y.2.devLoad 0x800000 128).1 = some 0x01 ∧
      (({ x.2 with mpois := [0x80000] } : State).devLoad 0x800000 128).2.1 = true ∧ launcher.launches = [] ∧
      recFault launcher.part recBytes = none ∧
      (let c := launchContext z.2.2 c0; (z.2.2.submit c.1 c.2 none 0x800000 0x800000 z.1).devWaits = false)) ∧
    (let s := launching .suspended id;
      (∀ l ∈ s.launches, l.pa = 0x800000 → l.state ≠ .aborted) ∧
      (s.launches.find? fun l => l.pa == 0x800000) = some (launch0 .suspended)) ∧
    (let s := launching .dispatched id;
      let v : DWord := 0x800001
      let x := s.devLoad 0x800000 128
      let d := parseRec x.1
      s.devWaits = false ∧ (x.2.2.devWords d.shellptr d.shcap).2.devWaits = false ∧ x.2.2.preempt = none ∧ v.getLsbD 0 = true ∧ (s.launches.find? fun l => l.pa == 0x800000 && l.state == .dispatched) = some (launch0 .dispatched) ∧
      32 * 2 ^ ((launch0 .dispatched).desc.logw + (launch0 .dispatched).desc.logh) ≤ d.shcap ∧
      d.runptr < s.part.hbmBytes ∧ d.shellptr < s.part.hbmBytes ∧ d.runptr % 16 = 0 ∧ d.shellptr % 8 = 0) ∧
    (let p : Preempt := { launch := 5, slots := [], kept := [], given := [], written := [] };
      let s := { launching .dispatched id with preempt := some p }
      let t := { launching .dispatched (fun c => { c with tasks := [(0, { placedTask with launch := 5 })] }) with preempt := some p }
      s.preempt = some p ∧ s.endPreempt.devWaits = false ∧ s.resident 5 = false ∧ t.resident 5 = true ∧ s.launch? 5 = some (launch0 .dispatched)) :=
  ⟨⟨clean_of (by decide +kernel) _ _ _, by decide +kernel⟩, ⟨clean_of (by decide +kernel) _ _ _, by decide +kernel⟩,
    ⟨clean_of (by decide +kernel) _ _ _, by decide +kernel⟩, by decide +kernel, by decide +kernel, by decide +kernel⟩

/-- The device with targets at the entries of causes 1 and 4 of core 0. -/
def entered (f : Core → Core) : State :=
  let s := device f
  { s with mem := s.mem.write 0x40 nopLine }

theorem passes_snd {s : State} {r : ThreadRef} {target : DWord}
    (h : (match (s.checkTarget r target).1 with
      | .ok => true
      | _ => false) = true) : s.checkTarget r target = (.ok, (s.checkTarget r target).2) := by
  revert h
  cases s.checkTarget r target with
  | mk a s₁ => cases a <;> simp

/-- A cluster of cores 0 and 1 whose two tasks are to be saved. -/
def saving : State :=
  let wanted (peer : Nat) (c : Core) : Core := { c with
    reqs := [.save 0 (c.gen 0)], tasks := [(0, { placedTask with cluster := some { origin := 0, clw := 1, clh := 0, peer } })] }
  (device (wanted 0)).modCore 1 (wanted 1)

theorem witness_CastersAndMachineChecks :
    (let s := entered fun c => { c with riser := [rec0] };
      ∃ c s₁, s.core? 0 = some c ∧ c.inService = true ∧ s.coresRun = true ∧ s.stage = 7 ∧ nextCause? c = some 1 ∧
      State.idleCaster? c = some 0 ∧
      (s.putStart 0 0 1 0 none).checkTarget c0 (State.casterEntry c 1) = (.ok, s₁) ∧ (s₁.prepare 0 c 1).isSome = true) ∧
    (let s := device fun c => { c with mcheck := [0x02] };
      ∃ c, s.core? 0 = some c ∧ nextCause? c = some 5 ∧ c.mcheck = [0x02] ∧ State.idleCaster? c = some 0) ∧
    (∃ c, (caster thr).core? 0 = some c ∧ c.inService = true ∧ (caster thr).casterAt? 0 thr.pc = some 0) ∧
    (∃ c, saving.core? 0 = some c ∧ nextCause? c = some 4 ∧ State.idleCaster? c = some 0 ∧ saving.mates 0 c = [(1, 0)]) ∧
    ({ user thr with regs := { (user thr).regs with mcmsg := 0x1000 } } : State).regs.mcmsg ≠ 0 := by
  refine ⟨⟨_, _, rfl, by decide +kernel, by decide +kernel, rfl, by decide +kernel, by decide +kernel, passes_snd (by decide +kernel),
    by decide +kernel⟩, ⟨_, rfl, by decide +kernel⟩, ⟨_, rfl, by decide +kernel⟩, ⟨_, rfl, by decide +kernel⟩, by decide +kernel⟩

/-! ## Witnesses: the host and the device -/

theorem witness_HostMemoryAndBias :
    (let s := device id;
      s.linkUp = true ∧ (0 < 64 ∧ 0x800000 % 64 + 64 ≤ 64) ∧ s.hostRefused 0x800000 64 = false ∧ s.hostHeld 0x800000 = false ∧
      s.hostRefused 0 1 = true ∧ s.hostRefused (s.part.hbmBytes - 1) 2 = true ∧ s.health.failed = false ∧ hostBase ≤ 2 ^ 54 ∧
      ({ s with pslotBusy := some (2048, 0) } : State).hostHeld 0x800000 = true) ∧
    (let s := device id;
      2 ^ 27 - 1 < 2 ^ 27 ∧ 2048 * 4096 < s.part.hbmBytes ∧ s.flips = [] ∧ s.hostBias.has 2048 = false ∧
      ({ s with hostBias := [2048] } : State).hostBias.has 2048 = true) ∧
    (let f : Flip := { page := 2048, toHost := false, byHost := true, waiter := none, lines := List.range 64 };
      let g : Flip := { page := 2048, toHost := false, byHost := true, waiter := none, lines := List.range 63 }
      f.waiter = none ∧ f.toHost = false ∧ f.lines.length = 64 ∧ 63 < 64 ∧ g.lines.has 63 = false ∧ g.lines.length ≠ 64 ∧
      ([f].find? fun h => h.page == 2048) = some f ∧ (([] : List Flip).find? fun h => h.page == 2048) = none ∧
      ({ device id with flips := [g] } : State).hostHeld 0x800000 = true) := by decide +kernel

theorem witness_PagesMarksAndShootdowns :
    (let s := device id;
      2 ^ 27 - 1 < 2 ^ 27 ∧ 255 < 256 ∧ s.pslotBusy = none ∧ 0 * 4096 < s.part.hbmBytes ∧
      s.part.hbmBytes ≤ (2 ^ 27 - 1) * 4096 ∧ ({ s with pslotBusy := some (9, 1) } : State).pslotBusy ≠ none ∧ s.mem.wf = true ∧ ∀ c ∈ s.cores, c.subs = []) ∧
    (let s := device id;
      s.evicting = none ∧ ({ s with evicting := some 2 } : State).holdCount 2 = 0 ∧ s.health.pendingPages.has 2 = false ∧
      ({ copying { ownCopy with dstPage := some { vpage := 0, base := .mem 0x2000 } } with evicting := some 2 } : State).holdCount 2 ≠ 0 ∧
      ({ s with health := { s.health with pendingPages := [2] } } : State).health.pendingPages.has 2 = true) ∧
    (let s := device id;
      let k : Shoot := { direct := false, tlbk := 0, asid := 0, va := 0 }
      s.linkUp = true ∧ s.health.failed = false ∧ (0x40000 : DWord).getLsbD 18 = true ∧ s.shoots.length < 256 ∧
      256 ≤ ({ s with shoots := List.replicate 256 k } : State).shoots.length ∧
      ({ s with shoots := List.replicate 255 k } : State).shoots.length < 256 ∧ s.shootWaits k = false ∧
      (user { thr with state := .waitaddr { target := .mem 0x800000, va := 0x800000, size := .b32, acq := false, scope := .thr, dst := 1
                                            expected := 0, timeout := 0, asked := none }
                       pend := [{ pendingAdd with op := some (.mem 0x800000, .rmw (.op .add .i32 1)) }] }).shootWaits k = true) := by
  decide +kernel

theorem witness_DeviceRegisterAccesses :
    (let s := device id;
      s.linkUp = true ∧ s.health.failed = false ∧ s.part.fab = true ∧ s.regs.devLock = false ∧
      ({ s with commit := some { plan := [], changing := [], affected := [], dark := false } } : State).commit ≠ none ∧
      ({ s with regs := { s.regs with devLock := true } } : State).regs.devLock = true) ∧
    ({ device id with stage := 6 } : State).linkUp = true ∧ (1 : DWord).getLsbD 0 = true ∧
    (bits (BitVec.ofNat 64 10).toNat 0 5 = 10 ∧ bits (BitVec.ofNat 64 24).toNat 0 5 = 24 ∧ bits (BitVec.ofNat 64 9).toNat 0 5 < 10 ∧
      24 < bits (BitVec.ofNat 64 25).toNat 0 5) ∧
    (let s := device id;
      let t := { s with health := { s.health with failed := true, events := [{ kind := 7, arg := 0 }] } }
      t.linkUp = true ∧ t.health.failed = true ∧ t.health.events = [{ kind := 7, arg := 0 }]) := by decide +kernel

theorem witness_CountersAndClock :
    (let s := device id;
      s.rails = .up ∧ ({ s with rails := .down } : State).rails ≠ .up ∧ s.part.fab = true ∧ s.isDark = false ∧ s.sendsBeacon = true ∧
      ({ s with part := .tk840 } : State).part.fab = false ∧
      ({ s with commit := some { plan := [], changing := [], affected := [], dark := true } } : State).isDark = true) ∧
    (let s := { device id with regs := { (device id).regs with devNo := 1 }, lockedIn := [({ plane := 0, slot := 0, dev := 0, band := 0, ch := 1 }, 0)]
                               lockedOut := [{ plane := 0, slot := 0, dev := 0, band := 0, ch := 0 }]
                               plan := [(0, { on := true, band := 0, ch := 63 })] };
      s.rails = .up ∧ s.isDark = false ∧ s.sendsBeacon = false) ∧
    (let s := { device id with regs := { (device id).regs with cntctl := 0x80110A } };
      s.regs.cntctl.getLsbD 8 = true ∧ s.recordDropped = false ∧ s.records = [] ∧
      (∀ p ∈ State.recordPages s.recordAt, s.pageBusy p = false) ∧ s.recordBarred s.recordAt = false ∧
      (device id).regs.cntctl.getLsbD 8 = false ∧
      ({ s with regs := { s.regs with cons := -2 } } : State).recordDropped = true) ∧
    ((device id).therm = false ∧ ({ device id with therm := true } : State).therm = true) := by decide +kernel

theorem witness_PowerResetAndBoot :
    let s := device id
    let x : Nat × Nat × Bool := (63, 7, true)
    s.rails = .up ∧ s.stage ≠ 0 ∧ s.health.failed = false ∧ ({ s with rails := .down } : State).rails = .down ∧
    ({ s with rails := .broken } : State).rails ≠ .down ∧ ({ s with rails := .broken } : State).rails ≠ .up ∧ s.firmwareOk = true ∧
    ({ s with firmwareOk := false } : State).firmwareOk = false ∧ Part.tk880m = .tk880m ∧
    (s.part.fab = true ∧ x.1 < 64 ∧ x.2.1 < 8) := by decide

theorem witness_ManagementAndTestPort :
    let s := device id
    s.managed = true ∧ s.health.failed = false ∧ State.reset.managed = false ∧ s.rails ≠ .down ∧ (0 < 255 ∧ 255 < 256) := by
  decide +kernel

theorem witness_SoftErrors :
    (let s := device id;
      s.part.hbmBytes - 1 < s.part.hbmBytes ∧ countAt s.health.pages 2048 + 1 ≠ s.thresholds.pageCorrected ∧
      (let t := { s with health := { s.health with pages := [(2048, 7)] } };
        s.thresholds.pageCorrected ≠ 0 ∧ countAt t.health.pages 2048 + 1 = t.thresholds.pageCorrected) ∧
      s.thresholds.pageUncorrectable ≠ 0 ∧ s.inWindow (s.part.hbmBytes - 1) 1 = false ∧ s.windowCore? 0 = some 0 ∧
      (s.health.pages.map Prod.fst).Nodup) ∧
    (let s := device id;
      ∃ c, s.core? 0 = some c ∧ c.inService = true ∧ c.service = .running ∧ c.tasks = [] ∧ 3 < s.part.bays ∧ 3 ∈ c.bays ∧ 1 < c.bays.length ∧
      9 ∉ c.bays ∧ s.thresholds.lane ≠ 0 ∧ s.thresholds.coreCorrected ≠ 0 ∧ 1 < s.part.crucibles ∧
      (onCore s fun c => { c with bays := [2] }).cores[0]?.map Core.bays = some [2] ∧
      (onCore s fun c => { c with service := .leaving }).cores[0]?.map Core.service ≠ some .running) ∧
    (let l : L1Line := { pa := 0x4000000000, data := List.replicate 64 1, dirty := 0, pois := 0, owned := false };
      let m := { l with dirty := 1 }
      let s := fun l : L1Line => onCore (user thr) fun c => { c with
        l1 := [l], icache := [{ pa := l.pa, bytes := nopLine, state := .good }] }
      (s l).l1Line? 0 (lineOf 0x400000003F) = some l ∧ (s m).l1Line? 0 (lineOf 0x400000003F) = some m ∧ m.dirty ≠ 0 ∧
      (s l).inWindow 0x400000003F 1 = false ∧ ((s l).iline? 0 (lineOf 0x400000003F)).isSome = true ∧
      ((s l).task? 0 0).any (fun t => 0 < t.scratch && 0 < t.accslots) = true) ∧
    ((user thr).thread? r0 = some thr ∧ r0.who = .user 0 0) :=
  ⟨by decide +kernel, ⟨_, rfl, by decide +kernel⟩, by decide +kernel, by decide +kernel⟩

/-! ## Witnesses: encoding, issue, frames, steps -/

/-- The `iadd` of the encoding's worked line: v8 := v9 + v10. -/
def add8 : Instr := .iadd always .i32 false 8 (src 9) (.reg (src 10))

theorem witness_DecodingAnEncodedInstruction : add8.wf = true ∧ (Instr.resumeSetv never 1 (src 2) (src 3) 63).wf = true := by decide

theorem witness_EncodingADecodedWord : decode 0 = .ok .nop ∧ decode (Claim.word 0x01 0 0 8 9 10 0 0 0 0 0) = .ok add8 := by decide

theorem witness_IssueChecks :
    (let i := Instr.iadd never .i32 false 8 (src 9) (.reg (src 10));
      ((encodeFields i).map fun f => (f.maj, f.guard)) = some (0x01, never) ∧ i ≠ .nop ∧
      ((encodeFields (Instr.ctlrd never 1 0)).map Fields.maj) = some 0x80 ∧ ((encodeFields (Instr.rfe never)).map Fields.maj) = some 0x88 ∧
      ((encodeFields (Instr.cvt never .f32 .i32 .dyn false 1 (src 1))).map Fields.maj) = some 0x38) ∧
    (useOf add8 = some (useReg always [(src 9, 1), (src 10, 1)] 8 1)) ∧
    (let t := { thr with full := BitVec.allOnes 64 ^^^ (1 <<< 10) };
      (user t).thread? r0 = some t ∧ (user t).canIssue r0 t = true ∧ t.predBusy 0 = false ∧ guardHolds always t = true ∧
      firstEmpty t [(src 9, 1), (src 10, 1)] = some (10, false) ∧
      firstEmpty t [(src 9, 1), ({ reg := 10, trap := true }, 1)] = some (10, true)) ∧
    (let t := { thr with pend := [{ pendingAdd with dst := 8, op := none }] };
      firstEmpty t [(src 9, 1), (src 10, 1)] = none ∧ mustWait t [(8, 1)] [] = true) ∧
    (let t := { thr with poison := 1 <<< 9 };
      firstEmpty t [(src 9, 1), (src 10, 1)] = none ∧ mustWait t [(8, 1)] [] = false ∧
      firstPoison t [(src 9, 1), (src 10, 1)] = some (poisonTrap 9)) ∧
    (let t := Thread.create 0;
      firstPoison t [(src 9, 1)] = none ∧ ((encodeFields (Instr.fabs always .f32 1 (src 9))).map Fields.maj) = some 0x26 ∧
      markerTrap t [(src 9, 1)] = some { kind := .uninit, sub := 9, addr := 0x7FA00009 }) := by decide +kernel

theorem witness_RegisterInstructionsLeaveTheRest :
    useOf add8 = some (useReg always [(src 9, 1), (src 10, 1)] 8 1) ∧
    Issues (user thr) thr always [(src 9, 1), (src 10, 1)] [(8, 1)] [] ∧
    ((user thr).thread? (user thr).issuer = some thr ∧ (thr.setReg 8 5).reserved = none) :=
  ⟨rfl, issues_of ready_user _ _ _, (issues_of ready_user [] [] []).thread, rfl⟩

theorem witness_StoresChangeOnlyTheirBytes :
    (∃ k, (user thr).task? 0 0 = some k ∧ k.bytes.wf = true) ∧
    (let l : L1Line := { pa := 0x800000, data := List.replicate 64 1, dirty := 1, pois := 0, owned := true };
      let s := onCore (user thr) fun c => { c with l1 := [l] }
      s.l1Line? 0 (lineOf 0x80003F) = some l ∧ l.owned = true ∧ l.data.length = 64 ∧ 0x80003F % 64 + 1 ≤ 64 ∧
      s.subscribed 0 (.mem (lineOf 0x80003F)) = false) ∧
    ((user thr).mem.wf = true ∧ 0x800000 % 64 + 64 ≤ 64 ∧ (user thr).ownedCopies (lineOf 0x800000) = []) :=
  ⟨⟨_, rfl, by decide +kernel⟩, by decide +kernel, by decide +kernel⟩

/-- The bytes of a fetched line. -/
def fetched : State.Fetched → Option (List Byte)
  | .line bs => some bs
  | _ => none

theorem fetch_pair {x : State.Fetched × State} {bs : List Byte} (h : fetched x.1 = some bs) : x = (.line bs, x.2) := by
  obtain ⟨f, s⟩ := x
  cases f <;> simp_all [fetched]

/-- The line worked to the bit in the chapter on encoding: a pair in slots 0 and 1, `nop` in the others. -/
def workedLine : List Byte :=
  leBytes 12 0x010209280000000000000000 ++ leBytes 12 0x01A30D000000010000000064 ++ List.replicate 36 0 ++ leBytes 4 0x01BE0021

def errIs {α : Type} (x : Except Trap α) (e : Trap) : Bool :=
  match x with
  | .error f => f == e
  | .ok _ => false

theorem err_of {α : Type} {x : Except Trap α} {e : Trap} (h : errIs x e = true) : x = .error e := by
  cases x <;> simp_all [errIs]

theorem ok_of {ε α : Type} [DecidableEq α] {x : Except ε α} {a : α} (h : x.toOption = some a) : x = .ok a := by
  cases x <;> simp_all [Except.toOption]

/-- A user thread at that line. -/
def worked : State := { user thr with mem := (placedTables []).write placedLine workedLine }

/-- Whether there is a lane, and it goes on with the watchpoints as they were. -/
def lanesGo (x : List Lane × State) : Bool :=
  match x.1 with
  | [l] => match runLane l x.2 with
    | .next s' => s'.watches l.thread == x.2.watches l.thread
    | _ => false
  | _ => false

theorem witness_StepRunsTheDecodedInstruction :
    (({ user thr with agenda := [.event .counterTick] } : State).agenda = [.event .counterTick]) ∧
    (r0 ∈ (user thr).subsetOf r0 ∧ c0 ∈ (caster thr).subsetOf c0 ∧ r0 ∉ (caster thr).subsetOf r0) ∧
    (held r0 (user thr) (user thr) = true ∧ held r0 (user thr) (user { thr with pc := 0 }) = false) ∧
    (∃ s₂, (user thr).thread? r0 = some thr ∧ (user thr).canIssue r0 thr = true ∧ ((user thr).boundary r0).isNone = true ∧
      thr.starting = false ∧ pcBad thr.pc = false ∧ (user thr).fetch r0 (pcLine thr.pc) thr.pc = (.line nopLine, s₂) ∧
      s₂.thread? r0 = some thr ∧ s₂.canIssue r0 thr = true ∧ (s₂.accessor r0).user = true ∧ privileged (slotWord nopLine 0) = false ∧
      namesCrucible1 (slotWord nopLine 0) = false ∧ needsFabric (slotWord nopLine 0) = false ∧
      decode (slotWord nopLine 0) = .ok .nop ∧ linePair nopLine 0 = false) ∧
    lanesGo (fetchLanes [r0] (user thr)) = true ∧
    ∃ s₂ i j u w, worked.fetch r0 (pcLine thr.pc) thr.pc = (.line workedLine, s₂) ∧ decode (slotWord workedLine 0) = .ok i ∧
      linePair workedLine 0 = true ∧ checkSlot s₂.part (s₂.accessor r0).user workedLine 0 = .ok (i, some j) ∧ useOf i = some u ∧
      useOf j = some w ∧ thr.predBusy u.g.q = false ∧ thr.predBusy w.g.q = false ∧
      firstEmpty thr (pairSrcs thr u w) = none ∧ pairWaits thr u w = false := by
  refine ⟨rfl, by decide +kernel, by decide +kernel, ⟨_, by decide +kernel, by decide +kernel, by decide +kernel, rfl, by decide +kernel,
    fetch_pair (by decide +kernel), by decide +kernel, by decide +kernel, by decide +kernel, by decide +kernel, by decide +kernel,
    by decide +kernel, by decide +kernel, by decide +kernel⟩, by decide +kernel, ?_⟩
  refine ⟨_, add8, .iadd { neg := true, q := 2 } .i32 false 12 (src 13) (.imm 100), _, _, fetch_pair (by decide +kernel),
    by decide +kernel, by decide +kernel, ok_of (by decide +kernel), rfl, rfl, by decide +kernel, by decide +kernel, by decide +kernel,
    by decide +kernel⟩

theorem witness_StepsKeepMemoryCanonical :
    (user thr).Canonical ∧ ∃ s', step { user thr with agenda := [.issue r0] } = .next s' := by
  refine ⟨by unfold State.Canonical; decide +kernel, ?_⟩
  have h : (match step { user thr with agenda := [.issue r0] } with
    | .next _ => true
    | _ => false) = true := by decide +kernel
  revert h
  cases step { user thr with agenda := [.issue r0] } <;> simp

theorem witness_ThreadAtCreation : (launch0 .ready).desc.threads = 1 ∧ Thread.create 0 ∈ [Thread.create 0] := by decide +kernel

theorem witness_ParityOfALine : workedLine.length = 64 ∧ parityOk workedLine = true := by decide +kernel

/-- A line whose slot 0 holds a major that is no instruction. -/
def badLine : List Byte :=
  let bs := leBytes 12 (0x1F * 2 ^ 88) ++ List.replicate 48 0 ++ leBytes 4 (2 ^ 24 + 1)
  bs.take 60 ++ leBytes 4 (2 ^ 24 + 1 + lineParity bs * 2 ^ 16)

/-- A user thread at that line. -/
def misplaced : State := { user thr with mem := (placedTables []).write placedLine badLine }

theorem witness_WordOutsideTheMap :
    let s := misplaced;
    ∃ s₂ x, s.thread? r0 = some thr ∧ s.canIssue r0 thr = true ∧ (s.boundary r0).isNone = true ∧ thr.starting = false ∧
      pcBad thr.pc = false ∧ s.fetch r0 (pcLine thr.pc) thr.pc = (.line badLine, s₂) ∧ x = ({ kind := .illegal, sub := 0x01 } : Trap) ∧
      checkWord s₂.part (s₂.accessor r0).user (slotWord badLine (pcSlot thr.pc)) = .error x :=
  ⟨_, _, by decide +kernel, by decide +kernel, by decide +kernel, by decide, by decide +kernel, fetch_pair (by decide +kernel), rfl,
    err_of (by decide +kernel)⟩

theorem witness_MajorsOutsideTheMap :
    ((Claim.word 0x1F 0 0 0 0 0 0 0 0 0 0).extractLsb' 88 8).toNat = 0x1F ∧
    ((Claim.word 0xFF 1 7 0 0 0 0 0 0 0 0).extractLsb' 88 8).toNat = 0xFF ∧
    ((Claim.word 0x94 0 0 0 0 0 0 0 0 0 0).extractLsb' 88 8).toNat = 0x94 ∧
    (((Claim.word 0x81 0 0 0 0 0 0 0 0 0 0x800).extractLsb' 88 8).toNat = 0x81 ∧
      0x800 ≤ ((Claim.word 0x81 0 0 0 0 0 0 0 0 0 0x800).extractLsb' 0 12).toNat) := by decide +kernel

/-! ## Well-formedness: an ill-formed term for each check -/

theorem test_wf_legal : (Instr.fadd always .i32 .dyn false 1 (src 2) (.reg (src 3))).wf = false := by decide

theorem test_wf_regs : (Instr.iadd always .i64 false 3 (src 2) (.reg (src 4))).wf = false := by decide

theorem test_wf_quad : (Instr.ld always false .b128 false .thr .plain 6 own0).wf = false := by decide

theorem test_wf_imm : (Instr.iadd always .i8 false 1 (src 2) (.imm 256)).wf = false := by decide

theorem test_wf_rm : (Instr.cvt always .i32 .n32 .rtz false 1 (src 2)).wf = false := by decide

theorem test_wf_scope : (Instr.ld always false .b32 false .dev .plain 1 own0).wf = false := by decide

theorem test_wf_event : Instr.counterTick.wf = false := by decide

theorem test_wf_ok : (Instr.ld always false .b128 true .dev .wait 8 own0).wf = true := by decide

/-! ## Words written out in the spec's chapters, and what they stand for -/

/-- spec/02_encoding.md, the line worked to the bit: both slots, its parity, and the pair. -/
theorem test_worked_line :
    decode (slotWord workedLine 0) = .ok (.iadd always .i32 false 8 (src 9) (.reg (src 10))) ∧
    decode (slotWord workedLine 1) = .ok (.iadd { neg := true, q := 2 } .i32 false 12 (src 13) (.imm 100)) ∧
    lineParity workedLine = 0xBE ∧ parityOk workedLine = true ∧ lineCheck workedLine = none ∧ lineTgt workedLine 0 = true ∧
    linePair workedLine 0 = true ∧ (checkSlot .tk880 true workedLine 0).toOption.isSome = true := by decide +kernel

/-- spec/05_element_isa.md, two encodings worked. -/
theorem test_decode_element :
    decode 0x230515597000002800000000 = .ok (.fma always .f32 .rtz false 20 (src 21) (.reg (src 22)) (src 23)) ∧
    decode 0x1A0048000002010100000064 = .ok (.icmp always .lt .n32 1 (src 8) (.imm 100)) := by decide

/-- spec/07_crucible_isa.md and spec/16_prog_block_product.md, encodings worked. -/
theorem test_decode_crucible :
    decode 0x6B0004000000005500220020 = .ok (.mstream always .ta8 .k32 true 1 (src 4) 34 32) ∧
    decode 0x6F0006000000220000000001 = .ok (.mdrain always .f32 .rne false true (src 6) 0 1) ∧
    decode 0x70001C880000400000200100 = .ok (.mscale always true (src 28) (src 34) 0x20 1 0) := by decide

/-- spec/10_memory_isa.md, encodings worked; spec/16 `ld.take.b128 v12, s:[v11]`. -/
theorem test_decode_memory :
    decode 0x480204000000018300000010 =
      .ok (.ld always false .b64 true .dev .plain 8 { space := .global, base := src 4, off := 16, swz := 0 }) ∧
    decode 0x500306340008008200000000 = .ok (.atom always .add .f32 .relaxed .dev 12 (glob 6) (src 13)) ∧
    decode 0x490002240000800A00000020 =
      .ok (.st always .b32 false .thr .fill { space := .own, base := src 2, off := 32, swz := 0 } (src 9)) ∧
    decode 0x48030B000000400C00000000 =
      .ok (.ld always false .b128 false .thr .take 12 { space := .own, base := src 11, off := 0, swz := 0 }) := by decide

/-- spec/14_progress_isa.md, encodings worked. -/
theorem test_decode_progress :
    decode 0x430209000000000800000000 = .ok (.redux always .add .f32 .dyn 8 (src 9)) ∧
    decode 0x7C0014000002000000000000 = .ok (.joinM always (src 20) 0) ∧
    decode 0x800200000000000000000005 = .ok (.ctlrd always 8 5) ∧
    decode 0x5F028430D000018200000000 = .ok (.waitaddr always .b32 true .dev 10 (glob 4) (src 12) (src 13)) := by decide

/-- spec/17_prog_ticket_lock.md and spec/18_prog_bias_flip.md, encodings worked. -/
theorem test_decode_programs :
    decode 0x50040A340001008200000000 = .ok (.atom always .add .n32 .relaxed .dev 16 (glob 10) (src 13)) ∧
    decode 0x5FB64A6980000002000001C0 = .ok (.waitaddr { neg := true, q := 3 } .b32 false .thr 25
      { space := .global, base := src 10, off := 0x1C0, swz := 0 } (src 26) (src 24)) ∧
    decode 0x52200A3400010082000000C0 = .ok (.red { neg := false, q := 2 } .add .n32 false .dev
      { space := .global, base := src 10, off := 0xC0, swz := 0 } (src 13)) ∧
    decode 0x49000A500000028200000040 =
      .ok (.st always .b32 true .dev .plain { space := .global, base := src 10, off := 0x40, swz := 0 } (src 20)) ∧
    decode 0x48064C00000001C200000040 =
      .ok (.ld always false .b32 true .sys .plain 25 { space := .global, base := src 12, off := 0x40, swz := 0 }) := by decide

/-- spec/20_system_isa.md, encodings worked. -/
theorem test_decode_system :
    decode 0x880000000000000000000000 = .ok (.rfe always) ∧
    decode 0x890014580000000200000000 = .ok (.tlbinv always (.asidva (src 20) (src 22))) ∧
    decode 0x8A0214580000000000000000 = .ok (.ctxsave always 8 (src 20) (src 22)) ∧
    decode 0x8F020C340003000000000009 = .ok (.resumeSetv always 8 (src 12) (src 13) 9) ∧
    decode 0x93020A000000000100000000 = .ok (.biassetTohost always 8 (src 10)) := by decide

/-- The other families, by the fields of R28 and the tables of R33 to R39: conversion, cross-lane, Ladle, allowance, control,
trap. -/
theorem test_decode_families :
    decode (Claim.word 0x38 0 0 1 2 0 0 0 0 0x100D 0) = .ok (.cvt always .ta8 .f32 .dyn false 1 (src 2)) ∧
    decode (Claim.word 0x40 0 0 0 0 0 0 0 0 0 128) = .ok (.setw always 128) ∧
    decode (Claim.word 0x62 0 0 0 5 0 0 0b100 0 0 0) = .ok (.cpwait always { reg := 5, trap := true }) ∧
    decode (Claim.word 0x74 0 0 1 2 0 0 0 0 1 0) = .ok (.alw always true 1 (src 2)) ∧
    decode (Claim.word 0x78 1 0 0 0 0 0 0 0 0 0x80000000) = .ok (.bra never 0x80000000) ∧
    decode (Claim.word 0x84 0 0 0 0 0 0 0 0 0 0xFFFF) = .ok (.sys always 0xFFFF) := by decide

/-- R40: the table of pairs and verdicts. -/
theorem test_pair_verdicts :
    let use (i : Instr) : Machine.Use := (useOf i).getD (useReg always [] 0 0)
    let p (i j : Instr) := pairFault (use i) (use j)
    let iadd (d a b : Reg) : Instr := .iadd always .i32 false d (src a) (.reg (src b))
    p (iadd 8 9 10) (.fmul always .f32 .dyn false 12 (src 13) (.reg (src 14))) = none ∧
    p (iadd 8 9 9) (.imul always .i32 false 10 (src 9) (.reg (src 11))) = none ∧
    p (iadd 8 9 10) (iadd 11 8 12) = some 0x05 ∧
    p (iadd 8 9 10) (.isub always .i32 false 8 (src 11) (.reg (src 12))) = some 0x04 ∧
    p (.fma always .f32 .dyn false 8 (src 9) (.reg (src 10)) (src 11)) (.fadd always .f32 .dyn false 12 (src 13) (.reg (src 14))) =
      some 0x02 ∧
    p (iadd 8 1 5) (iadd 12 9 2) = some 0x03 ∧
    p (.iadd always .i64 false 8 (src 10) (.reg (src 12))) (iadd 16 14 15) = some 0x02 ∧
    p (.icmp always .lt .i32 1 (src 8) (.reg (src 9))) (.sel { neg := false, q := 1 } .b32 10 (src 11) (.reg (src 12)) 0) = some 0x05 := by
  decide

/-! ## Single instructions, with the results the spec gives -/

/-- The state after an instruction. -/
def after (i : Instr) (s : State) : State :=
  match exec i s with
  | .next s => s
  | _ => s

/-- A register of the issuing thread. -/
def regOf (s : State) (r : Reg) : Nat := ((s.thread? s.issuer).map fun t => (t.reg r).toNat).getD 0

/-- The flags of the issuing thread: FL of FPCTL. -/
def flagsOf (s : State) : Nat := ((s.thread? s.issuer).map fun t => (t.fpctl.extractLsb' 9 5).toNat).getD 0

/-- Register 3 after an instruction on v1 and v2. -/
def icalc (a b : Nat) (i : Src → SrcB → Instr) : Nat :=
  regOf (after (i (src 1) (.reg (src 2))) (user ((thr32 1 a).setReg 2 (BitVec.ofNat 32 b)))) 3

/-- spec/05, results of the integer roots worked to the bit. -/
theorem test_integer_results :
    icalc 7 0xFFFFFFFE (.idiv always .i32 3) = 0xFFFFFFFD ∧ icalc 7 0xFFFFFFFE (.irem always .i32 3) = 1 ∧
    icalc 0xFFFFFFF9 2 (.idiv always .i32 3) = 0xFFFFFFFD ∧ icalc 0xFFFFFFF9 2 (.irem always .i32 3) = 0xFFFFFFFF ∧
    icalc 7 0 (.idiv always .n32 3) = 0xFFFFFFFF ∧ icalc 7 0 (.irem always .n32 3) = 7 ∧
    icalc 0x80 0xFF (.idiv always .i8 3) = 0xFFFFFF80 ∧ icalc 100 100 (.iadd always .i8 false 3) = 0xFFFFFFC8 ∧
    icalc 100 100 (.iadd always .i8 true 3) = 0x7F ∧ icalc 200 100 (.iadd always .n8 false 3) = 0x2C ∧
    icalc 200 100 (.iadd always .n8 true 3) = 0xFF ∧ icalc 0x80000000 0x80000000 (.imulh always .i32 3) = 0x40000000 ∧
    icalc 0xFFFFFFFF 0xFFFFFFFF (.imulh always .n32 3) = 0xFFFFFFFE := by decide +kernel

/-- spec/05, `imad.i32.sat` of 0x4000_0000, 2 and 5; a source that is the destination. -/
theorem test_imad_sat :
    regOf (after (.imad always .i32 true 1 (src 1) (.imm 2) (src 2)) (user ((thr32 1 0x40000000).setReg 2 5))) 1 = 0x7FFFFFFF := by
  decide +kernel

/-- A float result with its flags. -/
def fcalc (a b : Nat) (i : Src → SrcB → Instr) : Nat × Nat :=
  let s := after (i (src 1) (.reg (src 2))) (user ((thr32 1 a).setReg 2 (BitVec.ofNat 32 b)))
  (regOf s 3, flagsOf s)

/-- R96 and R100, R101: worked results. NX is flag 1, UF 2. -/
theorem test_float_results :
    fcalc 0x80000000 0 (.fmin always .f32 3) = (0x80000000, 0) ∧ fcalc 0x7FC00001 0xBF800000 (.fmax always .f32 3) = (0xBF800000, 0) ∧
    fcalc 0x40000000 0 (fun a _ => .fsqrt always .f32 .rne false 3 a) = (0x3FB504F3, 1) ∧
    fcalc 0x40000000 0 (fun a _ => .fsqrt always .f32 .rup false 3 a) = (0x3FB504F4, 1) ∧
    fcalc 0x3F800000 0x40400000 (.fdiv always .f32 .rne false 3) = (0x3EAAAAAB, 1) ∧
    fcalc 0x3F800000 0x40400000 (.fdiv always .f32 .rtz false 3) = (0x3EAAAAAA, 1) := by decide +kernel

/-- R100, R101: `fsinpi` of an odd integer, `fexp2` of 0.5, `fscale` of 1.5 by −149. -/
theorem test_float_functions :
    fcalc 0x4B000001 0 (fun a _ => .fsinpi always .f32 .rne false 3 a) = (0, 0) ∧
    fcalc 0x3F000000 0 (fun a _ => .fexp2 always .f32 .rne false 3 a) = (0x3FB504F3, 1) ∧
    fcalc 0x3FC00000 (2 ^ 32 - 149) (.fscale always .f32 .rne false 3) = (2, 3) := by decide +kernel

/-- R78: entries worked to the bit, and the drain of 1 + 2^−8 + 2^−30 to bf16 (spec/06, worked bit patterns). -/
theorem test_accumulator_entries :
    (AccEntry.ofF32 0x3F800000).v = 1 <<< 312 ∧ AccEntry.zero.nz = true ∧ AccEntry.zero.v = 0 ∧
    (AccEntry.ofF32 0xBF800000).v = BitVec.allOnes 624 <<< 312 ∧
    (fmtBf16.round ({ v := 1 <<< 312 ||| 1 <<< 304 ||| 1 <<< 282 } : AccEntry).val .rne false).1 = 0x3F81 := by decide +kernel

/-- R68: a value below MinNormal that rounds up gives MinNormal itself, and is not tiny: to f16 from 0x387FFFFF, and in a product of f32. -/
theorem test_rounds_up_to_min_normal :
    fcalc 0x387FFFFF 0 (fun a _ => .cvt always .f16 .f32 .rne false 3 a) = (0x0400, 1) ∧
    fcalc 0x20000001 0x1FFFFFFE (.fmul always .f32 .rne false 3) = (0x00800000, 1) := by decide +kernel

/-- R143: a = 0x0C40 under s = 1 and s = 2. -/
theorem test_swizzle : swizzle 1 0x0C40 = 0x0C70 ∧ swizzle 2 0x0C40 = 0x0C50 := by decide

/-- R251: the link of a call stands in v62:v63, and the PC at the target. -/
theorem test_call :
    let s := after (.call always 0) (user thr)
    (regOf s 62, (s.thread? r0).map Thread.pc) = (placedLine + 1, some (BitVec.ofNat 64 placedLine)) := by decide +kernel

/-- R25: the PC after slot 4 is slot 0 of the next line. -/
theorem test_pc_of_the_next_line : nextPC 0x40000004 = 0x40000040 := by decide

/-- A store to the own scratchpad is seen by the thread's next load, and then leaves the queue. -/
theorem test_store_then_load :
    let t := thr32 1 0x12345678
    let m : MemRef := { own0 with off := 8 }
    let s := after (.st always .b32 false .thr .plain m (src 1)) (user t)
    let v := after (.loadDataArrival r0 0) (after (.ld always true .b16 false .thr .plain 3 { m with off := 10 }) s)
    regOf v 3 = 0x1234 ∧ ((after (.storeLeavesQueue r0) s).scratchRead 0 0 8 4).1 = leBytes 4 0x12345678 := by decide +kernel

/-- R178: a load empties its destination until the data arrives. -/
theorem test_load_empties :
    let s := after (.ld always false .b32 false .thr .plain 3 (glob 4)) (caster (thr64 4 0x1000))
    ((s.thread? c0).map fun t => t.isFull 3) = some false ∧
      (((after (.loadDataArrival c0 0) s).thread? c0).map fun t => t.isFull 3) = some true := by decide +kernel

/-- R187: `atom.add` gives the old value; the word is sum. -/
theorem test_atom_add :
    let s := after (.storeLeavesQueue r0) (after (.st always .b32 false .thr .plain own0 (src 1)) (user (thr32 1 41)))
    let s := after (.atomicAtHome r0) (after (.atom always .add .i32 .relaxed .thr 3 own0 (src 1)) s)
    regOf (after (.loadDataArrival r0 0) s) 3 = 41 ∧ (s.scratchRead 0 0 0 4).1 = leBytes 4 82 := by decide +kernel

/-- R267: the only arrival of a generation of one flips the phase. -/
theorem test_barrier :
    let s := after (.barinit always .task own0 (src 1)) (user (thr32 1 1))
    let s := after (.arrive always .task 3 own0) s
    (leNat (s.scratchRead 0 0 0 8).1).testBit 63 = true := by decide +kernel

/-- R283: the word of a destination that is UNREACH. -/
theorem test_alw_unreach : regOf (after (.alw always false 3 (src 1)) (user (thr32 1 1))) 3 = 0x80000000 := by decide +kernel

/-- R194: `cp` of 16 bytes within the scratchpad: the id, and the bytes once the copy has run. -/
theorem test_copy :
    let s := after (.storeLeavesQueue r0) (after (.st always .b32 false .thr .plain own0 (src 3)) (user (thr32 3 16)))
    let s := after (.cp always false false 0 .own .own 5 (src 1) (src 2) (src 3) 4 0) s
    (regOf s 5, ((after (.copyGranuleWrite 0 0) s).scratchRead 0 0 64 4).1) = (0, leBytes 4 16) := by decide +kernel

/-- R107, R129: `mflip` of a claimed Crucible makes the loaded rows active. -/
theorem test_mload_mflip :
    let s := after (.storeLeavesQueue r0) (after (.st always .b32 false .thr .plain own0 (src 3)) (user (thr32 3 0x01020304)))
    let s := after (.mflip always 1) (after (.mload always .ta8 .k16 false 1 (src 1) 0 0) s)
    ((s.core? 0).bind fun c => c.cru? 1).map (fun k => k.active.read 0 4) = some (leBytes 4 0x01020304) := by decide +kernel

/-- spec/06: one product of bf16 1.0 and 1.0 into a slot that `mzero` prepared drains as 1.0. -/
theorem test_kstep :
    let one := leBytes 2 0x3F80
    let q : KStepJob := { place := 0, slot := 0, fmt := .bf16, k := 16, act := one ++ List.replicate 510 0, rows := one ++ List.replicate 510 0 }
    AccEntry.zero.merge (q.terms 0 0) = { v := 1 <<< 312 } ∧ AccEntry.zero.merge (q.terms 0 1) = { v := 0 } := by decide +kernel

/-- R336, R338: `brk` parks its thread, with the record in the Riser of its core. -/
theorem test_brk :
    let s := after (.brk always 7) (user thr)
    ((s.thread? r0).map Thread.state, (s.core? 0).map fun c => c.riser.map fun f => (f.trap, f.pc)) =
      (some .riser, some [({ kind := .brk, sub := 7 }, thr.pc)]) := by decide +kernel

/-- R326: `resume.skip` of that thread: it is runnable at the next slot, and its record is gone. -/
theorem test_resume_skip :
    let s := after (.brk always 7) (user thr)
    let s := { onCore s (fun c => c.modCaster 0 fun k => { k with thr := thr32 1 handle0, cause := 1 }) with issuer := c0 }
    let s := after (.resumeSkip always 2 (src 1)) s
    ((s.thread? r0).map fun t => (t.state, t.pc), (s.core? 0).map fun c => c.riser.length) =
      (some (.runnable, thr.pc + 1), some 0) := by decide +kernel

/-- R313: a privileged instruction of a user thread. -/
theorem test_priv :
    ((after (.rfe never) (user thr)).core? 0).map (fun c => c.riser.map fun f => f.trap.kind) = some [.priv] := by decide +kernel

/-- R343: `sys` empties v0:v1 and advances the PC. -/
theorem test_sys :
    let s := after (.sys always 5) (onTask (user thr) fun k => { k with ctx := { k.ctx with callring := 0x800000 } })
    (s.thread? r0).map (fun t => (t.state, t.isFull 0, t.isFull 1, t.pc)) = some (.syscall 5, false, false, thr.pc + 1) := by
  decide +kernel

/-- R312: a start for CAUSE 1 stands at FOREBASE + 0x40, with MODE.CAUSE 1. -/
theorem test_caster_start :
    let s := after (.casterStart 0 1) (entered fun c => { c with riser := [rec0] })
    ((s.core? 0).bind fun c => c.casters[0]?).map (fun k => (k.thr.pc, k.cause, k.thr.state)) = some (0x40, 1, .runnable) := by
  decide +kernel

/-- R15, R16: the task of a launch starts with its markers in place 0. -/
theorem test_task_dispatch :
    let s := after (.taskDispatch 0) (launching .dispatched id)
    (s.task? 0 0).map (fun k => k.threads.map fun t => (t.pc, t.reg 5)) = some [(BitVec.ofNat 64 placedLine, 0x7FA00005)] := by
  decide +kernel

/-- R208: a flip of a page to the bias it has completes at once; one to host bias is pending. -/
theorem test_bias_flip :
    (after (.biasctlToDevice 2048) (device id)).regs.biasSeq = 1 ∧
      (after (.biasctlToHost 2048) (device id)).flips.map (fun f => (f.page, f.toHost)) = [(2048, true)] := by decide +kernel

/-- R196: SHA-512 of no bytes, from FIPS 180-4. -/
theorem test_sha512 : (sha512 []).take 4 = [0xCF, 0x83, 0xE1, 0x35] := by decide +kernel

/-- A line placed at the fetch address is run by the next step. -/
theorem test_step_runs_the_placed_word :
    let s := State.reset.withFetchWord 96 0x010209280000000000000000
    (match step s with
      | .next s => (s.thread? r0).map Thread.pc
      | _ => none) = some (BitVec.ofNat 64 (placedLine + 1)) := by decide +kernel

/-! ## golmen (R44 to R56): the module of the manual's example, worked encodings from source, the loader -/

/-- The example "A module packed" of spec/03_assembly.md. -/
def packedSource : List String :=
  [".text", ".entry sum", "sum: iadd v8, v2, 0 // line 0 slot 0", "iadd v9, v3, 0", ".pair", "iadd v10, v2, v3",
    "isub v11, v2, v3", "call scale", "iadd v12, v0, 1 // the return point", "exit", ".line", "scale: shl v0, v10, 1", "ret"]

/-- Bits [15:0] of the line word of line `n` of a module's text. -/
def lineLow (m : Golmen.Module) (n : Nat) : Nat := lineWord ((m.text.drop (64 * n)).take 64) % 2 ^ 16

/-- The manual gives 0x0081, 0x0001, 0x0001, TEXTSIZE 192, one entry with offset 0, and no relocation. -/
theorem test_golmen_packs_the_module : (Golmen.assemble packedSource).map (fun m =>
    (m.text.length, (List.range 3).map (lineLow m), m.entries.map fun e => (e.1, e.2.1), m.relocs)) =
    some (192, [0x0081, 1, 1], [(0, 0)], []) := by decide +kernel

/-- The word golmen makes of a statement. -/
def golmenWord (x : String) : Option Nat := (Golmen.instr? x.toList).map fun p => p.1.pack.toNat

/-- Worked encodings of spec/14_progress_isa.md and spec/20_system_isa.md. -/
theorem test_golmen_encodes_statements :
    golmenWord "redux.add.f32 v8, v9" = some 0x430209000000000800000000 ∧
    golmenWord "waitaddr.acq.dev v10, g:[v4], v12, v13" = some 0x5F028430D000018200000000 ∧
    golmenWord "resume.setv v8, v12, v13, 9" = some 0x8F020C340003000000000009 := by decide +kernel

/-- R45, R47, R50: a guard on `nop`, a value that does not fit, a type the root does not have. -/
theorem test_golmen_rejects : golmenWord "(q1) nop" = none ∧ golmenWord "iadd.i8 v1, v2, 256" = none ∧
    golmenWord "imulh.i16 v1, v2, v3" = none ∧ golmenWord "movi.f32 v8, 0.1" = none ∧
    golmenWord "icmp.i32 q1, v8, v9" = none ∧ golmenWord "iadd.i8 v8, v9, hi32(x)" = none := by decide +kernel

/-- A module with an address of its data in an IMM. -/
def lo32Source : List String := ["start: movi.b32 v8, lo32(x)", ".data", ".quad 7", "x: .word 5"]

/-- The loader patches IMM with TEXTVA's data address and makes the line's parity whole again (R56). -/
theorem test_loader_patches : (((Golmen.assemble lo32Source).bind fun m => Golmen.loadImage m.image).map (·.sections)).map (fun l =>
    (leNat ((l.headD (0, [])).2.take 4), parityOk ((l.headD (0, [])).2))) = some (8, true) := by decide +kernel

/-- A reserved bit of the header refuses the module (R56). -/
theorem test_loader_refuses : Golmen.loadImage ((leBytes 8 (0x4D4C4F47 + 2 ^ 32 + 2 ^ 41)) ++ List.replicate 120 0) = none := by
  decide +kernel

/-- The four shards of R368's example, by their boxes. -/
def shardBox (d : Nat) : Box := { lo := [0, 16 * d, 0, 0], hi := [32, 16 * d + 16, 1, 1] }

/-- R368: the digest of a shard of 2,048 bytes lies at 0x880, and the four boxes are the tensor. -/
theorem test_shard_boxes : Shard.digestAt 2048 = 0x880 ∧ tiles [32, 64, 1, 1] ((List.range 4).map shardBox) = true ∧
    tiles [32, 64, 1, 1] [shardBox 0, shardBox 1, shardBox 2, shardBox 2] = false := by decide +kernel

/-- R368: device 1's box meets shards 2 and 3 only, and their first elements lie at offsets 0 and 2,048 of it. -/
theorem test_restore_offsets :
    let t : Box := { lo := [0, 32, 0, 0], hi := [32, 64, 1, 1] }
    (List.range 4).map (fun d => t.apart (shardBox d)) = [true, true, false, false] ∧
      t.place [0, 32, 0, 0] * 4 = 0 ∧ t.place [0, 48, 0, 0] * 4 = 2048 := by decide +kernel

/-- A line of five instructions, as golmen has taken it apart. -/
def fiveNops : Option Golmen.Asm := Golmen.Asm.ofSource ["nop", "nop", "nop", "nop", "exit"]

theorem witness_LinesOfTheAssemblerAndLoader :
    (fiveNops.map fun s => (decide (5 * 0 + 5 ≤ s.text.length), (s.lineBytes? 0).isSome)) = some (true, true) ∧
    ((Golmen.assemble lo32Source).bind fun m => m.relocs.head?.map fun r =>
      ((Golmen.applyReloc m r).isSome, r.kind, decide ((r.off - 128) % 64 + 4 ≤ 60), decide (r.off - 128 < m.text.length),
        m.text.length % 64)) = some (true, 2, true, true, 0) := by decide +kernel

/-- A shard of one element. -/
def oneElement : Shard :=
  { ty := .f32, rank := 1, name := [0x77], shape := [1, 1, 1, 1], box := { lo := [0, 0, 0, 0], hi := [1, 1, 1, 1] }
    data := [0, 0, 0x80, 0x3F] }

theorem witness_ShardsReadBack : oneElement.ok = true ∧ (∀ n ∈ oneElement.shape, n < 2 ^ 64) ∧
    oneElement.data.length < 2 ^ 64 := by decide +kernel

/-- R91: `sel` without its predicate operand encodes q0. -/
theorem test_golmen_sel : golmenWord "sel.b32 v16, v8, v5" = golmenWord "sel.b32 v16, v8, v5, q0" ∧
    (golmenWord "sel.b32 v16, v8, v5").isSome = true := by decide +kernel

end Sys2Proof.Tests
end

section
/-!
PROOFS. Reset and the start and end of a task (spec/01_machine.md R15, R16; spec/12_threads_groups.md R215;
spec/13_launch_runners.md R236, R239): what a thread holds at creation, what `TASK_DISPATCH` does for an unclustered
launch, and what `TASK_RETIRE` does for a task whose threads have exited.
-/

namespace Sys2Proof.Machine

/-! ## A thread at creation (R15) -/

@[simp] theorem Thread.reg_create (pc : DWord) (n : Reg) :
    (Thread.create pc).reg n = BitVec.ofNat 32 (0x7FA00000 + n.toNat) := by
  simp [Thread.reg, Thread.create, markers]

@[simp] theorem Thread.isFull_create (pc : DWord) (n : Reg) : (Thread.create pc).isFull n = true :=
  (BitVec.getLsbD_allOnes ..).trans (decide_eq_true n.isLt)

@[simp] theorem Thread.isPois_create (pc : DWord) (n : Reg) : (Thread.create pc).isPois n = false := by
  simp [Thread.isPois, Thread.create]

/-- q0 alone is true at creation. -/
theorem Thread.pred_create (pc : DWord) {q : PredReg} (hq : q ≠ 0) : (Thread.create pc).pred q = false := by
  simpa [Thread.pred, Thread.create] using hq

/-- The threads of a new task are as at creation, with their start at ENTRY still to be checked as a transfer (R27). -/
theorem State.newTask_threads (s : State) (c : Core) (l : Launch) (idx pick : Nat) (cl : Option ClusterPos) :
    (s.newTask c l idx pick cl).threads =
      List.replicate l.desc.threads { Thread.create l.desc.entry with starting := true } := rfl

/-- Settles O55: the threads of a new task are copies of one created thread, and `starting` is none of the fields named. -/
theorem threadAtCreation : Obligations.ThreadAtCreation := by
  intro s c l idx pick cl
  rw [State.newTask_threads]
  refine ⟨List.length_replicate, fun t ht => ?_⟩
  obtain rfl := List.eq_of_mem_replicate ht
  exact ⟨fun n => ⟨Thread.reg_create l.desc.entry n, Thread.isFull_create l.desc.entry n⟩,
    fun _ hq => Thread.pred_create l.desc.entry hq, rfl, rfl, rfl⟩

/-! ## Reset -/

/-- Every core of a part is in the reset state of a core. -/
theorem State.eq_reset_of_mem_cores {c : Core} (h : c ∈ State.reset.cores) : c = Core.reset .tk880 :=
  List.eq_of_mem_replicate h

/-- Every destination is in its reset state (R273), and so is every number that is none. -/
theorem State.dest_reset (d : Nat) : State.reset.dest d = Dest.reset := by
  simp only [State.dest, State.reset, State.resetOf, List.getD_eq_getElem?_getD, List.getElem?_replicate]
  split <;> rfl

theorem Core.idle_of_mem_casters_reset {p : Part} {k : Caster} (h : k ∈ (Core.reset p).casters) : k.thr.state = .idle := by
  obtain rfl := List.eq_of_mem_replicate h
  rfl

/-- Settles O54: the fields of the reset state, its cores and destinations each in their own reset state, and a thread at
creation. That every poison mark is clear there is a value of log entry 3. -/
theorem resetState : Obligations.ResetState := by
  refine ⟨⟨rfl, rfl, rfl, rfl⟩, rfl, fun _ => rfl, rfl, rfl, rfl, rfl, rfl, rfl, rfl, fun d _ => State.dest_reset d, rfl, rfl, rfl,
    rfl, rfl, fun c hc => ?_, fun pc n => ?_⟩
  · obtain rfl := State.eq_reset_of_mem_cores hc
    exact ⟨rfl, rfl, rfl, rfl, rfl, rfl, fun _ => Core.idle_of_mem_casters_reset⟩
  · exact ⟨Thread.reg_create pc n, Thread.isFull_create pc n, Thread.isPois_create pc n, rfl⟩

/-! ## A task starts (R215, R239) -/

/-- An update of a core matters only at the core that it finds. -/
theorem State.modCore_congr {s : State} {n : Nat} {c : Core} {f g : Core → Core} (hc : s.core? n = some c)
    (hfg : f c = g c) : s.modCore n f = s.modCore n g := by
  have hcores : s.cores[n]? = some c := hc
  have hmod : s.cores.modify n f = s.cores.modify n g := by
    refine List.ext_getElem? fun i => ?_
    simp only [List.getElem?_modify]
    by_cases hi : n = i
    · subst hi
      simp only [hcores, if_true, Option.map_eq_map, Option.map_some, hfg]
    · simp only [hi, if_false]
  simp only [State.modCore, hmod]

/-- A task put on a core takes its lowest free place. -/
theorem State.addTask_eq {s : State} {n p : Nat} {c : Core} (t : Task) (hc : s.core? n = some c)
    (hp : c.freePlace? = some p) :
    s.addTask n t = some (p, s.modCore n fun c =>
      { c with tasks := insertKey c.tasks p t, gens := c.gens.modify p (· + 1) }) := by
  simp [State.addTask, hc, hp]

/-- While the cores run and the device has not failed, `TASK_DISPATCH` is the dispatch of the core's next task. -/
theorem exec_taskDispatch {s : State} (n : Nat) (hrun : s.coresRun = true) (hfail : s.health.failed = false) :
    exec (.taskDispatch n) s = .next (s.dispatchTask n).2 := by
  simp [exec, execTaskDispatch, hrun, hfail]

/-- The dispatch for a core whose position is that core alone is one turn of the loop over the position's cores (R239). The
claim makes the task from the core under update and `dispatchTask` from the core it has found: `State.modCore_congr` joins
the two. -/
theorem taskStarts : Claim.TaskStarts := by
  intro s n l o lo hi p rs c hrun hfail hstage hnext hcl hhi hcores hctx hdisp hc hfits hp s₁
  have hone : hi - lo = 1 := by omega
  have hstart : ¬ (s.stage != 7 || !s.ctxValid l.ctxn || !([n].all fun k => s.dispatchable k &&
      ((s.core? k).map fun c => c.fits l.desc.threads l.desc.scratch l.desc.accslots).getD false)) = true := by
    simp [hstage, hctx, hdisp, hc, hfits]
  have hc₁ : s₁.core? n = some c := hc
  have hadd := State.addTask_eq (s₁.newTask c l lo s.free none) hc₁ hp
  rw [exec_taskDispatch n hrun hfail]
  simp only [State.dispatchTask, hnext, hcores, hone, if_neg hstart, List.range_one, List.foldl_cons, List.foldl_nil,
    List.getD_cons_zero, hcl, if_true, Nat.add_zero, Nat.add_sub_cancel]
  simp only [s₁] at hc₁ hadd
  simp only [hc₁, hadd]
  exact congrArg (fun s => Host.Outcome.next (State.dropClean s n)) (State.modCore_congr hc₁ rfl)

/-! ## A task retires (R215, R236) -/

/-- Each thread a task's references name is one of its threads. -/
theorem State.thread?_of_mem_threadRefs {s : State} {core place : Nat} {t : Task} {r : ThreadRef}
    (ht : s.task? core place = some t) (hr : r ∈ State.threadRefs core place t) :
    ∃ x ∈ t.threads, s.thread? r = some x := by
  obtain ⟨i, hi, rfl⟩ := List.mem_map.mp hr
  have hlt := List.mem_range.mp hi
  obtain ⟨c, hc, hct⟩ := Option.bind_eq_some_iff.mp ht
  exact ⟨t.threads[i], List.getElem_mem hlt, by simp [State.thread?, Core.thread?, hc, hct, hlt]⟩

/-- A thread with nothing outstanding drains in no step. -/
theorem State.drain_eq_self {s : State} {r : ThreadRef} {x : Thread} (hx : s.thread? r = some x) (hq : x.queue = [])
    (hp : x.pend = []) : s.drain r = s := by
  simp [State.drain, State.drainSteps, hx, hq, hp]

section
variable {s : State} {core place : Nat} {t : Task}

/-- A task whose threads have nothing outstanding drains in no step. -/
theorem State.foldl_drain_eq_self (ht : s.task? core place = some t) (hq : ∀ x ∈ t.threads, x.queue = [] ∧ x.pend = []) :
    (State.threadRefs core place t).foldl State.drain s = s :=
  List.foldlRecOn (motive := (· = s)) _ _ rfl fun s' hs r hr => by
    obtain ⟨x, hx, hxr⟩ := State.thread?_of_mem_threadRefs ht hr
    rw [hs, State.drain_eq_self hxr (hq x hx).1 (hq x hx).2]

/-- The stores of a task whose queues are empty are done. -/
theorem State.storesDone_of_queues_empty (ht : s.task? core place = some t) (hq : ∀ x ∈ t.threads, x.queue = []) :
    s.storesDone (core, place, t) = true := by
  refine List.all_eq_true.mpr fun r hr => ?_
  obtain ⟨x, hx, hxr⟩ := State.thread?_of_mem_threadRefs ht hr
  simp [hxr, hq x hx]

/-- A task outside a cluster retires alone. -/
theorem State.retireSet_unclustered (hcl : t.cluster = none) : s.retireSet core place t = [(core, place, t)] := by
  simp [State.retireSet, hcl]

/-- The retirement of a task outside a cluster that is ready for it, with nothing outstanding. -/
theorem State.retire_eq {c : Core} (hc : s.core? core = some c) (ht : s.task? core place = some t) (hcl : t.cluster = none)
    (hne : t.threads ≠ []) (hret : State.retirable c place t = true) (hq : ∀ x ∈ t.threads, x.queue = [] ∧ x.pend = [])
    (hfl : s.canFlush core = true) :
    s.retire core place t = ((s.flushDirty core).retireOne (core, place, t)).launchDone t.launch := by
  have hst := State.storesDone_of_queues_empty ht fun x hx => (hq x hx).1
  simp [State.retire, State.retireSet_unclustered hcl, hc, hne, hret, State.foldl_drain_eq_self ht hq, hst, hfl,
    List.eraseDups_cons]

end

/-- While the cores run, `TASK_RETIRE` of a task on its core is that task's retirement, which a pending flip can hold. -/
theorem exec_taskRetire {s : State} {core place : Nat} {t : Task} (hrun : s.coresRun = true)
    (ht : s.task? core place = some t) : exec (.taskRetire core place) s = .next (s.orHeld (s.retire core place t)) := by
  simp [exec, execTaskRetire, State.ifRuns, hrun, ht]

theorem tasksRetire : Claim.TasksRetire := by
  intro s core place t c hc ht hrun hcl hne hret hq hfl
  rw [exec_taskRetire hrun ht, State.retire_eq hc ht hcl hne hret hq hfl]

/-- Settles O35: the dispatch of a one-core position has one turn of its loop, and a retirement with nothing outstanding goes
straight to the flush of the core; that a pending flip can hold it is log entry 111. -/
theorem tasksStartAndRetire : Obligations.TasksStartAndRetire :=
  ⟨taskStarts, tasksRetire⟩

end Sys2Proof.Machine
end

section
/-!
PROOFS. The lines of golmen and of the module loader (spec/02_encoding.md R22, R23; spec/03_assembly.md R53, R54, R56): a
line whose PAR field is the parity of its other bits passes the check, and both golmen's lines and the loader's are such.
-/

namespace Sys2Proof.Machine

/-! ## Little-endian words -/

@[simp] theorem length_leBytes (n x : Nat) : (leBytes n x).length = n := by
  induction n generalizing x with
  | zero => rfl
  | succ n ih => exact congrArg (· + 1) (ih (x / 256))

/-- The bytes of a number read back as its low bits. -/
theorem leNat_leBytes (n x : Nat) : leNat (leBytes n x) = x % 256 ^ n := by
  induction n generalizing x with
  | zero => rw [Nat.pow_zero, Nat.mod_one]; rfl
  | succ n ih =>
    rw [leBytes, leNat, ih, Nat.pow_succ', Nat.mod_mul]
    rfl

theorem leNat_leBytes_four (x : Nat) : leNat (leBytes 4 x) = x % 2 ^ 32 :=
  leNat_leBytes 4 x

/-! ## The parity of a line (R23) -/

theorem boolBit_le (b : Bool) (n : Nat) : boolBit b n ≤ 2 ^ n := by
  cases b <;> simp [boolBit]

/-- One bit for each place below `n` makes a number below `2 ^ n`. -/
theorem foldl_boolBit_lt (f : Nat → Bool) (n : Nat) : (List.range n).foldl (fun v i => v + boolBit (f i) i) 0 < 2 ^ n := by
  induction n with
  | zero => exact Nat.one_pos
  | succ n ih =>
    have hbit := boolBit_le (f n) n
    rw [List.range_succ, List.foldl_append, List.foldl_cons, List.foldl_nil, Nat.pow_succ]
    omega

theorem lineParity_lt (bs : List Byte) : lineParity bs < 2 ^ 8 :=
  foldl_boolBit_lt (parBit bs) 8

/-- The parity of a line depends on its slots and on bits [15:0] of its line word alone. -/
theorem lineParity_congr {bs bs' : List Byte} (hslots : bs'.take 60 = bs.take 60)
    (hword : lineWord bs' % 2 ^ 16 = lineWord bs % 2 ^ 16) : lineParity bs' = lineParity bs := by
  simp only [lineParity, parBit, hslots, hword]

/-- A line whose PAR field is the parity of a line with the same slots and the same bits [15:0] of the line word passes the
check; `ver` is the byte above PAR. -/
theorem parityOk_of_par {bs bs' : List Byte} (ver : Nat) (hslots : bs'.take 60 = bs.take 60)
    (hword : lineWord bs' = lineWord bs % 2 ^ 16 + lineParity bs * 2 ^ 16 + ver * 2 ^ 24) : parityOk bs' = true := by
  have hpar := lineParity_lt bs
  rw [parityOk, beq_iff_eq, lineParity_congr hslots (by omega), hword, bits]
  omega

/-- The line word of a line, byte by byte. -/
theorem lineWord_eq {bs : List Byte} (h : bs.length = 64) :
    lineWord bs = bs[60].toNat + bs[61].toNat * 2 ^ 8 + bs[62].toNat * 2 ^ 16 + bs[63].toNat * 2 ^ 24 := by
  have hdrop : bs.drop 60 = [bs[60], bs[61], bs[62], bs[63]] := by
    rw [List.drop_eq_getElem_cons (by omega), List.drop_eq_getElem_cons (by omega), List.drop_eq_getElem_cons (by omega),
      List.drop_eq_getElem_cons (by omega), List.drop_of_length_le (by omega)]
  rw [lineWord, hdrop]
  simp only [leNat]
  omega

/-- A line with its own parity put in the PAR field passes the check. -/
theorem parityOk_set_par {bs : List Byte} (h : bs.length = 64) :
    parityOk (bs.set 62 (BitVec.ofNat 8 (lineParity bs))) = true := by
  have hpar := lineParity_lt bs
  refine parityOk_of_par bs[63].toNat (List.take_set_of_le (by decide)) ?_
  have h60 := bs[60].isLt
  have h61 := bs[61].isLt
  rw [lineWord_eq (by rwa [List.length_set]), lineWord_eq h]
  simp only [ne_eq, Nat.reduceEqDiff, not_false_eq_true, List.getElem_set_ne, Nat.succ_ne_self, Nat.reducePow,
    List.getElem_set_self, BitVec.toNat_ofNat, Nat.add_right_cancel_iff]
  omega

/-- The line word of a line that ends in four bytes of a number. -/
theorem lineWord_append_leBytes {ws : List Byte} (h : ws.length = 60) (x : Nat) :
    lineWord (ws ++ leBytes 4 x) = x % 2 ^ 32 := by
  rw [lineWord, List.drop_left' h, leNat_leBytes_four]

/-! ## golmen's lines (R53, R54) -/

namespace Golmen

namespace Asm

/-- The words of the slots make 12 bytes for each slot. -/
theorem length_of_slotWords {α : Type} (word : α → Option InstrWord) {slots : List α} {ws : List Byte}
    (h : slots.foldr (fun x l => (word x).bind fun w => l.map fun l => leBytes 12 w.toNat ++ l) (some []) = some ws) :
    ws.length = 12 * slots.length := by
  induction slots generalizing ws with
  | nil => rw [← Option.some.inj h]; rfl
  | cons x slots ih =>
    obtain ⟨w, -, hrest⟩ := Option.bind_eq_some_iff.mp h
    obtain ⟨rest, hfold, rfl⟩ := Option.map_eq_some_iff.mp hrest
    rw [List.length_append, length_leBytes, ih hfold, List.length_cons]
    omega

/-- The TGT and PAIR bits of slots `k` and up lie below the bits of the slot after the last (R22). -/
theorem slotBits_bound {α : Type} (tgt pair : α × Nat → Bool) (slots : List α) (k v : Nat) :
    (slots.zipIdx k).foldl (fun v x => v + boolBit (tgt x) x.2 + boolBit (pair x) (5 + x.2)) v + 33 * 2 ^ k ≤
      v + 33 * 2 ^ (k + slots.length) := by
  induction slots generalizing k v with
  | nil => exact Nat.le_refl _
  | cons x slots ih =>
    have hrest := ih (k + 1) (v + boolBit (tgt (x, k)) k + boolBit (pair (x, k)) (5 + k))
    have htgt := boolBit_le (tgt (x, k)) k
    have hpair := boolBit_le (pair (x, k)) (5 + k)
    rw [Nat.pow_add] at hpair
    rw [Nat.pow_succ, show k + 1 + slots.length = k + (x :: slots).length by simp; omega] at hrest
    rw [List.zipIdx_cons, List.foldl_cons]
    dsimp only
    omega

/-- A line that golmen builds: the words of its five slots, and a line word with TGT and PAIR, the parity, and VER 1. -/
theorem lineBytes?_eq_some {s : Asm} {n : Nat} {bs : List Byte} (hn : 5 * n + 5 ≤ s.text.length)
    (h : s.lineBytes? n = some bs) : ∃ (ws : List Byte) (low : Nat), ws.length = 60 ∧ low < 2 ^ 16 ∧
      bs = ws ++ leBytes 4 (low + lineParity (ws ++ leBytes 4 (low + 2 ^ 24)) * 2 ^ 16 + 2 ^ 24) := by
  have hslots : ((s.text.drop (5 * n)).take 5).length = 5 := by
    rw [List.length_take, List.length_drop]
    omega
  obtain ⟨-, hline⟩ := Option.ite_none_left_eq_some.mp h
  obtain ⟨ws, hws, rfl⟩ := Option.map_eq_some_iff.mp hline
  have hlen := length_of_slotWords (fun x : Slot × Nat => s.slotWord? (5 * n + x.2) x.1) hws
  have hlow := slotBits_bound (fun x => s.targets.contains (5 * n + x.2) && x.1.fields.maj != 0) (fun x => x.1.pair)
    ((s.text.drop (5 * n)).take 5) 0 0
  rw [List.length_zipIdx, hslots] at hlen
  rw [hslots] at hlow
  exact ⟨ws, _, hlen, Nat.lt_of_le_of_lt (Nat.le_of_add_right_le hlow) (by decide), rfl⟩

end Asm

theorem assembledLines : Claim.AssembledLines := by
  intro s n bs hn h
  obtain ⟨ws, low, hws, hlow, rfl⟩ := Asm.lineBytes?_eq_some hn h
  refine ⟨by rw [List.length_append, hws, length_leBytes], ?_⟩
  have hpar := lineParity_lt (ws ++ leBytes 4 (low + 2 ^ 24))
  refine parityOk_of_par 1 (bs := ws ++ leBytes 4 (low + 2 ^ 24)) ?_ ?_
  · rw [List.take_left' hws, List.take_left' hws]
  · rw [lineWord_append_leBytes hws, lineWord_append_leBytes hws]
    omega

/-! ## The loader's lines (R56) -/

/-- Bytes put in place of as many leave every other byte as it was. -/
theorem getElem?_splice {bs new : List Byte} {o n i : Nat} (hn : new.length = n) (ho : o + n ≤ bs.length)
    (hi : i < o ∨ o + n ≤ i) : (bs.take o ++ new ++ bs.drop (o + n))[i]? = bs[i]? := by
  have hlen : (bs.take o ++ new).length = o + n := by
    rw [List.length_append, List.length_take, hn]
    omega
  rcases hi with hi | hi
  · rw [List.getElem?_append_left (by omega), List.getElem?_append_left (by rw [List.length_take]; omega),
      List.getElem?_take_of_lt hi]
  · rw [List.getElem?_append_right (by omega), hlen, List.getElem?_drop, Nat.add_sub_cancel' hi]

theorem length_splice {bs new : List Byte} {o n : Nat} (hn : new.length = n) (ho : o + n ≤ bs.length) :
    (bs.take o ++ new ++ bs.drop (o + n)).length = bs.length := by
  simp only [List.length_append, List.length_take, List.length_drop, hn]
  omega

/-- Bytes put in place of as many are read back at their offset. -/
theorem take_drop_splice {bs new : List Byte} {o n : Nat} (hn : new.length = n) (ho : o + n ≤ bs.length) :
    ((bs.take o ++ new ++ bs.drop (o + n)).drop o).take n = new := by
  rw [List.append_assoc, List.drop_left' (List.length_take_of_le (by omega)), List.take_left' hn]

/-- Two texts that agree on the bytes of a range agree on that range. -/
theorem take_drop_congr {bs bs' : List Byte} {o n : Nat} (h : ∀ i, o ≤ i → i < o + n → bs'[i]? = bs[i]?) :
    (bs'.drop o).take n = (bs.drop o).take n := by
  refine List.ext_getElem? fun i => ?_
  rw [List.getElem?_take, List.getElem?_take]
  split
  · rw [List.getElem?_drop, List.getElem?_drop, h (o + i) (by omega) (by omega)]
  · rfl

/-- PAR computed again is one byte of the text replaced. -/
theorem fixParity_eq_set {text : List Byte} {o : Nat} (h : o / 64 * 64 + 64 ≤ text.length) : fixParity text o =
    text.set (64 * (o / 64) + 62) (BitVec.ofNat 8 (lineParity ((text.drop (64 * (o / 64))).take 64))) := by
  rw [List.set_eq_take_append_cons_drop, if_pos (by omega), Nat.mul_comm 64, fixParity, List.append_assoc]
  rfl

/-- The line whose PAR is computed again passes the check. -/
theorem parityOk_fixParity {text : List Byte} {o : Nat} (h : o / 64 * 64 + 64 ≤ text.length) :
    parityOk (((fixParity text o).drop (64 * (o / 64))).take 64) = true := by
  rw [fixParity_eq_set h, List.drop_set, if_neg (by omega), List.take_set, Nat.add_sub_cancel_left]
  refine parityOk_set_par ?_
  rw [List.length_take, List.length_drop]
  omega

/-- The virtual address of the section that a relocation names. -/
def Module.relocBase (m : Module) (r : Reloc) : Nat :=
  if r.sec = 0 then m.textVa else if r.sec = 1 then m.dataVa else m.launchVa

/-- The address that a relocation of an IMM in the text forms, by one addition of 64 bits. -/
def Module.immAddr (m : Module) (r : Reloc) : Nat :=
  (m.relocBase r + leNat ((m.text.drop (r.off - 128)).take 4) + r.high * 2 ^ 32) % 2 ^ 64

/-- The text with a relocated IMM, before the parity of its line is computed again. -/
def Module.patchedText (m : Module) (r : Reloc) : List Byte :=
  m.text.take (r.off - 128) ++ leBytes 4 (if r.kind = 3 then m.immAddr r / 2 ^ 32 else m.immAddr r) ++
    m.text.drop (r.off - 128 + 4)

/-- A relocation of kind 2 or 3 in the text patches the IMM and computes the parity of its line again. -/
theorem applyReloc_imm {m m' : Module} {r : Reloc} (h : applyReloc m r = some m') (hk : r.kind = 2 ∨ r.kind = 3)
    (ho : r.off - 128 + 4 ≤ m.text.length) : m' = { m with text := fixParity (m.patchedText r) (r.off - 128) } := by
  have hk1 : r.kind ≠ 1 := by omega
  simp only [applyReloc, hk1, if_false, ho, if_true, apply_ite Prod.fst] at h
  obtain ⟨-, hpatch⟩ := Option.ite_none_left_eq_some.mp h
  obtain ⟨t, ht, rfl⟩ := Option.map_eq_some_iff.mp hpatch
  obtain ⟨-, ht⟩ := Option.ite_none_left_eq_some.mp ht
  rw [← Option.some.inj ht, Module.patchedText, Module.immAddr, Module.relocBase, Nat.add_assoc]

section
variable {m : Module} {r : Reloc}

theorem length_patchedText (ho : r.off - 128 + 4 ≤ m.text.length) : (m.patchedText r).length = m.text.length :=
  length_splice (length_leBytes ..) ho

/-- The field of a relocated IMM holds the half of the address that the relocation's kind names. -/
theorem leNat_patchedText (hk : r.kind = 2 ∨ r.kind = 3) (ho : r.off - 128 + 4 ≤ m.text.length) :
    leNat (((m.patchedText r).drop (r.off - 128)).take 4) =
      if r.kind = 2 then m.immAddr r % 2 ^ 32 else m.immAddr r / 2 ^ 32 := by
  have haddr : m.immAddr r < 2 ^ 64 := Nat.mod_lt _ (by decide)
  rw [Module.patchedText, take_drop_splice (length_leBytes ..) ho, leNat_leBytes_four]
  rcases hk with hk | hk
  · rw [hk, if_neg (by decide), if_pos rfl]
  · rw [hk, if_pos rfl, if_neg (by decide), Nat.mod_eq_of_lt (by omega)]

/-- A relocation of an IMM changes that field and PAR of its line alone. -/
theorem getElem?_relocated (ho : r.off - 128 + 4 ≤ m.text.length)
    (hline : (r.off - 128) / 64 * 64 + 64 ≤ m.text.length) {i : Nat}
    (hfield : i < r.off - 128 ∨ r.off - 128 + 4 ≤ i) (hpar : i ≠ 64 * ((r.off - 128) / 64) + 62) :
    (fixParity (m.patchedText r) (r.off - 128))[i]? = m.text[i]? := by
  rw [fixParity_eq_set (by rwa [length_patchedText ho]), List.getElem?_set_ne hpar.symm, Module.patchedText,
    getElem?_splice (length_leBytes ..) ho hfield]

end

theorem relocatedImmediates : Claim.RelocatedImmediates := by
  intro m m' r o line base a h hk hin ho htext
  have ho4 : o + 4 ≤ m.text.length := by omega
  have hline : o / 64 * 64 + 64 ≤ m.text.length := by omega
  have hline' : o / 64 * 64 + 64 ≤ (m.patchedText r).length := by rwa [length_patchedText ho4]
  have hother {i : Nat} := getElem?_relocated ho4 hline (i := i)
  obtain rfl := applyReloc_imm h hk ho4
  refine ⟨?_, rfl, rfl, ?_, fun i hi hout => ?_, parityOk_fixParity hline', fun k hne => ?_⟩
  · rw [fixParity_eq_set hline', List.length_set, length_patchedText ho4]
  · refine .trans (congrArg leNat (take_drop_congr fun i hlo hhi => ?_)) (leNat_patchedText hk ho4)
    rw [fixParity_eq_set hline', List.getElem?_set_ne (by omega)]
  · simp only [line]
    rw [List.getElem?_take_of_lt (by omega), List.getElem?_take_of_lt (by omega), List.getElem?_drop, List.getElem?_drop]
    exact hother (by omega) (by omega)
  · exact take_drop_congr fun i hlo hhi => hother (by omega) (by omega)

/-- Settles O59: the PAR field of a line that golmen builds, and of one that the loader patches, is computed from the line's
own slots and flags, and the rest of a relocated text is that of the text. -/
theorem linesOfTheAssemblerAndLoader : Obligations.LinesOfTheAssemblerAndLoader :=
  ⟨assembledLines, relocatedImmediates⟩

end Golmen

end Sys2Proof.Machine
end

section
/-!
PROOFS. Integer instructions of the element core (spec/05_element_isa.md R84, R85): each writes the exact result in its
type. The number a register holds in an integer type is the one integer of the type's range that is congruent to it modulo
2^w (spec/04_numbers.md R62).
-/

namespace Sys2Proof.Machine

/-! ## The integers of a type (R62, R63) -/

theorem width_pos (ty : Ty) : 0 < ty.width := by cases ty <;> decide

theorem two_pow_eq_cast (k : Nat) : (2 ^ k : Int) = (2 ^ k : Nat) := (Int.natCast_pow 2 k).symm

theorem two_pow_pos (k : Nat) : (0 : Int) < 2 ^ k := by
  have hpos := Nat.two_pow_pos k
  rw [two_pow_eq_cast]
  omega

theorem two_pow_width (ty : Ty) : 2 ^ ty.width = 2 * 2 ^ (ty.width - 1) := by
  rw [← Nat.pow_add_one', Nat.sub_add_cancel (width_pos ty)]

/-- Congruence carries over from one integer to the next. -/
theorem dvd_sub_of_dvd_sub {m x y z : Int} (hxy : m ∣ x - y) (hyz : m ∣ y - z) : m ∣ x - z := by
  have hsum : x - z = x - y + (y - z) := by omega
  rw [hsum]
  exact Int.dvd_add hxy hyz

/-- A bit pattern is congruent to the integer it holds. -/
theorem dvd_sub_readInt (ty : Ty) (n : Nat) : (2 ^ ty.width : Int) ∣ n - readInt ty n := by
  have hmod : (2 ^ ty.width : Int) ∣ n - (n % 2 ^ ty.width : Nat) := by
    rw [two_pow_eq_cast, Int.natCast_emod]
    exact Int.dvd_self_sub_emod
  have hself (u : Int) : (2 ^ ty.width : Int) ∣ u - (u - 2 ^ ty.width) := ⟨1, by rw [Int.sub_sub_self, Int.mul_one]⟩
  simp only [readInt]
  split
  · exact dvd_sub_of_dvd_sub hmod (hself _)
  · exact hmod

/-- An integer read from a register lies in the range of its type. -/
theorem readInt_mem_range (ty : Ty) (n : Nat) : minI ty ≤ readInt ty n ∧ readInt ty n ≤ maxI ty := by
  have hlt : n % 2 ^ ty.width < 2 ^ ty.width := Nat.mod_lt _ (Nat.two_pow_pos _)
  have hhalf := two_pow_width ty
  simp only [readInt, minI, maxI, two_pow_eq_cast]
  cases ty.isSigned <;>
    simp only [Bool.true_and, Bool.false_and, decide_eq_true_eq, if_true, if_false, Bool.false_eq_true]
  · omega
  · split <;> omega

/-- Two integers of a type's range that are congruent modulo 2^w are the same. -/
theorem eq_of_mem_range {ty : Ty} {x y : Int} (hx : minI ty ≤ x ∧ x ≤ maxI ty) (hy : minI ty ≤ y ∧ y ≤ maxI ty)
    (h : (2 ^ ty.width : Int) ∣ x - y) : x = y := by
  have hspan : maxI ty - minI ty < (2 ^ ty.width : Nat) := by
    have hhalf := two_pow_width ty
    rw [maxI, minI, two_pow_eq_cast, two_pow_eq_cast]
    split <;> omega
  rw [two_pow_eq_cast] at h
  exact Int.sub_eq_zero.mp (Int.eq_zero_of_dvd_of_natAbs_lt_natAbs h (by rw [Int.natAbs_natCast]; omega))

/-- Clamping gives the nearest integer of the range (R62). -/
theorem clampI_eq (ty : Ty) (x : Int) : clampI ty x = max (minI ty) (min (maxI ty) x) := by
  obtain ⟨hmin, hmax⟩ := readInt_mem_range ty 0
  rw [clampI]
  omega

theorem clampI_mem_range (ty : Ty) (x : Int) : minI ty ≤ clampI ty x ∧ clampI ty x ≤ maxI ty := by
  obtain ⟨hmin, hmax⟩ := readInt_mem_range ty 0
  rw [clampI]
  omega

/-! ## Integer results in registers -/

theorem width_le (ty : Ty) : ty.width ≤ if ty.is64 then 64 else 32 := by cases ty <;> decide

/-- What an integer result leaves in a register is congruent to it. -/
theorem dvd_sub_placeInt (ty : Ty) (x : Int) : (2 ^ ty.width : Int) ∣ x - placeInt ty x := by
  have hregs : (2 ^ ty.width : Int) ∣ 2 ^ (if ty.is64 then 64 else 32) := by
    rw [two_pow_eq_cast, two_pow_eq_cast]
    exact Int.natCast_dvd_natCast.mpr (Nat.pow_dvd_pow 2 (width_le ty))
  have hcast (y : Int) (k : Nat) : ((y % 2 ^ k).toNat : Int) = y % 2 ^ k :=
    Int.toNat_of_nonneg (Int.emod_nonneg _ (Int.ne_of_gt (two_pow_pos k)))
  have hread := dvd_sub_readInt ty (x % 2 ^ ty.width).toNat
  rw [hcast] at hread
  rw [placeInt, hcast]
  exact dvd_sub_of_dvd_sub (dvd_sub_of_dvd_sub Int.dvd_self_sub_emod hread) (Int.dvd_trans hregs Int.dvd_self_sub_emod)

theorem dvd_sub_readInt_placeInt (ty : Ty) (x : Int) : (2 ^ ty.width : Int) ∣ x - readInt ty (placeInt ty x) :=
  dvd_sub_of_dvd_sub (dvd_sub_placeInt ty x) (dvd_sub_readInt ty (placeInt ty x))

/-- An integer of the type's range is read back as it was placed. -/
theorem readInt_placeInt_of_mem_range {ty : Ty} {x : Int} (hx : minI ty ≤ x ∧ x ≤ maxI ty) :
    readInt ty (placeInt ty x) = x :=
  (eq_of_mem_range hx (readInt_mem_range ty _) (dvd_sub_readInt_placeInt ty x)).symm

/-- An integer result fits the registers of its type. -/
theorem placeInt_lt (ty : Ty) (x : Int) : placeInt ty x < 2 ^ (32 * tyRegs ty) := by
  have hregs : 32 * tyRegs ty = if ty.is64 then 64 else 32 := by
    rw [tyRegs]
    split <;> rfl
  rw [placeInt, hregs, Int.toNat_lt (Int.emod_nonneg _ (Int.ne_of_gt (two_pow_pos _))), ← two_pow_eq_cast]
  exact Int.emod_lt_of_pos _ (two_pow_pos _)

theorem integerResultWrapsOrClamps : Claim.IntegerResultWrapsOrClamps := by
  intro ty x _
  obtain ⟨hmin, hmax⟩ := readInt_mem_range ty (intResult ty false x)
  refine ⟨?_, hmin, hmax, dvd_sub_readInt_placeInt ty x, placeInt_lt ty x⟩
  rw [← clampI_eq]
  exact readInt_placeInt_of_mem_range (clampI_mem_range ty x)

/-! ## The integer instructions (R84, R85) -/

/-- Two-source arithmetic writes the result of the two integers. -/
theorem arith2_eq {s : State} {t : Thread} {g : Guard} {ty : Ty} {sat : Bool} {d : Reg} {a : Src} {b : SrcB}
    (f : Int → Int → Int) (h : Clean s t g (srcA ty a ++ srcB ty b) [(d, tyRegs ty)] []) :
    arith2 s g ty sat d a b f = Writes s fun t => t.setRegs d (tyRegs ty)
      (intResult ty sat (f (readInt ty (valA t ty a)) (readInt ty (valB t ty b)))) 0 :=
  intOp_eq _ h

/-- One-source arithmetic writes the result of the integer. -/
theorem arith1_eq {s : State} {t : Thread} {g : Guard} {ty : Ty} {sat : Bool} {d : Reg} {a : Src}
    (f : Int → Int) (h : Clean s t g (srcA ty a) [(d, tyRegs ty)] []) :
    arith1 s g ty sat d a f = Writes s fun t => t.setRegs d (tyRegs ty)
      (intResult ty sat (f (readInt ty (valA t ty a)))) 0 :=
  intOp_eq _ h

/-- The remainder is what the truncated quotient leaves, and the dividend for a divisor of 0 (R85). -/
theorem rem_eq (x y : Int) : rem x y = if y = 0 then x else x - y * x.tdiv y := by
  rw [rem, Int.tmod_def]

theorem twoSourceIntegerArithmetic : Claim.IntegerArithmetic := by
  intro s t g ty sat d a b h put
  simp only [exec, execIadd, execIsub, execImul, execImulh, execImin, execImax, execIdiv, execIrem, arith2_eq _ h, put,
    intResult, quot, rem_eq, and_self]

theorem integerMultiplyAddAndSigns : Claim.IntegerMultiplyAddAndSigns := by
  intro s t g ty sat d a
  refine ⟨fun b c h => ?_, fun h => ?_⟩
  · rw [exec, execImad, intOp_eq _ h]
  · rw [exec, execIabs, exec, execIneg, arith1_eq _ h, arith1_eq _ h]
    exact ⟨rfl, rfl⟩

/-- Settles O1: every form is the one integer-class operation on the integers its sources hold, and a result reads back as
the integer of the type that is congruent to it. -/
theorem integerArithmetic : Obligations.IntegerArithmetic :=
  ⟨twoSourceIntegerArithmetic, integerMultiplyAddAndSigns, integerResultWrapsOrClamps⟩

end Sys2Proof.Machine
end

section
/-!
PROOFS. Bitwise, shift, count, reverse and field instructions (spec/05_element_isa.md R86 to R89): the model's numbers are
the operations on bit vectors, and its fields and counts are described bit by bit.
-/

namespace Sys2Proof.Machine

/-! ## Shifts of bit vectors as numbers (R87) -/

/-- The arithmetic shift of a bit vector, as the number the model gives. -/
theorem toNat_sshiftRight_eq_sraBits {w : Nat} (x : BitVec w) (k : Nat) : (x.sshiftRight k).toNat = sraBits w x.toNat k := by
  rw [BitVec.toNat_sshiftRight, sraBits, BitVec.testBit_toNat, ← BitVec.msb_eq_getLsbD_last]
  split
  · have hlt := x.isLt
    have hk := Nat.two_pow_pos k
    have hsum : x.toNat + (2 ^ k - 1) * 2 ^ w = 2 ^ k * 2 ^ w - (2 ^ w - 1 - x.toNat + 1) := by
      have hle := Nat.mul_le_mul_right (2 ^ w) hk
      rw [Nat.sub_mul]
      omega
    rw [hsum, Nat.mul_sub_div, Nat.shiftRight_eq_div_pow]
    · omega
    · have hle := Nat.mul_le_mul_right (2 ^ w) hk
      omega
  · rw [Nat.shiftRight_eq_div_pow]

/-- The rotation of a bit vector, as the number the model gives. -/
theorem toNat_rotateLeft_of_lt {w : Nat} (x : BitVec w) {k : Nat} (hk : k < w) :
    (x.rotateLeft k).toNat = (x.toNat * 2 ^ k + x.toNat / 2 ^ (w - k)) % 2 ^ w := by
  have hw : 2 ^ w = 2 ^ k * 2 ^ (w - k) := by rw [← Nat.pow_add, Nat.add_sub_cancel' (Nat.le_of_lt hk)]
  have hhigh : x.toNat / 2 ^ (w - k) < 2 ^ k := Nat.div_lt_of_lt_mul (by rw [Nat.mul_comm, ← hw]; exact x.isLt)
  have hlow : x.toNat * 2 ^ k % 2 ^ w = 2 ^ k * (x.toNat % 2 ^ (w - k)) := by rw [Nat.mul_comm, hw, Nat.mul_mod_mul_left]
  have hrot : (x.rotateLeft k).toNat = x.toNat * 2 ^ k % 2 ^ w + x.toNat / 2 ^ (w - k) := by
    rw [BitVec.toNat_rotateLeft, Nat.mod_eq_of_lt hk, Nat.shiftLeft_eq, Nat.shiftRight_eq_div_pow, hlow,
      Nat.two_pow_add_eq_or_of_lt hhigh]
  rw [← Nat.mod_add_mod, ← hrot, Nat.mod_eq_of_lt (x.rotateLeft k).isLt]

/-! ## The instructions as operations on numbers (R86 to R89) -/

theorem bitwiseAndShiftResults : Claim.BitwiseAndShiftResults :=
  fun _ _ _ _ _ _ _ =>
    ⟨fun h => ⟨intOp_eq _ h, intOp_eq _ h, intOp_eq _ h⟩,
     fun h => ⟨intOp_eq _ h, intOp_eq _ h, intOp_eq _ h, intOp_eq _ h⟩,
     fun h => ⟨intOp_eq _ h, intOp_eq _ h⟩,
     fun h => ⟨intOp_eq _ h, intOp_eq _ h, intOp_eq _ h⟩⟩

theorem bitFieldResults : Claim.BitFieldResults :=
  fun _ _ _ _ _ _ _ => ⟨fun h => intOp_eq _ h, fun _ h => intOp_eq _ h⟩

/-! ## The instructions as operations on words -/

theorem width_of_isBits {ty : Ty} (h : ty.isBits = true) (h64 : ty.is64 = false) : ty.width = 32 := by
  cases ty <;> simp_all [Ty.isBits, Ty.is64, Ty.width]

theorem tyRegs_of_not_is64 {ty : Ty} (h64 : ty.is64 = false) : tyRegs ty = 1 := by
  rw [tyRegs, h64]
  rfl

theorem valA_of_not_is64 {ty : Ty} (h64 : ty.is64 = false) (t : Thread) (a : Src) : valA t ty a = (t.reg a.reg).toNat := by
  rw [valA, h64]
  rfl

/-- The write of one register by the number of a word is the write of that word. -/
theorem writes_setRegs_one (s : State) (d : Reg) {f : Thread → Nat} {x : Thread → Word} (h : ∀ t, f t = (x t).toNat) :
    (Writes s fun t => t.setRegs d 1 (f t) 0) = Writes s fun t => t.setReg d (x t) false := by
  refine congrArg (Writes s) (funext fun t => ?_)
  rw [h, Thread.setRegs, BitVec.ofNat_toNat, BitVec.setWidth_eq]
  rfl

theorem wordBitwiseAndShifts : Claim.WordBitwiseAndShifts := by
  intro s t g ty d a b hbits h64
  have hamount (y : Word) : y.toNat % 32 < 32 := Nat.mod_lt _ (by decide)
  obtain ⟨hlogic, hshift, hone, -⟩ := bitwiseAndShiftResults s t g ty d a (.reg b)
  simp only [srcA, srcB, srcB32, valB, valB32, tyRegs_of_not_is64 h64, valA_of_not_is64 h64, width_of_isBits hbits h64,
    List.singleton_append] at hlogic hshift hone
  refine ⟨fun h => ?_, fun h => (hone h).1.trans (writes_setRegs_one s d fun t => BitVec.toNat_not.symm)⟩
  obtain ⟨hand, hor, hxor⟩ := hlogic h
  obtain ⟨hshl, hshr, hsra, hrot⟩ := hshift h
  refine ⟨hand.trans ?_, hor.trans ?_, hxor.trans ?_, hshl.trans ?_, hshr.trans ?_, hsra.trans ?_, hrot.trans ?_⟩ <;>
    refine writes_setRegs_one s d fun t => ?_
  · exact (BitVec.toNat_and ..).symm
  · exact (BitVec.toNat_or ..).symm
  · exact (BitVec.toNat_xor ..).symm
  · rw [BitVec.toNat_shiftLeft, Nat.shiftLeft_eq]
  · rw [BitVec.toNat_ushiftRight, Nat.shiftRight_eq_div_pow]
  · exact (toNat_sshiftRight_eq_sraBits ..).symm
  · exact (toNat_rotateLeft_of_lt _ (hamount _)).symm

/-! ## Bit by bit (R88, R89) -/

/-- The bits of a number whose lowest bit is put in front of those of another. -/
theorem testBit_double_add (x : Nat) (b : Bool) (i : Nat) :
    (2 * x + b.toNat).testBit i = if i = 0 then b else x.testBit (i - 1) := by
  have hb : b.toNat < 2 ^ 1 := b.toNat_lt
  have h := Nat.testBit_two_pow_mul_add x hb i
  rw [Nat.pow_one] at h
  rw [h]
  cases i with
  | zero => cases b <;> rfl
  | succ i => rfl

theorem revBits_succ (w x : Nat) : revBits (w + 1) x = 2 * revBits w x + (x.testBit w).toNat := by
  rw [revBits, List.range_succ, List.foldl_append]
  rfl

theorem testBit_revBits {w i : Nat} (x : Nat) (hi : i < w) : (revBits w x).testBit i = x.testBit (w - 1 - i) := by
  induction w generalizing i with
  | zero => omega
  | succ w ih =>
    rw [revBits_succ, testBit_double_add]
    cases i with
    | zero => rfl
    | succ i => exact (ih (by omega)).trans (congrArg x.testBit (by omega))

/-- A number other than 0 of `w` bits has as many zeros in front as there are places above its logarithm. -/
theorem leadingZeros_of_ne_zero {w x : Nat} (hx : x ≠ 0) : leadingZeros w x = w - 1 - x.log2 :=
  if_neg hx

/-- A number other than 0 of `w` bits ends in its lowest one bit and the zeros below it. -/
theorem find?_testBit_eq_trailingZeros {w x : Nat} (hlt : x < 2 ^ w) (hx : x ≠ 0) :
    (List.range w).find? (fun i => x.testBit i) = some (trailingZeros w x) := by
  rw [trailingZeros]
  cases hfind : (List.range w).find? (fun i => x.testBit i) with
  | some i => rfl
  | none =>
    have hnone := List.find?_range_eq_none.mp hfind x.log2 ((Nat.log2_lt hx).mpr hlt)
    rw [Nat.testBit_log2 hx] at hnone
    cases hnone

theorem trailingZeros_zero (w : Nat) : trailingZeros w 0 = w := by
  rw [trailingZeros, List.find?_range_eq_none.mpr fun i _ => by rw [Nat.zero_testBit]; rfl]
  rfl

/-- The bits of a number given by its bits above `p`, bit `p` and its bits below. -/
theorem testBit_parts {low p : Nat} (high : Nat) (b : Bool) (hlow : low < 2 ^ p) (j : Nat) :
    (2 ^ p * (2 * high + b.toNat) + low).testBit j =
      if j = p then b else if j < p then low.testBit j else high.testBit (j - p - 1) := by
  rw [Nat.testBit_two_pow_mul_add _ hlow, testBit_double_add]
  rcases Nat.lt_trichotomy j p with h | rfl | h
  · rw [if_pos h, if_neg (Nat.ne_of_lt h), if_pos h]
  · rw [if_neg (Nat.lt_irrefl j), if_pos (Nat.sub_self j), if_pos rfl]
  · rw [if_neg (Nat.not_lt_of_gt h), if_neg (Nat.sub_ne_zero_of_lt h), if_neg (Nat.ne_of_gt h), if_neg (Nat.not_lt_of_gt h)]

/-- Bit `p` of a number replaced. -/
theorem testBit_replace (z p y i j : Nat) :
    (z - bits z p 1 * 2 ^ p + bits y i 1 * 2 ^ p).testBit j = if j = p then y.testBit i else z.testBit j := by
  have hbit (x k : Nat) : bits x k 1 = (x.testBit k).toNat := by rw [bits, Nat.pow_one, Nat.toNat_testBit]
  have hlow : z % 2 ^ p < 2 ^ p := Nat.mod_lt _ (Nat.two_pow_pos p)
  have hsplit : z = 2 ^ p * (2 * (z / 2 ^ p / 2) + (z.testBit p).toNat) + z % 2 ^ p := by
    rw [Nat.toNat_testBit, Nat.div_add_mod, Nat.div_add_mod]
  have hnew : z - bits z p 1 * 2 ^ p + bits y i 1 * 2 ^ p =
      2 ^ p * (2 * (z / 2 ^ p / 2) + (y.testBit i).toNat) + z % 2 ^ p := by
    rw [hbit, hbit]
    rw [Nat.mul_add] at hsplit ⊢
    rw [Nat.mul_comm (Bool.toNat _), Nat.mul_comm (Bool.toNat _)]
    omega
  rw [hnew, testBit_parts _ _ hlow]
  by_cases hj : j = p
  · rw [if_pos hj, if_pos hj]
  · have hold := (congrArg (Nat.testBit · j) hsplit).trans (testBit_parts _ _ hlow j)
    rw [if_neg hj] at hold ⊢
    rw [if_neg hj]
    exact hold.symm

/-- The bits of `bfi`, for as many bits of the field as have been put (R89). -/
theorem testBit_foldl_replace (w x y pos len i : Nat) (hi : i < w) :
    ((List.range len).foldl (fun z i => if pos + i < w then
      z - bits z (pos + i) 1 * 2 ^ (pos + i) + bits y i 1 * 2 ^ (pos + i) else z) x).testBit i =
      if pos ≤ i ∧ i < pos + len then y.testBit (i - pos) else x.testBit i := by
  induction len with
  | zero => rw [if_neg (by omega)]; rfl
  | succ len ih =>
    rw [List.range_succ, List.foldl_append, List.foldl_cons, List.foldl_nil]
    split
    · rw [testBit_replace, ih]
      by_cases hp : i = pos + len
      · rw [if_pos hp, if_pos (by omega), hp, Nat.add_sub_cancel_left]
      · simp only [hp, if_false]
        exact ite_cond_congr (propext (by omega))
    · rw [ih]
      exact ite_cond_congr (propext (by omega))

/-- The bits of `bfi` (R89). -/
theorem testBit_fieldIn {ty : Ty} (x y ctl : Nat) {i : Nat} (hi : i < ty.width) :
    (fieldIn ty x y ctl).testBit i =
      if bits ctl 0 8 ≤ i ∧ i < bits ctl 0 8 + bits ctl 8 8 then y.testBit (i - bits ctl 0 8) else x.testBit i :=
  testBit_foldl_replace _ x y _ _ i hi

/-- A fill of ones from bit `len` on, made or not, leaves the bits below as they are. -/
theorem testBit_fill {f len n i : Nat} (c : Bool) (hf : f < 2 ^ len) (hn : len ≤ n) (hi : i < len) :
    (if c then f + (2 ^ n - 2 ^ len) else f).testBit i = f.testBit i := by
  have hfill : 2 ^ n - 2 ^ len = 2 ^ len * (2 ^ (n - len) - 1) := by
    rw [Nat.mul_sub, ← Nat.pow_add, Nat.add_sub_cancel' hn, Nat.mul_one]
  cases c
  · rfl
  · rw [if_pos rfl, Nat.add_comm, hfill, Nat.testBit_two_pow_mul_add _ hf, if_pos hi]

/-- The bits of `bfx` within the field, above which a signed fill lies (R89). -/
theorem testBit_fieldOut_of_lt {ty : Ty} (x ctl : Nat) {i : Nat} (hi : i < ty.width) (hlen : i < bits ctl 8 8) :
    (fieldOut ty x ctl).testBit i = x.testBit (bits ctl 0 8 + i) := by
  have hlen8 : bits ctl 8 8 < 2 ^ 8 := Nat.mod_lt _ (by decide)
  have hfill := testBit_fill (n := 320) (f := x / 2 ^ bits ctl 0 8 % 2 ^ bits ctl 8 8)
    ((ty == .i32 || ty == .i64) && 0 < bits ctl 8 8 &&
      (x / 2 ^ bits ctl 0 8 % 2 ^ bits ctl 8 8).testBit (bits ctl 8 8 - 1))
    (Nat.mod_lt _ (Nat.two_pow_pos _)) (by omega) hlen
  rw [fieldOut, Nat.testBit_mod_two_pow, decide_eq_true hi, Bool.true_and]
  refine hfill.trans ?_
  rw [Nat.testBit_mod_two_pow, Nat.testBit_div_two_pow, decide_eq_true hlen, Bool.true_and, Nat.add_comm]

/-- `bfx` of an unsigned type fills with zeros (R89). -/
theorem testBit_fieldOut_of_le {ty : Ty} (x ctl : Nat) {i : Nat} (h32 : ty ≠ .i32) (h64 : ty ≠ .i64)
    (hlen : bits ctl 8 8 ≤ i) : (fieldOut ty x ctl).testBit i = false := by
  have hnot : ((ty == .i32 || ty == .i64) && 0 < bits ctl 8 8 &&
      (x / 2 ^ bits ctl 0 8 % 2 ^ bits ctl 8 8).testBit (bits ctl 8 8 - 1)) = false := by
    rw [beq_eq_false_iff_ne.mpr h32, beq_eq_false_iff_ne.mpr h64]
    rfl
  rw [fieldOut, hnot, if_neg Bool.false_ne_true, Nat.testBit_mod_two_pow, Nat.testBit_mod_two_pow,
    decide_eq_false (by omega : ¬ i < bits ctl 8 8), Bool.false_and, Bool.and_false]

theorem bitFieldsBitByBit : Claim.BitFieldsBitByBit := by
  constructor
  · intro w x hlt
    refine ⟨fun i hi => testBit_revBits x hi, fun hx => ?_, fun hx => ?_, rfl, trailingZeros_zero w⟩
    · have hlog := (Nat.log2_lt hx).mpr hlt
      rw [leadingZeros_of_ne_zero hx, show w - 1 - (w - 1 - x.log2) = x.log2 by omega]
      exact ⟨Nat.testBit_log2 hx, fun i hi => Nat.testBit_lt_two_pow ((Nat.log2_lt hx).mp (by omega))⟩
    · obtain ⟨hone, -, hzeros⟩ := List.find?_range_eq_some.mp (find?_testBit_eq_trailingZeros hlt hx)
      exact ⟨hone, fun i hi => by simpa using hzeros i hi⟩
  · intro ty x y ctl _ i hi pos len
    have hpos : pos = bits ctl 0 8 := congrArg (· % 256) (Nat.div_one ctl).symm
    have hlen : len = bits ctl 8 8 := rfl
    rw [hpos, hlen]
    exact ⟨testBit_fieldIn x y ctl hi, testBit_fieldOut_of_lt x ctl hi, testBit_fieldOut_of_le x ctl⟩

/-- Settles O2: the model's numbers are the operations on words, and each count, reversal and field is known by its bits. -/
theorem bitInstructions : Obligations.BitInstructions :=
  ⟨wordBitwiseAndShifts, bitwiseAndShiftResults, bitFieldResults, bitFieldsBitByBit⟩

end Sys2Proof.Machine
end

section
/-!
PROOFS. Compare, select, move and address instructions, float instructions and conversions (spec/05_element_isa.md R90 to
R106): each is one of the classes of Laws/Ops, with the result that its rule gives.
-/

namespace Sys2Proof.Machine

/-! ## Compares, moves and addresses (R90 to R93) -/

/-- An instruction with no source is clean. -/
theorem Issues.clean_of_no_source {s : State} {t : Thread} {g : Guard} {dsts qs} (h : Issues s t g [] dsts qs) :
    Clean s t g [] dsts qs :=
  ⟨h, rfl⟩

/-- A clean compare writes its predicate (R90). -/
theorem exec_icmp {s : State} {t : Thread} {g : Guard} {cc : ICond} {ty : Ty} {qd : PredReg} {a : Src} {b : SrcB}
    (h : Clean s t g (srcA ty a ++ srcB ty b) [] [qd]) : exec (.icmp g cc ty qd a b) s = Writes s fun t =>
      t.setPred qd (icond cc (readInt ty (valA t ty a)) (readInt ty (valB t ty b))) := by
  simp [exec, execIcmp, issue_eq _ h.issues, h.clean, Writes, Completes]

/-- A select writes the source its predicate chooses, with that source's marks (R91). -/
theorem exec_sel {s : State} {t : Thread} {g : Guard} {ty : Ty} {d : Reg} {a : Src} {b : SrcB} {qk : PredReg}
    (h : Issues s t g (srcA ty a ++ srcB ty b) [(d, tyRegs ty)] [qk]) : exec (.sel g ty d a b qk) s = Writes s fun t =>
      if t.pred qk then t.setRegs d (tyRegs ty) (valA t ty a) (poisA t a (tyRegs ty))
      else t.setRegs d (tyRegs ty) (valB t ty b) (poisB t b (tyRegs ty)) := by
  rw [exec, execSel, carryOp_eq _ h]
  congr 1
  funext t
  split <;> rfl

theorem exec_nop {s : State} {t : Thread} (h : Issues s t { neg := false, q := 0 } [] [] []) :
    exec .nop s = Completes s s :=
  issue_eq _ h

/-- Settles O3: the compare writes a predicate, select and move carry marks, and the constant and address forms are of the
integer class. -/
theorem comparesMovesAndAddresses : Obligations.ComparesMovesAndAddresses :=
  fun _ _ _ _ _ _ _ =>
    ⟨fun _ _ h => exec_icmp h, fun _ h => exec_sel h, fun h => carryOp_eq _ h,
     fun _ h => intOp_eq _ h.clean_of_no_source, fun _ _ _ h => intOp_eq _ h, fun h => exec_nop h⟩

/-! ## The float class, by the result at the issuing thread -/

theorem floatReg_eq_of {s : State} {t : Thread} {g : Guard} {srcs} {d : Reg} {rm : RmField} {m : Rm}
    {f : Rm → Thread → Nat × Flags} {x : Nat × Flags} (hx : f m t = x)
    (h : FloatClean s t g srcs [(d, 1)] [] rm m x.2) :
    floatReg s g srcs d (some rm) f = Writes s (putFloat d x) := by
  subst hx
  exact floatReg_eq f h

theorem floatOp_eq_none_of {s : State} {t : Thread} {g : Guard} {srcs dsts qs} {f : Rm → Thread → Nat × Flags}
    (put : Nat → Thread → Thread) {x : Nat × Flags} (hx : f .rne t = x)
    (h : FloatClean s t g srcs dsts qs .rne .rne x.2) :
    floatOp s g srcs dsts qs true none f put =
      Writes s fun th => put x.1 { th with fpctl := orFlags th.fpctl x.2 } := by
  subst hx
  exact floatOp_eq_none f put h

theorem floatReg_eq_none_of {s : State} {t : Thread} {g : Guard} {srcs} {d : Reg} {f : Rm → Thread → Nat × Flags}
    {x : Nat × Flags} (hx : f .rne t = x) (h : FloatClean s t g srcs [(d, 1)] [] .rne .rne x.2) :
    floatReg s g srcs d none f = Writes s (putFloat d x) :=
  floatOp_eq_none_of _ hx h

/-! ## Float instructions that round (R94, R95, R100, R101, R103) -/

section
variable {s : State} {t : Thread} {g : Guard} {ty : Ty} {rm : RmField} {m : Rm} {sat : Bool} {d : Reg} {a : Src} {b : SrcB}

/-- A clean float instruction of one source writes the operation on that source's value, rounded once. -/
theorem float1_eq (f : XVal → XVal × Flags)
    (h : FloatClean s t g [(a, 1)] [(d, 1)] [] rm m
      (rounded ty sat m (fun vs => f (vs.getD 0 .nan)) [(t.reg a.reg).toNat]).2) :
    float1 s g ty rm sat d a f =
      Writes s (putFloat d (rounded ty sat m (fun vs => f (vs.getD 0 .nan)) [(t.reg a.reg).toNat])) :=
  floatReg_eq _ h

/-- A clean float instruction of two sources writes the operation on their values, rounded once. -/
theorem float2_eq (f : Rm → XVal → XVal → XVal × Flags)
    (h : FloatClean s t g (floatSrcs a b) [(d, 1)] [] rm m
      (rounded ty sat m (fun vs => f m (vs.getD 0 .nan) (vs.getD 1 .nan)) [(t.reg a.reg).toNat, valFB t b]).2) :
    float2 s g ty rm sat d a b f = Writes s (putFloat d
      (rounded ty sat m (fun vs => f m (vs.getD 0 .nan) (vs.getD 1 .nan)) [(t.reg a.reg).toNat, valFB t b])) :=
  floatReg_eq _ h

/-- Rounding to an integral value, as a float instruction of one source (R103). -/
theorem roundOp_eq (exact : Bool)
    (h : FloatClean s t g [(a, 1)] [(d, 1)] [] rm m
      (rounded ty false m (fun vs => integral m exact (vs.getD 0 .nan)) [(t.reg a.reg).toNat]).2) :
    roundOp s g ty rm exact d a =
      Writes s (putFloat d (rounded ty false m (fun vs => integral m exact (vs.getD 0 .nan)) [(t.reg a.reg).toNat])) :=
  floatReg_eq _ h

end

/-- Settles O4: each instruction is the one rounding operation of the float class, on the exact operation of its rule. -/
theorem floatRoundedResults : Obligations.FloatRoundedResults := by
  intro s t g ty rm m sat d a b one two is1 is2
  exact ⟨float2_eq fun m x y => exactSum [x, y] m, float2_eq fun m x y => exactSum [x, y.neg] m,
    float2_eq fun _ => prod, float2_eq fun _ => divV, fun h => floatReg_eq_of rfl h,
    float1_eq sqrtV, float1_eq rcpV, float1_eq rsqV, float1_eq exp2V, float1_eq log2V, float1_eq sinpiV, float1_eq cospiV,
    roundOp_eq false, roundOp_eq true, fun _ h => floatReg_eq_of rfl h⟩

/-! ## Float instructions that do not round (R96 to R99, R102) -/

/-- A clean float compare writes its predicate and ORs its flags (R98). -/
theorem exec_fcmp {s : State} {t : Thread} {g : Guard} {cc : FCond} {ty : Ty} {qd : PredReg} {a : Src} {b : SrcB}
    {r : Bool × Flags} (hr : fcond cc (ty.format.val (t.reg a.reg).toNat) (ty.format.val (valFB t b)) = r)
    (h : FloatClean s t g (floatSrcs a b) [] [qd] .rne .rne r.2) : exec (.fcmp g cc ty qd a b) s = Writes s fun th =>
      ({ th with fpctl := orFlags th.fpctl r.2 } : Thread).setPred qd r.1 := by
  have hbit : (r.1.toNat != 0) = r.1 := by cases r.1 <;> rfl
  rw [exec, execFcmp, floatOp_eq_none_of _ (x := (r.1.toNat, r.2)) (by rw [hr]) h, hbit]

/-- A clean `fmin` or `fmax` writes the one of each pair of elements that its rule picks (R96). -/
theorem minMax_eq {s : State} {t : Thread} {g : Guard} {ty : Ty} {isMax : Bool} {d : Reg} {a : Src} {b : SrcB}
    {x : Nat × Flags}
    (hx : elements ty (fun xs =>
      let p := xs.getD 0 0 % 2 ^ ty.format.width
      let q := xs.getD 1 0 % 2 ^ ty.format.width
      (minMaxBits ty.format isMax p q, (ty.format.val p).2 ||| (ty.format.val q).2)) [(t.reg a.reg).toNat, valFB t b] = x)
    (h : FloatClean s t g (floatSrcs a b) [(d, 1)] [] .rne .rne x.2) :
    minMax s g ty isMax d a b = Writes s (putFloat d x) :=
  floatReg_eq_none_of hx h

/-- A clean change of signs writes each element with its sign bit changed (R97). -/
theorem signOp_eq {s : State} {t : Thread} {g : Guard} {ty : Ty} {d : Reg} {a : Src} (f : Nat → Nat → Nat)
    {x : Nat × Flags}
    (hx : elements ty (fun xs => (f (ty.format.width - 1) (xs.getD 0 0 % 2 ^ ty.format.width), 0)) [(t.reg a.reg).toNat] = x)
    (h : FloatClean s t g [(a, 1)] [(d, 1)] [] .rne .rne x.2) : signOp s g ty d a f = Writes s (putFloat d x) :=
  floatReg_eq_none_of hx h

theorem floatSelectionAndClass : Claim.FloatSelectionAndClass := by
  intro s t g ty d a b
  refine ⟨minMax_eq rfl, minMax_eq rfl, signOp_eq (fun k x => x % 2 ^ k) rfl, signOp_eq (fun k x => x ^^^ 2 ^ k) rfl,
    fun h => ?_, fun h => ?_, fun _ _ h => exec_fcmp rfl h⟩
  · rw [exec, execFclass, floatReg_eq_none_of rfl h]
  · rw [exec, execFexpo, floatReg_eq_none_of rfl h]

/-! ## Conversions (R104 to R106) -/

/-- A clean conversion: it checks markers unless its source is an integer, and has a mode unless both sides are integers. -/
theorem exec_cvt {s : State} {t : Thread} {g : Guard} {ty sty : Ty} {rm : RmField} {m : Rm} {sat : Bool} {d : Reg} {a : Src}
    {x : Nat × Flags} (hx : elements ty (fun xs => convert ty sty m sat (xs.getD 0 0)) [valA t sty a] = x)
    (h : Clean s t g (srcA sty a) [(d, tyRegs ty)] []) (hmark : sty.isInt = false → markerTrap t (srcA sty a) = none)
    (hmode : if ty.isInt && sty.isInt then m = .rne else rmOf t rm = some m) (hfl : fpTrap t x.2 = none) :
    exec (.cvt g ty sty rm sat d a) s = Writes s fun th =>
      ({ th with fpctl := orFlags th.fpctl x.2 } : Thread).setRegs d (tyRegs ty) x.1 0 := by
  have hchecks : orTrap (firstPoison t (srcA sty a)) (if !sty.isInt then markerTrap t (srcA sty a) else none) = none := by
    rw [h.clean]
    cases hs : sty.isInt
    · exact hmark hs
    · rfl
  have hrm : (if ty.isInt && sty.isInt then none else some rm).elim (some Rm.rne) (rmOf t) = some m := by
    cases hints : ty.isInt && sty.isInt <;> rw [hints] at hmode
    · exact hmode
    · exact congrArg some hmode.symm
  subst hx
  rw [exec, execCvt, floatOp, issue_eq _ h.issues]
  simp only [hchecks, hrm, hfl]
  rfl

/-- Two halves side by side are the number of the one plus 2^16 of the other. -/
theorem toNat_append_halves (x y : Word) :
    ((y.extractLsb' 0 16 : BitVec 16) ++ (x.extractLsb' 0 16 : BitVec 16) : Word).toNat =
      x.toNat % 2 ^ 16 + y.toNat % 2 ^ 16 * 2 ^ 16 := by
  have hlow : x.toNat % 2 ^ 16 < 2 ^ 16 := Nat.mod_lt _ (by decide)
  rw [BitVec.toNat_append, BitVec.extractLsb'_toNat, BitVec.extractLsb'_toNat, Nat.shiftRight_zero, Nat.shiftRight_zero,
    Nat.shiftLeft_eq, Nat.mul_comm, ← Nat.two_pow_add_eq_or_of_lt hlow, Nat.add_comm, Nat.mul_comm]

/-- The mark of one register, as the lowest bit of the marks a result carries. -/
theorem getLsbD_poisA_one (t : Thread) (a : Src) : (poisA t a 1).getLsbD 0 = t.isPois a.reg := by
  have hmarks : poisA t a 1 = putBit 0 0 (t.isPois a.reg) := congrArg (putBit 0 0 <| t.isPois ·) (BitVec.add_zero a.reg)
  rw [hmarks]
  cases t.isPois a.reg <;> rfl

/-- `pack.b32` puts the low halves of its sources side by side, with the marks of both (R105). -/
theorem exec_pack_b32 {s : State} {t : Thread} {g : Guard} {rm : RmField} {sat : Bool} {d : Reg} {a b : Src}
    (h : Issues s t g [(a, 1), (b, 1)] [(d, 1)] []) : exec (.pack g .b32 rm sat d a b) s = Writes s fun t =>
      t.setReg d (((t.reg b.reg).extractLsb' 0 16 : BitVec 16) ++ ((t.reg a.reg).extractLsb' 0 16 : BitVec 16) : Word)
        (t.isPois a.reg || t.isPois b.reg) := by
  rw [exec, execPack, if_pos rfl, carryOp_eq _ h]
  refine congrArg (Writes s) (funext fun t => ?_)
  simp only [Thread.setRegs, BitVec.getLsbD_or, getLsbD_poisA_one, ← toNat_append_halves, BitVec.ofNat_toNat,
    BitVec.setWidth_eq]

/-- The low word of two halves put 32 bits apart is the lower half. -/
theorem ofNat_halves (x : Word) : BitVec.ofNat 32 (x.toNat % 2 ^ 16 + x.toNat / 2 ^ 16 * 2 ^ 32) =
    (x.extractLsb' 0 16).zeroExtend 32 := by
  apply BitVec.eq_of_toNat_eq
  simp only [BitVec.toNat_ofNat, BitVec.truncate_eq_setWidth, BitVec.toNat_setWidth, BitVec.extractLsb'_toNat,
    Nat.shiftRight_zero]
  omega

/-- The high word of two halves put 32 bits apart is the upper half. -/
theorem ofNat_halves_div (x : Word) : BitVec.ofNat 32 ((x.toNat % 2 ^ 16 + x.toNat / 2 ^ 16 * 2 ^ 32) / 2 ^ 32) =
    (x.extractLsb' 16 16).zeroExtend 32 := by
  apply BitVec.eq_of_toNat_eq
  simp only [BitVec.toNat_ofNat, BitVec.truncate_eq_setWidth, BitVec.toNat_setWidth, BitVec.extractLsb'_toNat,
    Nat.shiftRight_eq_div_pow]
  omega

/-- `unpack.b32` puts each half of its source into a register of its own, with the source's mark (R106). -/
theorem exec_unpack_b32 {s : State} {t : Thread} {g : Guard} {d : Reg} {a : Src}
    (h : Issues s t g [(a, 1)] [(d, 2)] []) : exec (.unpack g .b32 d a) s = Writes s fun t =>
      (t.setReg d (((t.reg a.reg).extractLsb' 0 16).zeroExtend 32) (t.isPois a.reg)).setReg (d + 1)
        (((t.reg a.reg).extractLsb' 16 16).zeroExtend 32) (t.isPois a.reg) := by
  rw [exec, execUnpack, if_pos rfl, carryOp_eq _ h]
  refine congrArg (Writes s) (funext fun t => ?_)
  simp only [Thread.setRegs, ofNat_halves, ofNat_halves_div]
  cases t.isPois a.reg <;> simp

theorem conversionResults : Claim.ConversionResults := by
  intro s t g ty sty rm m sat d a b
  refine ⟨exec_cvt rfl, exec_pack_b32, exec_unpack_b32, fun hty => ?_, fun hty => ?_⟩
  · intro e h
    rw [exec, execPack, if_neg hty, floatReg_eq _ h]
  · intro lo hi h
    rw [exec, execUnpack, if_neg hty, floatOp_eq_none_of _ rfl h]

/-- Settles O5: what a float instruction of selection, class or conversion writes is its function of the sources' encodings,
with the flags of the same. -/
theorem floatSelectionAndConversion : Obligations.FloatSelectionAndConversion :=
  ⟨floatSelectionAndClass, conversionResults⟩

end Sys2Proof.Machine
end

section
/-!
PROOFS. The events of the Crucibles and the k-step (spec/06_crucible_model.md R108, R112, R115; spec/07_crucible_isa.md R127,
R132, R133): what each event does while the cores run, and what a k-step leaves in each entry of a task's slots.
-/

namespace Sys2Proof.Machine

/-! ## Keyed lists -/

/-- A value set at a key is the one found there, and every other key is as it was. -/
theorem lookup_insertKey {α : Type} (l : List (Nat × α)) (k : Nat) (v : α) (x : Nat) :
    lookup (insertKey l k v) x = if x = k then some v else lookup l x := by
  induction l with
  | nil => simp only [insertKey, lookup_cons, eq_comm]
  | cons p l ih =>
    obtain ⟨j, w⟩ := p
    rcases Nat.lt_trichotomy k j with hlt | rfl | hgt
    · simp only [insertKey, if_pos hlt, lookup_cons, eq_comm]
    · simp only [insertKey, Nat.lt_irrefl, if_false, if_true, lookup_cons, eq_comm (a := x)]
      split <;> rfl
    · simp only [insertKey, if_neg (Nat.not_lt_of_gt hgt), if_neg (Nat.ne_of_gt hgt), lookup_cons, ih]
      split
      · rw [if_neg (by omega)]
      · rfl

/-- An erased key holds nothing, and every other key is as it was. -/
theorem lookup_eraseKey {α : Type} (l : List (Nat × α)) (k x : Nat) :
    lookup (eraseKey l k) x = if x = k then none else lookup l x := by
  induction l with
  | nil => exact (ite_self _).symm
  | cons p l ih =>
    obtain ⟨j, w⟩ := p
    by_cases hj : j = k
    · rw [show eraseKey ((j, w) :: l) k = eraseKey l k by simp [eraseKey, hj], ih, lookup_cons, hj]
      split
      · rfl
      · rw [if_neg (by omega)]
    · rw [show eraseKey ((j, w) :: l) k = (j, w) :: eraseKey l k by simp [eraseKey, hj], lookup_cons, lookup_cons, ih]
      split
      · rw [if_neg (by omega)]
      · rfl

/-! ## Accumulator entries (R78) -/

/-- An entry written reads back, and every other entry is as it was: the entries of allocation are those not listed. -/
theorem Task.acc_putAcc (t : Task) {slot slot' e e' : Nat} (a : AccEntry) (he : e < 256) (he' : e' < 256) :
    (t.putAcc slot e a).acc slot' e' = if slot' = slot ∧ e' = e then a else t.acc slot' e' := by
  have hkey : slot' * 256 + e' = slot * 256 + e ↔ slot' = slot ∧ e' = e := by omega
  simp only [Task.acc, Task.putAcc]
  by_cases ha : a = {}
  · rw [if_pos ha, lookup_eraseKey]
    simp only [hkey]
    split
    · exact ha.symm
    · rfl
  · rw [if_neg ha, lookup_insertKey]
    simp only [hkey]
    split <;> rfl

/-- The first `n` entries of a slot written, one after the other. -/
theorem Task.acc_foldl_putAcc (t : Task) {slot slot' e' n : Nat} (f : Nat → AccEntry) (hn : n ≤ 256) (he' : e' < 256) :
    ((List.range n).foldl (fun t e => t.putAcc slot e (f e)) t).acc slot' e' =
      if slot' = slot ∧ e' < n then f e' else t.acc slot' e' := by
  induction n with
  | zero => simp
  | succ n ih =>
    rw [List.range_succ, List.foldl_append, List.foldl_cons, List.foldl_nil, Task.acc_putAcc _ _ (by omega) he',
      ih (by omega)]
    by_cases hs : slot' = slot
    · rcases Nat.lt_trichotomy e' n with h | rfl | h
      · rw [if_neg (by omega), if_pos ⟨hs, h⟩, if_pos ⟨hs, Nat.lt_succ_of_lt h⟩]
      · simp [hs]
      · rw [if_neg (by omega), if_neg (by omega), if_neg (by omega)]
    · simp [hs]

/-- Each of the 256 entries of a slot is written, and no entry of another slot. -/
theorem Task.acc_putSlot (t : Task) {slot slot' e : Nat} (f : Nat → AccEntry) (he : e < 256) :
    (t.putSlot slot f).acc slot' e = if slot' = slot then f e else t.acc slot' e := by
  rw [Task.putSlot, Task.acc_foldl_putAcc t f (Nat.le_refl 256) he]
  simp only [he, and_true]

/-! ## The k-step (R115, R132) -/

/-- Entry 16·i + j of the slot takes the products of row i of the activations and column j of the plane. -/
theorem kStepAccumulates : Claim.KStepAccumulates := by
  intro q t slot i j hi hj
  have hrow : (16 * i + j) / 16 = i := by omega
  have hcol : (16 * i + j) % 16 = j := by omega
  rw [KStepJob.apply, Task.acc_putSlot t _ (by omega), hrow, hcol]
  split
  · next hslot => rw [hslot]
  · rfl

/-! ## The events -/

section
variable {s : State} {core : Nat} {c : Core}

/-- What the core of a Crucible makes of a look at it. -/
theorem State.bind_cru?_eq {n : Nat} {k : Crucible} (hc : s.core? core = some c) (hk : c.cru? n = some k) :
    ((s.core? core).bind fun c => c.cru? n) = some k := by
  rw [hc]
  exact hk

/-- While the cores run, an event of the cores leaves what it works out. -/
theorem State.ifRuns_eq (hrun : s.coresRun = true) (s' : State) : s.ifRuns s' = s' := if_pos hrun

/-- While the cores run, `KSTEP_COMPLETE` applies the oldest k-step, and frees the Crucible of a closed chain with the last. -/
theorem exec_kstepComplete {n : Nat} {k : Crucible} {q : KStepJob} {js : List KStepJob} (hrun : s.coresRun = true)
    (hc : s.core? core = some c) (hk : c.cru? n = some k) (hq : k.jobs = q :: js) :
    exec (.kstepComplete core n) s = .next (
      let s₁ := ((s.modTask core q.place q.apply).modCru core n fun k => { k with jobs := js }).modCore core fun c =>
        { c with count := { c.count with ksteps := c.count.ksteps + 1 } }
      if js = [] ∧ k.chain.any Chain.closed = true then s₁.freeCru core n else s₁) := by
  have hend : (js.isEmpty && k.chain.any Chain.closed) = true ↔ js = [] ∧ k.chain.any Chain.closed = true := by
    rw [Bool.and_eq_true, List.isEmpty_iff]
  simp only [exec, execKstepComplete, State.ifRuns_eq hrun, State.completeKstep, State.bind_cru?_eq hc hk, hq, hend]

/-- While the cores run, the first thread that waits for a Free Crucible claims it (R108). -/
theorem exec_crucibleClaim {n place tidx : Nat} {k : Crucible} {l : List (Nat × Nat)} (hrun : s.coresRun = true)
    (hc : s.core? core = some c) (hk : c.cru? n = some k) (hfree : k.holder = none) (hw : k.waiters = (place, tidx) :: l) :
    exec (.crucibleClaim core n) s = .next (s.claim core place tidx n).2 := by
  simp only [exec, execCrucibleClaim, State.ifRuns_eq hrun, State.bind_cru?_eq hc hk, hfree, hw]

/-- While the cores run, the oldest work of a core ends, and its granules become full (R127). -/
theorem exec_crucibleInstructionComplete {w : CruWork} {l : List CruWork} (hrun : s.coresRun = true)
    (hc : s.core? core = some c) (hw : c.work = w :: l) : exec (.crucibleInstructionComplete core) s =
      .next ((s.modCore core fun c => { c with work := c.work.erase w }).setFills core w.place w.fills) := by
  have hfirst : ((s.core? core).bind fun c => c.work.find? fun _ => true) = some w := by
    rw [hc, Option.bind_some, hw, List.find?_cons_of_pos rfl]
  simp only [exec, execCrucibleInstructionComplete, State.ifRuns_eq hrun, State.completeWork, hfirst]

end

theorem crucibleEvents : Claim.CrucibleEvents := by
  intro s core c hrun hc
  refine ⟨fun n k hk => ⟨fun q js hq => ?_, fun place tidx l hfree hw => ?_⟩, fun w l hw => ?_⟩
  · exact exec_kstepComplete hrun hc hk hq
  · exact exec_crucibleClaim hrun hc hk hfree hw
  · exact exec_crucibleInstructionComplete hrun hc hw

/-- Settles O22: each event is its model function at the Crucible found, and a k-step is 256 writes of distinct entries. -/
theorem crucibleEngine : Obligations.CrucibleEngine :=
  ⟨crucibleEvents, kStepAccumulates⟩

end Sys2Proof.Machine
end

section
/-!
PROOFS. The Crucible class at issue (spec/06_crucible_model.md R108 to R118; spec/07_crucible_isa.md R125 to R139): each
instruction whose checks pass, and that nothing holds back, completes with its own effect.
-/

namespace Sys2Proof.Machine

/-- An instruction that issues, and whose own checks and effects complete, completes. -/
theorem issue_completes {s s' : State} {t : Thread} {g : Guard} {srcs dsts qs} {body : Thread → Eff}
    (h : Issues s t g srcs dsts qs) (hbody : body t = .next s') : issue s g srcs dsts qs body = Completes s s' := by
  rw [issue_eq body h, hbody]
  rfl

/-! ## Checks that pass and waits that are over (R108, R111, R113, R125, R127) -/

@[simp] theorem checked_none (s : State) (k : Eff) : checked s none k = k := rfl

@[simp] theorem orTrap_none (x : Option Trap) : orTrap none x = x := rfl

theorem afterOps_eq {s : State} {r : ThreadRef} (h : s.scratchOpWaits r = false) (k : Eff) : afterOps s r k = k := by
  rw [afterOps, h, if_neg Bool.false_ne_true]

theorem afterChains_eq {s : State} {r : ThreadRef} {slots : List Nat} (h : chainWaits s r slots = false) (k : Eff) :
    afterChains s r slots k = k := by
  rw [afterChains, h, if_neg Bool.false_ne_true]

theorem claimed_eq {s s' : State} {r : ThreadRef} {n : Nat} (h : s.claim r.core (keyOf r.who).1 (keyOf r.who).2 n = (true, s'))
    (k : State → Eff) : claimed s r n k = k s' := by
  rw [claimed, h]

/-- `s₀` is the state after what a shell kept of Crucible `n` for the thread is restored (R111): `s` itself where none did. -/
def RestoresTo (s : State) (r : ThreadRef) (n : Nat) (s₀ : State) : Prop :=
  s.savedPlane? r.core (keyOf r.who).1 (keyOf r.who).2 n = none ∧ s₀ = s ∨
    (s.savedPlane? r.core (keyOf r.who).1 (keyOf r.who).2 n).isSome = true ∧
      s.claim r.core (keyOf r.who).1 (keyOf r.who).2 n = (true, s₀)

theorem restored_eq {s s₀ : State} {r : ThreadRef} {n : Nat} (h : RestoresTo s r n s₀) (k : State → Eff) :
    restored s r n k = k s₀ := by
  rcases h with ⟨hnone, rfl⟩ | ⟨hsome, hclaim⟩
  · rw [restored, hnone]
  · obtain ⟨p, hp⟩ := Option.isSome_iff_exists.mp hsome
    rw [restored, hp]
    exact claimed_eq hclaim k

/-! ## Plane and chain instructions (R129 to R133) -/

section
variable {s s₀ s₁ : State} {t : Thread} {g : Guard} {cru : BitVec 1}

/-- `mload` writes rows of the shadow plane, and their marks go (R129). -/
theorem exec_mload {fmt : Fmt} {ks : KStep} {qt : Bool} {a : Src} {off : BitVec 16} {pr : BitVec 8} {bs : List Byte}
    (hi : Issues s t g [(a, 1)] [] []) (hops : s.scratchOpWaits s.issuer = false)
    (hres : RestoresTo s s.issuer cru.toNat s₀)
    (hread : s₀.operandRead s.issuer (keyOf s.issuer.who).1 (cruAddr t a off.toNat) (operandBytes fmt ks.k qt) = (bs, none))
    (himage : imageTrap fmt ks.k qt (cruAddr t a off.toNat) bs = none)
    (hfault : cruFault s₀ s.issuer t (otherChain s₀ s.issuer cru.toNat) [] [(a, off.toNat, operandBytes fmt ks.k qt)] = none)
    (hclaim : s₀.claim s.issuer.core (keyOf s.issuer.who).1 (keyOf s.issuer.who).2 cru.toNat = (true, s₁)) :
    exec (.mload g fmt ks qt cru a off pr) s = Completes s (s₁.modCru s.issuer.core cru.toNat fun k =>
      { k with shadow := k.shadow.write (pr.toNat * fmtBytes fmt 16) (planeRows fmt ks.k qt bs)
               spois := k.spois.delRange pr.toNat ks.k }) :=
  issue_completes hi <| by
    simp only [afterOps_eq hops, restored_eq hres, hread, hfault, himage, checked_none, orTrap_none, claimed_eq hclaim]

/-- `mstream` adds a k-step of the open chain to those the engine has still to apply (R112, R132). -/
theorem exec_mstream {fmt : Fmt} {ks : KStep} {qt : Bool} {a : Src} {off : BitVec 16} {pr : BitVec 8} {bs : List Byte}
    {ch : Chain} (hi : Issues s t g [(a, 1)] [] []) (hops : s.scratchOpWaits s.issuer = false)
    (hres : RestoresTo s s.issuer cru.toNat s₀)
    (hread : s₀.operandRead s.issuer (keyOf s.issuer.who).1 (cruAddr t a off.toNat) (operandBytes fmt ks.k qt) = (bs, none))
    (himage : imageTrap fmt ks.k qt (cruAddr t a off.toNat) bs = none)
    (hopen : openChain s₀ s.issuer cru.toNat = some ch) (hfmt : ch.fmt = fmt)
    (hfault : cruFault s₀ s.issuer t false [] [(a, off.toNat, operandBytes fmt ks.k qt)] = none)
    (hslot : ((s₀.taskOf? s.issuer).bind fun q => slotPoison q [ch.slot]) = none)
    (hsteps : otherSteps s₀ s.issuer cru.toNat ch.slot = false)
    (hplane : planePoison (cruOf s₀ s.issuer cru.toNat) cru.toNat pr.toNat ks.k = none) :
    exec (.mstream g fmt ks qt cru a off pr) s =
      let job : KStepJob :=
        { place := (keyOf s.issuer.who).1, slot := ch.slot, fmt, k := ks.k, act := bs
          rows := (cruOf s₀ s.issuer cru.toNat).active.read (pr.toNat * fmtBytes fmt 16) (ks.k * fmtBytes fmt 16) }
      Completes s (s₀.modCru s.issuer.core cru.toNat fun k => { k with jobs := k.jobs ++ [job] }) :=
  issue_completes hi <| by
    have huse : (!((some ch).any fun c => c.fmt == fmt)) = false := by simp [hfmt]
    simp only [afterOps_eq hops, restored_eq hres, hread, hopen, huse, Option.map_some, Option.getD_some, hfault, himage, hslot,
      hplane, checked_none, orTrap_none, hsteps, if_neg Bool.false_ne_true]

/-- `mflip` exchanges the planes of the Crucible it holds, with their marks (R107, R130). -/
theorem exec_mflip (hi : Issues s t g [] [] []) (hres : RestoresTo s s.issuer cru.toNat s₀)
    (hother : otherChain s₀ s.issuer cru.toNat = false)
    (hclaim : s₀.claim s.issuer.core (keyOf s.issuer.who).1 (keyOf s.issuer.who).2 cru.toNat = (true, s₁)) :
    exec (.mflip g cru) s = Completes s (s₁.modCru s.issuer.core cru.toNat fun k =>
      { k with active := k.shadow, shadow := k.active, apois := k.spois, spois := k.apois }) :=
  issue_completes hi <| by
    simp only [restored_eq hres, hother, if_neg Bool.false_ne_true, checked_none, claimed_eq hclaim]

/-- `mbegin` opens a chain on the Crucible it holds (R131). -/
theorem exec_mbegin {fmt : Fmt} {sla : BitVec 8} (hi : Issues s t g [] [] []) (hres : RestoresTo s s.issuer cru.toNat s₀)
    (hfault : cruFault s₀ s.issuer t (openChain s₀ s.issuer cru.toNat).isSome [sla.toNat] [] = none)
    (hwait : chainWaits s₀ s.issuer [sla.toNat] = false)
    (hclaim : s₀.claim s.issuer.core (keyOf s.issuer.who).1 (keyOf s.issuer.who).2 cru.toNat = (true, s₁)) :
    exec (.mbegin g fmt cru sla) s = Completes s (s₁.modCru s.issuer.core cru.toNat fun k =>
      { k with chain := some { slot := sla.toNat, fmt, closed := false } }) :=
  issue_completes hi <| by
    simp only [restored_eq hres, hfault, checked_none, hwait, if_neg Bool.false_ne_true, claimed_eq hclaim]

/-- `mend` closes the open chain (R133). -/
theorem exec_mend (hi : Issues s t g [] [] []) (hres : RestoresTo s s.issuer cru.toNat s₀)
    (hopen : (openChain s₀ s.issuer cru.toNat).isSome = true) :
    exec (.mend g cru) s = Completes s (s₀.closeChain s.issuer.core cru.toNat) :=
  issue_completes hi <| by
    have hmisuse : (openChain s₀ s.issuer cru.toNat).isNone = false :=
      Option.isNone_eq_false_iff.mpr hopen
    simp only [restored_eq hres, hmisuse, if_neg Bool.false_ne_true, checked_none]

end

theorem planesAndChains : Claim.PlanesAndChains := by
  intro s s₀ s₁ t g cru r key n put hres
  refine ⟨?_, fun hi => ?_⟩
  · intro fmt ks qt a off pr len x rd hi hops himage hclean
    have hread : s₀.operandRead r key.1 x len = (rd.1, none) := Prod.ext rfl hclean
    refine ⟨fun hfault hclaim => ?_, fun ch k hopen hfmt hk hfault hslot hsteps hplane => ?_⟩
    · exact exec_mload hi hops hres hread himage hfault hclaim
    · subst hk
      exact exec_mstream hi hops hres hread himage hopen hfmt hfault hslot hsteps hplane
  · refine ⟨fun hother hclaim => ?_, fun fmt sla hfault hwait hclaim => ?_, fun hopen => ?_⟩
    · exact exec_mflip hi hres hother hclaim
    · exact exec_mbegin hi hres hfault hwait hclaim
    · exact exec_mend hi hres hopen

/-! ## Slot and tile instructions (R134 to R139) -/

theorem leNat_lt (bs : List Byte) : leNat bs < 256 ^ bs.length := by
  induction bs with
  | nil => exact Nat.one_pos
  | cons b bs ih =>
    have hb := b.isLt
    simp only [leNat, List.length_cons, Nat.pow_succ]
    omega

/-- The first element of a row of four bytes is their number. -/
theorem elemOf_word {bs : List Byte} (h : bs.length ≤ 4) : elemOf 32 bs 0 = leNat bs := by
  have hlt : leNat bs < 2 ^ 32 := Nat.lt_of_lt_of_le (leNat_lt bs) (Nat.pow_le_pow_right (by decide) h)
  rw [elemOf, bits, Nat.mul_zero, Nat.pow_zero, Nat.div_one, Nat.mod_eq_of_lt hlt]

/-- The state after a write of the class to the own scratchpad at `x`; under FILL the granules written become full at the
instruction's completion (R127). -/
def cruWritten (s : State) (r : ThreadRef) (x : Nat) (bs : List Byte) (fill : Bool) : State :=
  let s' := s.scratchWrite r.core (keyOf r.who).1 x bs false
  let fills := (List.range ((bs.length + 15) / 16)).map fun i => x / 16 + i
  if fill then s'.modCore r.core fun c =>
    { c with work := c.work ++ [{ place := (keyOf r.who).1, tidx := (keyOf r.who).2, fills }] }
  else s'

theorem cruWrite_eq {s : State} {r : ThreadRef} {x : Nat} {bs : List Byte}
    (hmeet : s.storesMeet r (keyOf r.who).1 x bs.length = false) (hops : s.scratchOpWaits r = false) (fill : Bool) :
    cruWrite s r x bs fill = .next (cruWritten s r x bs fill) := by
  simp only [cruWrite, hmeet, hops, Bool.or_false, if_neg Bool.false_ne_true, cruWritten]

section
variable {s : State} {t : Thread} {g : Guard} {a : Src} {off : BitVec 16} {sla : BitVec 8} {task : Task}

/-- `mzero` writes every entry of its slot (R134). -/
theorem exec_mzero (hi : Issues s t g [] [] []) (hfault : cruFault s s.issuer t false [sla.toNat] [] = none)
    (hwait : chainWaits s s.issuer [sla.toNat] = false) :
    exec (.mzero g sla) s = Completes s (onTask s s.issuer fun k => k.putSlot sla.toNat fun _ => .zero) :=
  issue_completes hi <| by simp only [hfault, checked_none, afterChains_eq hwait]

/-- `minit` makes each entry of its slot of the f32 at its place in the operand (R135). -/
theorem exec_minit {bs : List Byte} (hi : Issues s t g [(a, 1)] [] []) (hops : s.scratchOpWaits s.issuer = false)
    (hread : s.operandRead s.issuer (keyOf s.issuer.who).1 (cruAddr t a off.toNat) 1024 = (bs, none))
    (hfault : cruFault s s.issuer t false [sla.toNat] [(a, off.toNat, 1024)] = none)
    (hwait : chainWaits s s.issuer [sla.toNat] = false) :
    exec (.minit g a off sla) s = Completes s (onTask s s.issuer fun k => k.putSlot sla.toNat fun e =>
      .ofF32 (leNat ((bs.drop (4 * e)).take 4))) :=
  issue_completes hi <| by
    simp only [hread, afterOps_eq hops, hfault, checked_none, afterChains_eq hwait, elemOf_word (List.length_take_le ..)]

/-- `mdrain` writes its slot to the own scratchpad, each entry rounded once (R136). -/
theorem exec_mdrain {ofmt : OFmt} {drm : RmField} {rm : Rm} {dsat fill : Bool} (hi : Issues s t g [(a, 1)] [] [])
    (htask : s.taskOf? s.issuer = some task) (hops : s.scratchOpWaits s.issuer = false)
    (hfault : cruFault s s.issuer t false [sla.toNat] [(a, off.toNat, 256 * ((ofmtTy ofmt).w / 8))] = none)
    (hrm : rmOf t drm = some rm) (hwait : chainWaits s s.issuer [sla.toNat] = false)
    (hpois : slotPoison task [sla.toNat] = none)
    (hmeet : s.storesMeet s.issuer (keyOf s.issuer.who).1 (cruAddr t a off.toNat)
      (drainBytes task sla.toNat ofmt rm dsat).length = false) :
    exec (.mdrain g ofmt drm dsat fill a off sla) s = Completes s
      (cruWritten s s.issuer (cruAddr t a off.toNat) (drainBytes task sla.toNat ofmt rm dsat) fill) :=
  issue_completes hi <| by
    simp only [hfault, checked_none, hrm, afterChains_eq hwait, htask, hpois, cruWrite_eq hmeet hops]

/-- `mstat` writes the summary word of its slot (R138). -/
theorem exec_mstat {d : Reg} (hi : Issues s t g [] [(d, 1)] []) (htask : s.taskOf? s.issuer = some task)
    (hfault : cruFault s s.issuer t false [sla.toNat] [] = none) (hwait : chainWaits s s.issuer [sla.toNat] = false)
    (hpois : slotPoison task [sla.toNat] = none) :
    exec (.mstat g d sla) s = Writes s fun t => t.setReg d (BitVec.ofNat 32 (slotSummary task sla.toNat)) :=
  issue_completes hi <| by simp only [hfault, checked_none, afterChains_eq hwait, htask, hpois]

/-- `mscale` merges the source slot, scaled by rows and columns, into its slot (R137). -/
theorem exec_mscale {zs : Bool} {b : Src} {slb : BitVec 8} {sa sb : List Byte} (hi : Issues s t g [(a, 1), (b, 1)] [] [])
    (htask : s.taskOf? s.issuer = some task) (hops : s.scratchOpWaits s.issuer = false)
    (hsa : s.operandRead s.issuer (keyOf s.issuer.who).1 (cruAddr t a off.toNat) 16 = (sa, none))
    (hsb : s.operandRead s.issuer (keyOf s.issuer.who).1 (cruAddr t b 0) 16 = (sb, none))
    (hfault : cruFault s s.issuer t (sla == slb) [sla.toNat, slb.toNat] [(a, off.toNat, 16), (b, 0, 16)] = none)
    (hwait : chainWaits s s.issuer [sla.toNat, slb.toNat] = false)
    (hpois : slotPoison task [sla.toNat, slb.toNat] = none) :
    exec (.mscale g zs a b off slb sla) s =
      Completes s (onTask s s.issuer fun k => scaleTask k zs sla.toNat slb.toNat sa sb) :=
  issue_completes hi <| by
    simp only [hsa, hsb, afterOps_eq hops, hfault, checked_none, afterChains_eq hwait, htask, Option.bind_some, hpois,
      orTrap_none]

/-- `qtile` writes the quantised image of its rows to the own scratchpad (R139). -/
theorem exec_qtile {fmt : Fmt} {ks : KStep} {fill : Bool} {b : Src} {bs : List Byte}
    (hi : Issues s t g [(a, 1), (b, 1)] [] []) (hops : s.scratchOpWaits s.issuer = false)
    (hread : s.operandRead s.issuer (keyOf s.issuer.who).1 (cruAddr t b 0) (64 * ks.k) = (bs, none))
    (hfault : cruFault s s.issuer t false [] [(a, off.toNat, imageBytes fmt ks.k), (b, 0, 64 * ks.k)] = none)
    (hmeet : s.storesMeet s.issuer (keyOf s.issuer.who).1 (cruAddr t a off.toNat)
      (quantImage fmt ks.k ((chunks 4 (16 * ks.k) bs).map leNat)).length = false) :
    exec (.qtile g fmt ks fill a b off) s = Completes s (cruWritten s s.issuer (cruAddr t a off.toNat)
      (quantImage fmt ks.k ((chunks 4 (16 * ks.k) bs).map leNat)) fill) :=
  issue_completes hi <| by
    simp only [hread, afterOps_eq hops, hfault, checked_none, cruWrite_eq hmeet hops]

end

theorem slotsAndTiles : Claim.SlotsAndTiles := by
  intro s t g a off sla task r key read at_ onTask written htask hops
  have hread {x n : Nat} (hclean : (read x n).2 = none) : s.operandRead r key.1 x n = ((read x n).1, none) :=
    Prod.ext rfl hclean
  refine ⟨fun hwait => ⟨?_, ?_, ?_, ?_⟩, ?_, ?_⟩
  · intro hi hfault
    exact exec_mzero hi hfault hwait
  · intro hi hfault hclean
    exact exec_minit hi hops (hread hclean) hfault hwait
  · intro ofmt drm rm dsat fill hi hfault hrm hpois bs hmeet
    exact exec_mdrain hi htask hops hfault hrm hwait hpois hmeet
  · intro d hi hfault hpois
    exact exec_mstat hi htask hfault hwait hpois
  · intro zs b slb sa sb hi hwait hfault hsa hsb hpois
    exact exec_mscale hi htask hops (hread hsa) (hread hsb) hfault hwait hpois
  · intro fmt ks fill b rd bs hi hfault hclean hmeet
    exact exec_qtile hi hops (hread hclean) hfault hmeet

/-- Settles O21: with every check passed and every wait over, only the instruction's own effect is left of its body. -/
theorem crucibleInstructions : Obligations.CrucibleInstructions :=
  ⟨planesAndChains, slotsAndTiles⟩

end Sys2Proof.Machine
end

section
/-!
PROOFS. Atomics (spec/10_memory_isa.md R175, R187, R188; spec/09_ordering_rules.md R158, R163, R165): `atom`, `cas` and `red`
are one read-modify-write at issue, and what is left of it at its target when it stands alone is a read, the new value and
a write.
-/

namespace Sys2Proof.Machine

/-! ## The issue of a read-modify-write (R158, R165, R175) -/

/-- No source of a clean instruction is poisoned, and so none of its last sources. -/
theorem Clean.firstPoison_right {s : State} {t : Thread} {g : Guard} {a b : List (Src × Nat)} {dsts qs}
    (h : Clean s t g (a ++ b) dsts qs) : firstPoison t b = none :=
  (Option.or_eq_none_iff.mp (firstPoison_append t a b ▸ h.clean)).2

section
variable {s : State} {r : ThreadRef} {kind : PendKind} {d : Reg} {words : Nat} {va : DWord} {ord : MemOrd} {scope : Scope}
  {w : Rmw}

/-- `atom`, `cas` and `red` past every check and wait come to the issue of their read-modify-write. -/
theorem rmwOp_eq {s₁ : State} {t : Thread} {g : Guard} {ty : Ty} {m : MemRef} {data : List (Src × Nat)} {target : Target}
    (f : Thread → Rmw)
    (htarget : s.formTarget s.issuer t { m, size := ty.width / 8, watch := .atom, kind := .atomic, atom := true } =
      (.ok target, s₁))
    (h : Clean s t g (baseSrc m ++ data) [(d, words)] [])
    (hmay : s₁.opMayIssue s.issuer t (if ordRel ord then some scope else none) = true) :
    rmwOp s g ty ord scope m data kind d words f =
      .next (State.finish s.issuer (issueRmw s₁ s.issuer kind d words (formAddr t m) ord scope (f t) target)) := by
  rw [rmwOp, issue_eq _ h.issues]
  simp [htarget, h.firstPoison_right, hmay]

/-- A read-modify-write on no peer's memory waits among its thread's work for its target. -/
theorem issueRmw_home {target : Target} (h : ∀ dev off, target ≠ .peer dev off) :
    issueRmw s r kind d words va ord scope w target = .next (s.modThread r fun t => t.pending (opPend s kind d words none va
      (some (target, .rmw w)) (ordAcq ord) (ordRel ord) scope (if w.bytes = 8 then .b64 else .b32) none)) := by
  cases target with
  | peer dev off => exact absurd rfl (h dev off)
  | _ => rfl

/-- A read-modify-write on a peer's memory joins the request of another lane of its issue (R165). -/
theorem issueRmw_join {dev off tag : Nat} (h : s.peerLane? r dev off w = some tag) :
    issueRmw s r kind d words va ord scope w (.peer dev off) = .next ((s.joinPeer tag w).modThread r fun t => t.pending
      (opPend (s.joinPeer tag w) kind d words none va none (ordAcq ord) (ordRel ord) scope
        (if w.bytes = 8 then .b64 else .b32) (some tag))) := by
  simp only [issueRmw, h]

/-- A read-modify-write on a peer's memory that joins no other goes out, with a flit of each class. -/
theorem issueRmw_send {s₂ : State} {dev off : Nat} (h : s.peerLane? r dev off w = none)
    (hallow : s.allow r dev 1 1 va = .pass s₂) :
    issueRmw s r kind d words va ord scope w (.peer dev off) =
      let x := s₂.sendPeer dev off (.thread r) va kind d [] false [w] w.bytes
      .next (x.1.modThread r fun t => t.pending (opPend x.1 kind d words none va none (ordAcq ord) (ordRel ord) scope
        (if w.bytes = 8 then .b64 else .b32) (some x.2))) := by
  simp only [issueRmw, h, withAllowance, hallow]

end

/-- Each of the three instructions is `rmwOp` of its own read-modify-write. -/
theorem atomicsIssue : Claim.AtomicsIssue := by
  intro s s₁ t g ty ord scope m target r va size bits goes htarget
  have hgoes {data d words o kind i} (f : Thread → Rmw) (hexec : exec i s = rmwOp s g ty o scope m data kind d words f)
      (hbytes : (f t).bytes = ty.width / 8) : goes data [(d, words)] i o kind d words (f t) := by
    intro h hmay
    rw [hexec, rmwOp_eq f htarget h hmay]
    refine ⟨fun hhome => ?_, fun dev off tag hpeer hlane => ?_, fun dev off s₂ hpeer hlane hallow => ?_⟩
    · rw [issueRmw_home hhome, hbytes]
      rfl
    · rw [hpeer, issueRmw_join hlane, hbytes]
      rfl
    · rw [hpeer, issueRmw_send hlane hallow, hbytes]
      rfl
  refine ⟨fun op d b => ?_, fun d b c => ?_, fun op rel b => ?_⟩
  · exact hgoes (fun t => .op op ty (BitVec.ofNat 64 (valA t ty b))) rfl rfl
  · exact hgoes (fun t => .cas ty (BitVec.ofNat 64 (valA t ty b)) (BitVec.ofNat 64 (valA t ty c))) rfl rfl
  · exact hgoes (fun t => .op op ty (BitVec.ofNat 64 (valA t ty b))) rfl rfl

/-! ## The performance at the target (R163, R187, R188) -/

/-- A read-modify-write that combines with no other (R165) receives the value found and leaves its new one; a failed `cas`
leaves the value found. A float sum is a case of its own in `combine`, and of one operand it is the same. -/
theorem combine_single (m : Rmw) (old : Nat) : combine old old [] [m] = ([old], (m.new old).getD old) := by
  by_cases hsum : ∃ b, m = .op .add .f32 b
  · obtain ⟨b, rfl⟩ := hsum
    rfl
  · rw [combine]
    · rfl
    · exact fun b h => hsum ⟨b, h⟩

/-- One lane's read-modify-write performed on bytes that are not poisoned. -/
theorem State.performRmw_single {s s' : State} {r : ThreadRef} {p : Pend} {k : Nat} {target : Target} {m : Rmw}
    {bs : List Byte} (hop : p.op = some (target, .rmw m)) (hlanes : s.lanesOf r p = [(r, k, p)])
    (hread : s.opRead r.core (wideScope p.scope) target m.bytes = (bs, false, s')) :
    s.performRmw r p target m =
      ((match m.new (leNat bs) with
        | some v => s'.opWrite r.core (wideScope p.scope) target (leBytes m.bytes v)
        | none => s').answerPend r k p (leNat bs) 0 none).opAcquire r p := by
  simp only [State.performRmw, hlanes, List.filterMap_cons, hop, List.filterMap_nil, hread, combine_single]
  cases hnew : m.new (leNat bs) <;> simp [hnew]

theorem atomicsArePerformed : Claim.AtomicsArePerformed := by
  intro s r
  refine ⟨fun hrun => ?_, ?_⟩
  · rw [exec, execAtomicAtHome, State.ifRuns_eq hrun]
  · intro t p k target m ht holdest hop hbusy hlanes x hclean old s₁
    have hread : s.opRead r.core (wideScope p.scope) target m.bytes = (x.1, false, x.2.2) := by rw [← hclean]
    simp only [State.performOp, ht, Option.bind_some, holdest, hop, hbusy, State.performRmw_single hop hlanes hread]
    rfl

/-- Settles O14: past its checks each instruction is one issue of a read-modify-write, and one lane's is performed as a read,
its new value and a write. -/
theorem atomics : Obligations.Atomics :=
  ⟨atomicsIssue, atomicsArePerformed⟩

end Sys2Proof.Machine
end

section
/-!
PROOFS. Collectives (spec/11_ladle_host_fabric.md R202 to R206; spec/09_ordering_rules.md R170): the two instructions past
their checks, the two events of a running collective, what its end leaves, and the elements of its output.
-/

namespace Sys2Proof.Machine

/-! ## The instructions (R203, R205) -/

section
variable {s s₁ s₂ : State} {t : Thread} {g : Guard} {base : Src} {off : Word} {pa : Nat} {bs : List Byte}

/-- Past its checks, `collwait` does as CSTATE says (R205). -/
theorem exec_collwait (hi : Issues s t g [(base, 2)] [] []) (htarget : s.collTarget s.issuer t base off = (.ok pa, s₁))
    (hqueue : t.queue = []) (hwait : State.accessWaits t = false) (hbusy : s₁.pageBusy pa = false)
    (hread : s₁.readDesc s.issuer.core pa = (bs, false, s₂)) :
    exec (.collwait g base off) s = .next (State.finish s.issuer (
      let cstate := bits (recWord bs 7) 0 8
      if cstate = 1 then .park s₂ (.copy (.coll pa))
      else if cstate = 2 then .next (s₂.dropClean s.issuer.core)
      else if cstate = 3 then .trap s₂
        { kind := .remoteFault, sub := BitVec.ofNat 8 (bits (recWord bs 7) 8 8), addr := formAddr t (lineRef base off) }
      else .next s₂)) := by
  rw [exec, execCollwait, issue_eq _ hi]
  simp only [htarget, hqueue, hwait, hbusy, hread, List.isEmpty_nil, Bool.not_true, Bool.or_self, Bool.false_eq_true, if_false]
  split
  · next h => rw [if_pos h]
  · next h => rw [if_neg (by omega), if_pos h]
  · next h => rw [if_neg (by omega), if_neg (by omega), if_pos h]
  · next h1 h2 h3 => rw [if_neg h1, if_neg h2, if_neg h3]

end

theorem collectivesStart : Claim.CollectivesStart := by
  intro s s₁ s₂ t g base off pa bs r va w mask others a c hi htarget hqueue hwait hquiet hbusy hread hdev hbad hfab hreach
    hroom
  have hfabric : (!others.isEmpty && !s₂.part.fab) = false := by rcases hfab with h | h <;> simp [h]
  have hfind : others.find? s₂.unreach = none := List.find?_eq_none.mpr fun x hx => by simp [hreach x hx]
  have hfree : ¬ collLimit ≤ s₂.colls.length := Nat.not_le.mpr hroom
  simp only [r, others, mask, w] at htarget hquiet hread hfabric hfind
  refine issue_completes hi ?_
  simp only [htarget, hqueue, hwait, hquiet, hbusy, hread, hdev, hbad, hfabric, hfind, hfree, List.isEmpty_nil, Bool.not_true,
    Bool.or_self, Bool.false_eq_true, if_false]
  rfl

theorem collectivesAreWaitedFor : Claim.CollectivesAreWaitedFor := by
  intro s s₁ s₂ t g base off pa bs r va cstate hi htarget hqueue hwait hbusy hread
  rw [exec_collwait hi htarget hqueue hwait hbusy hread]
  refine ⟨fun h => ?_, fun h => ?_, fun h => ?_, fun h => ?_⟩
  · rw [if_pos h]
    rfl
  · rw [if_neg (by omega), if_pos h]
    rfl
  · rw [if_neg (by omega), if_neg (by omega), if_pos h]
  · rw [if_neg (by omega), if_neg (by omega), if_neg (by omega)]
    rfl

/-! ## The events (R204, R206) -/

/-- The participants of a collective other than device `dev`. -/
def otherMembers (c : Coll) (dev : Nat) : List Nat := (collMembers c.mask).filter (· != dev)

theorem any_unreach_otherMembers {s : State} {c : Coll} (h : ∀ d ∈ otherMembers c s.dev, s.unreach d = false) :
    (otherMembers c s.dev).any s.unreach = false :=
  List.any_eq_false.mpr fun d hd => by simp [h d hd]

section
variable {s : State} {k : Nat} {c : Coll}

/-- While the cores run, a collective with every input at hand and nothing in its way runs to its end. -/
theorem exec_collectiveComplete {inputs : List (Nat × List Byte × List Nat)} (hrun : s.coresRun = true)
    (hk : s.colls[k]? = some c)
    (hinputs : ∀ d ∈ otherMembers c s.dev, ∃ x ∈ inputs, x.1 = d ∧ x.2.1.length = c.count * c.ty.width / 8)
    (htwin : collTwin s c = false) (hpaused : collPaused s c = false)
    (hreach : ∀ d ∈ otherMembers c s.dev, s.unreach d = false)
    (hin : s.bufBusy (s.collAccessor c) c.inbuf (c.count * c.ty.width / 8) .read = false)
    (hend : s.endBusy c (State.collOutSize c s.dev) = false) :
    exec (.collectiveComplete k inputs) s =
      .next (s.runColl c (inputs.map fun x => (x.1, State.markedInput c.ty.width x.2.1 x.2.2))) := by
  have hall : ((otherMembers c s.dev).all fun d =>
      inputs.any fun x => x.1 == d && x.2.1.length == c.count * c.ty.width / 8) = true := by
    simp only [List.all_eq_true, List.any_eq_true, Bool.and_eq_true, beq_iff_eq]
    exact hinputs
  have hunreach := any_unreach_otherMembers hreach
  rw [otherMembers] at hall hunreach
  simp only [exec, execCollectiveComplete, State.ifRuns_eq hrun, hk, hall, htwin, hpaused, hunreach, hin, hend,
    Bool.not_true, Bool.or_self, Bool.false_eq_true, if_false]

/-- While the cores run, collectives of one CID fail together. -/
theorem exec_collectiveFail_twins (hrun : s.coresRun = true) (hk : s.colls[k]? = some c) (htwin : collTwin s c = true)
    (hend : ∀ d ∈ s.colls.filter (·.cid == c.cid), s.endBusy d (State.collOutSize d s.dev) = false) :
    exec (.collectiveFail k 0x01) s =
      .next ((s.colls.filter (·.cid == c.cid)).foldl (fun s d => s.failHere d 0x01 none) s) := by
  have hfree : ((s.colls.filter (·.cid == c.cid)).any fun d => s.endBusy d (State.collOutSize d s.dev)) = false :=
    List.any_eq_false.mpr fun d hd => by simp [hend d hd]
  simp only [exec, execCollectiveFail, State.ifRuns_eq hrun, hk, htwin, decide_true, Bool.and_self, if_true, hfree,
    Bool.false_eq_true, if_false]

/-- While the cores run, a collective fails alone unless it is one of two of its CID and fails for that: where this device
finds a participant out of reach the others are told, and else one of them has told this device. -/
theorem exec_collectiveFail_alone {fcode : Byte} (hrun : s.coresRun = true) (hk : s.colls[k]? = some c)
    (hend : s.endBusy c (State.collOutSize c s.dev) = false) (halone : (fcode = 0x01 && collTwin s c) = false) :
    exec (.collectiveFail k fcode) s = .next (
      if fcode = 0x02 && (otherMembers c s.dev).any s.unreach then s.failHere c 0x02 none
      else if (fcode = 0x01 || fcode = 0x02 || fcode = 0x03) && !(otherMembers c s.dev).isEmpty then
        s.failColl c fcode none
      else s) := by
  simp only [exec, execCollectiveFail, State.ifRuns_eq hrun, hk, halone, Bool.false_eq_true, if_false, List.any_cons,
    List.any_nil, hend, Bool.or_self]
  rfl

end

theorem collectivesEnd : Claim.CollectivesEnd := by
  intro s k hrun
  refine ⟨fun hk => ⟨fun inputs => ?_, fun fcode => ?_⟩, fun c hk => ⟨?_, ?_, ?_, ?_⟩⟩
  · simp only [exec, execCollectiveComplete, State.ifRuns_eq hrun, hk]
  · simp only [exec, execCollectiveFail, State.ifRuns_eq hrun, hk]
  · intro inputs n hinputs htwin hpaused hreach hin hend
    exact exec_collectiveComplete hrun hk hinputs htwin hpaused hreach hin hend
  · exact exec_collectiveFail_twins hrun hk
  · intro hend hreach
    have hunreach : (otherMembers c s.dev).any s.unreach = true := List.any_eq_true.mpr hreach
    rw [exec_collectiveFail_alone hrun hk hend rfl, hunreach]
    rfl
  · intro fcode hend hothers hcause
    have hmembers : (otherMembers c s.dev).isEmpty = false := List.isEmpty_eq_false_iff.mpr hothers
    rcases hcause with ⟨rfl, htwin⟩ | ⟨rfl, hreach⟩ | rfl
    · rw [exec_collectiveFail_alone hrun hk hend (Bool.and_eq_false_imp.mpr fun _ => htwin), hmembers]
      rfl
    · rw [exec_collectiveFail_alone hrun hk hend rfl, any_unreach_otherMembers hreach, hmembers]
      rfl
    · rw [exec_collectiveFail_alone hrun hk hend rfl, hmembers]
      rfl

/-! ## What the end leaves (R203, R204, R206) -/

@[simp] theorem State.dev_send (s : State) (m : OutMsg) : (s.send m).dev = s.dev := rfl

theorem collectivesWriteTheirState : Claim.CollectivesWriteTheirState := by
  intro s c a n outs
  refine ⟨?_, ?_, fun fcode result cstate => ⟨rfl, rfl, rfl⟩⟩
  · intro own s₁ s₂ others hread hdev sent ins out
    simp only [a, n] at hread
    refine ⟨fun hfits hdev₂ hover => ?_, fun hfits => ?_⟩
    · simp only [sent, a, outs] at hfits
      simp only [State.runColl, hread, State.dev_send, hdev, hfits, hdev₂, hover, Bool.false_eq_true, if_false]
      rfl
    · simp only [sent, a, outs] at hfits
      simp only [State.runColl, hread, State.dev_send, hdev, hfits]
      rfl
  · intro s₁ others hread
    simp only [a, n] at hread
    simp only [State.runColl, hread]

/-! ## Elements of a buffer (R202, R204) -/

/-- Items within one of several blocks of one length, laid one after the other. -/
theorem take_drop_flatten {α : Type} {ls : List (List α)} {l : List α} {len k j n : Nat} (hlen : ∀ x ∈ ls, x.length = len)
    (hk : ls[k]? = some l) (hn : j + n ≤ len) : (ls.flatten.drop (len * k + j)).take n = (l.drop j).take n := by
  induction ls generalizing k with
  | nil => simp at hk
  | cons x ls ih =>
    have hx := hlen x List.mem_cons_self
    cases k with
    | zero =>
      obtain rfl : x = l := by simpa using hk
      rw [Nat.mul_zero, Nat.zero_add, List.flatten_cons, List.drop_append_of_le_length (by omega),
        List.take_append_of_le_length (by rw [List.length_drop]; omega)]
    | succ k =>
      rw [Nat.mul_succ, Nat.add_right_comm, Nat.add_comm, ← hx, List.flatten_cons, List.drop_length_add_append, hx]
      exact ih (fun y hy => hlen y (List.mem_cons_of_mem x hy)) (by simpa using hk)

/-- Blocks of one length, laid one after the other. -/
theorem length_flatten_of_forall_length_eq {α : Type} {ls : List (List α)} {len : Nat} (hlen : ∀ x ∈ ls, x.length = len) :
    ls.flatten.length = len * ls.length := by
  induction ls with
  | nil => rfl
  | cons x ls ih =>
    have hx := hlen x List.mem_cons_self
    have hrest := ih fun y hy => hlen y (List.mem_cons_of_mem x hy)
    rw [List.flatten_cons, List.length_append, hx, hrest, List.length_cons, Nat.mul_succ, Nat.add_comm]

/-- Element `i` of block `k`, where every block holds `count` elements. -/
theorem State.elemAt_flatten {w count k i : Nat} {ls : List (List (Byte × Bool))} {l : List (Byte × Bool)}
    (hlen : ∀ x ∈ ls, x.length = w / 8 * count) (hk : ls[k]? = some l) (hi : i < count) :
    State.elemAt w ls.flatten (k * count + i) = State.elemAt w l i := by
  have hfit : w / 8 * i + w / 8 ≤ w / 8 * count := Nat.mul_le_mul_left (w / 8) hi
  have hplace : w / 8 * (k * count + i) = w / 8 * count * k + w / 8 * i := by
    rw [Nat.mul_add, Nat.mul_comm k count, Nat.mul_assoc]
  simp only [State.elemAt, hplace, take_drop_flatten hlen hk hfit]

/-- A type that a descriptor may name is one or more whole bytes. -/
theorem width_of_collType {ty : Ty} (h : collType ty = true) : ty.width = 8 * (ty.width / 8) ∧ 0 < ty.width / 8 := by
  revert h
  cases ty <;> decide

theorem size_of_collType {ty : Ty} (h : collType ty = true) (n : Nat) : n * ty.width / 8 = ty.width / 8 * n := by
  rw [Nat.mul_div_assoc n ⟨ty.width / 8, (width_of_collType h).1⟩, Nat.mul_comm]

/-- The bytes of element `i` of a reduction, each with the mark of the element. -/
def reducedElem (c : Coll) (ins : List (Nat × List (Byte × Bool))) (i : Nat) : List (Byte × Bool) :=
  (leBytes (c.ty.width / 8) (State.collReduce c (ins.map fun x => (State.elemAt c.ty.width x.2 i).1))).map fun b =>
    (b, ins.any fun x => (State.elemAt c.ty.width x.2 i).2)

/-- Items that all have one mark have that mark. -/
theorem any_const_of_length_pos {α : Type} {l : List α} (h : 0 < l.length) (b : Bool) : l.any (fun _ => b) = b := by
  rw [Bool.eq_iff_iff, List.any_eq_true, exists_and_right]
  exact and_iff_right (List.exists_mem_of_length_pos h)

section
variable {c : Coll} {dev : Nat} {ins : List (Nat × List (Byte × Bool))}

theorem length_reducedElem (i : Nat) : (reducedElem c ins i).length = c.ty.width / 8 := by
  rw [reducedElem, List.length_map, length_leBytes]

/-- An all-reduce, and a reduce at its root, write the reduction element by element. -/
theorem State.collOutput_reduce (h : c.cop = 0 ∨ c.cop = 1 ∧ c.root = dev) :
    State.collOutput c dev ins = ((List.range c.count).map (reducedElem c ins)).flatten := by
  rcases h with h | ⟨h, hroot⟩
  · simp only [State.collOutput, h, List.flatMap, List.map_map, List.any_map]
    rfl
  · simp only [State.collOutput, h, hroot, if_true, List.flatMap, List.map_map, List.any_map]
    rfl

theorem forall_length_reducedElem (n : Nat) :
    ∀ x ∈ (List.range n).map (reducedElem c ins), x.length = c.ty.width / 8 :=
  List.forall_mem_map.mpr fun i _ => length_reducedElem i

/-- The one element of a reduced element's bytes. -/
theorem State.elemAt_reducedElem (hty : collType c.ty = true) (i : Nat) : State.elemAt c.ty.width (reducedElem c ins i) 0 =
    (State.collReduce c (ins.map fun x => (State.elemAt c.ty.width x.2 i).1) % 2 ^ c.ty.width,
      ins.any fun x => (State.elemAt c.ty.width x.2 i).2) := by
  obtain ⟨hwidth, hpos⟩ := width_of_collType hty
  have hpow : 256 ^ (c.ty.width / 8) = 2 ^ c.ty.width := by
    rw [show 256 = 2 ^ 8 from rfl, ← Nat.pow_mul, ← hwidth]
  rw [State.elemAt, Nat.mul_zero, List.drop_zero, List.take_of_length_le (Nat.le_of_eq (length_reducedElem i))]
  refine Prod.ext ?_ ?_
  · rw [reducedElem, List.map_map, ← hpow]
    exact (congrArg leNat (List.map_id _)).trans (leNat_leBytes ..)
  · have hbytes (v : Nat) : 0 < (leBytes (c.ty.width / 8) v).length := by rwa [length_leBytes]
    rw [reducedElem, List.any_map]
    exact any_const_of_length_pos (hbytes _) _

/-- The output of a reduction is as long as an input. -/
theorem State.length_collOutput_reduce (hty : collType c.ty = true) (h : c.cop = 0 ∨ c.cop = 1 ∧ c.root = dev) :
    (State.collOutput c dev ins).length = c.count * c.ty.width / 8 := by
  rw [size_of_collType hty, State.collOutput_reduce h,
    length_flatten_of_forall_length_eq (forall_length_reducedElem c.count), List.length_map, List.length_range]

/-- An element of the output of a reduction is the reduction of the participants' elements at its place, with a mark where
one of them has one. -/
theorem State.elemAt_collOutput_reduce (hty : collType c.ty = true) (h : c.cop = 0 ∨ c.cop = 1 ∧ c.root = dev) {i : Nat}
    (hi : i < c.count) : State.elemAt c.ty.width (State.collOutput c dev ins) i =
      (State.collReduce c (ins.map fun x => (State.elemAt c.ty.width x.2 i).1) % 2 ^ c.ty.width,
        ins.any fun x => (State.elemAt c.ty.width x.2 i).2) := by
  have hlen : ∀ x ∈ (List.range c.count).map (reducedElem c ins), x.length = c.ty.width / 8 * 1 := by
    rw [Nat.mul_one]
    exact forall_length_reducedElem c.count
  have hblock : ((List.range c.count).map (reducedElem c ins))[i]? = some (reducedElem c ins i) := by
    rw [List.getElem?_map, List.getElem?_range hi, Option.map_some]
  have helem := State.elemAt_flatten hlen hblock Nat.one_pos
  rw [Nat.mul_one, Nat.add_zero] at helem
  rw [State.collOutput_reduce h, helem, State.elemAt_reducedElem hty]

/-- A gather lays the inputs one after the other. -/
theorem State.elemAt_collOutput_gather (hty : collType c.ty = true) (hcop : c.cop = 3)
    (hins : ∀ x ∈ ins, x.2.length = c.count * c.ty.width / 8) {k i : Nat} {x : Nat × List (Byte × Bool)} (hx : ins[k]? = some x)
    (hi : i < c.count) :
    State.elemAt c.ty.width (State.collOutput c dev ins) (k * c.count + i) = State.elemAt c.ty.width x.2 i := by
  have hlen : ∀ l ∈ ins.map Prod.snd, l.length = c.ty.width / 8 * c.count :=
    List.forall_mem_map.mpr fun x hx => (hins x hx).trans (size_of_collType hty c.count)
  have hblock : (ins.map Prod.snd)[k]? = some x.2 := by rw [List.getElem?_map, hx, Option.map_some]
  simp only [State.collOutput, hcop]
  exact State.elemAt_flatten hlen hblock hi

end

/-! ## The reduction of one element (R202) -/

/-- What an integer result leaves in a register is the integer modulo 2^w. -/
theorem placeInt_emod (ty : Ty) (x : Int) : ((placeInt ty x % 2 ^ ty.width : Nat) : Int) = x % 2 ^ ty.width := by
  rw [Int.natCast_emod, ← two_pow_eq_cast]
  exact (Int.emod_eq_emod_iff_emod_sub_eq_zero.mpr (Int.emod_eq_zero_of_dvd (dvd_sub_placeInt ty x))).symm

/-- The least of a list's integers is what their minimum folds to, from any start that is no less. -/
theorem foldl_min_eq {a v : Int} {l : List Int} (hv : v ∈ l) (hl : ∀ x ∈ l, v ≤ x) (ha : v ≤ a) : l.foldl min a = v := by
  have h : (a :: l).min? = some v := List.min?_eq_some_iff.mpr ⟨List.mem_cons_of_mem a hv, by simpa using ⟨ha, hl⟩⟩
  exact Option.some.inj (List.min?_cons'.symm.trans h)

/-- The greatest of a list's integers is what their maximum folds to, from any start that is no greater. -/
theorem foldl_max_eq {a v : Int} {l : List Int} (hv : v ∈ l) (hl : ∀ x ∈ l, x ≤ v) (ha : a ≤ v) : l.foldl max a = v := by
  have h : (a :: l).max? = some v := List.max?_eq_some_iff.mpr ⟨List.mem_cons_of_mem a hv, by simpa using ⟨ha, hl⟩⟩
  exact Option.some.inj (List.max?_cons'.symm.trans h)

/-- The reduction of integers is the integer reduction modulo 2^w. -/
theorem State.collReduce_int {c : Coll} (hty : c.ty.isInt = true) {op : RedOp} {xs : List Nat}
    (hop : (if c.red = 0 then RedOp.add else if c.red = 1 then .min else .max) = op) :
    State.collReduce c xs = reduceInt op c.ty xs % 2 ^ c.ty.width := by
  have hfloat : c.ty.isFloat = false := by
    revert hty
    cases c.ty <;> decide
  simp only [State.collReduce, hop, reduce, hfloat, Bool.false_eq_true, if_false]

section
variable {c : Coll} {xs : List Nat}

theorem State.collReduce_sum (hty : c.ty.isInt = true) (hred : c.red = 0) :
    (State.collReduce c xs : Int) = (xs.map (readInt c.ty)).sum % 2 ^ c.ty.width := by
  rw [State.collReduce_int hty (if_pos hred), reduceInt, placeInt_emod, List.sum_eq_foldl]

theorem State.collReduce_min (hty : c.ty.isInt = true) (hred : c.red = 1) {v : Nat} (hv : v ∈ xs)
    (hle : ∀ u ∈ xs, readInt c.ty v ≤ readInt c.ty u) :
    (State.collReduce c xs : Int) = readInt c.ty v % 2 ^ c.ty.width := by
  have hmin : (xs.map (readInt c.ty)).foldl min (maxI c.ty) = readInt c.ty v :=
    foldl_min_eq (List.mem_map_of_mem hv) (List.forall_mem_map.mpr hle) (readInt_mem_range c.ty v).2
  rw [State.collReduce_int (op := .min) hty (by simp [hred]), reduceInt, placeInt_emod, hmin]

theorem State.collReduce_max (hty : c.ty.isInt = true) (hred : c.red = 2) {v : Nat} (hv : v ∈ xs)
    (hle : ∀ u ∈ xs, readInt c.ty u ≤ readInt c.ty v) :
    (State.collReduce c xs : Int) = readInt c.ty v % 2 ^ c.ty.width := by
  have hmax : (xs.map (readInt c.ty)).foldl max (minI c.ty) = readInt c.ty v :=
    foldl_max_eq (List.mem_map_of_mem hv) (List.forall_mem_map.mpr hle) (readInt_mem_range c.ty v).1
  rw [State.collReduce_int (op := .max) hty (by simp [hred]), reduceInt, placeInt_emod, hmax]

/-- A sum of floats is the exact sum of the elements' values, rounded once. -/
theorem State.collReduce_floatSum (hty : c.ty.isFloat = true) (hred : c.red = 0) :
    State.collReduce c xs = (c.ty.format.round (exactSum (xs.map fun x => (c.ty.format.val (x % 2 ^ c.ty.width)).1)
      ((Rm.ofCode? c.rm).getD .rne)).1 ((Rm.ofCode? c.rm).getD .rne) false).1 := by
  have hwidth : c.ty.format.width = c.ty.width := by
    revert hty
    cases c.ty <;> decide
  simp only [State.collReduce, hred, reduce, hty, hwidth, if_true, List.map_map]
  rfl

end

theorem collectiveResults : Claim.CollectiveResults := by
  intro c dev ins hty w out values m hins
  refine ⟨fun h => ⟨?_, fun i hi => ?_⟩, fun hcop hroot => ?_, fun x hcop hx => ?_, fun k x hcop hx i hi => ?_, fun xs => ?_⟩
  · exact State.length_collOutput_reduce hty h
  · exact State.elemAt_collOutput_reduce hty h hi
  · simp only [out, State.collOutput, hcop, hroot, if_false]
  · simp only [out, State.collOutput, hcop, hx, Option.map_some, Option.getD_some]
  · exact State.elemAt_collOutput_gather hty hcop hins hx hi
  · exact ⟨State.collReduce_sum, fun hint hred v hv => State.collReduce_min hint hred hv,
      fun hint hred v hv => State.collReduce_max hint hred hv, State.collReduce_floatSum⟩

/-- Settles O20: the instructions and the events are one effect each once their conditions hold, the end of a collective is
the model's own, and its output is made of blocks of one length whose elements read back. Rests on log entries 5 and 104. -/
theorem collectives : Obligations.Collectives :=
  ⟨collectivesStart, collectivesAreWaitedFor, collectivesEnd, collectivesWriteTheirState, collectiveResults⟩

end Sys2Proof.Machine
end

section
/-!
PROOFS. Prefetch, fences, cache control and line subscriptions (spec/10_memory_isa.md R181 to R186): each instruction with
nothing to wait for completes with its own effect on the caches.
-/

namespace Sys2Proof.Machine

section
variable {s : State} {t : Thread} {g : Guard}

/-! ## Fences (R183, R184) -/

/-- The acquire part of a fence has nothing to wait for in a thread with nothing queued and nothing pending (R183). -/
theorem acquireWaits_eq_false (hqueue : t.queue = []) (hpend : t.pend = []) (ord : MemOrd) (scope : Scope) :
    acquireWaits t ord scope = false := by
  simp [acquireWaits, loadsOpen, State.queuedTo, hqueue, hpend]

/-- A fence with nothing to wait for drops the clean lines of its core where it acquires at `.clu` or wider. -/
theorem exec_fence {ord : MemOrd} {scope : Scope} (h : Issues s t g [] [] []) (hqueue : t.queue = []) (hpend : t.pend = [])
    (hready : wideScope scope = true → s.releaseReady s.issuer scope = true) :
    exec (.fence g ord scope) s = Completes s
      (if scope ≠ .thr ∧ ordAcquires ord = true ∧ wideScope scope = true then s.dropClean s.issuer.core else s) := by
  refine issue_completes h ?_
  have hrelease : (ordReleases ord && wideScope scope && !s.releaseReady s.issuer scope) = false := by
    cases hwide : wideScope scope <;> simp [hready, hwide]
  by_cases hthr : scope = .thr
  · simp only [hthr, if_true, ne_eq, not_true_eq_false, false_and, if_false]
  · simp only [hthr, hrelease, acquireWaits_eq_false hqueue hpend, Bool.and_false, Bool.false_eq_true, if_false, ne_eq,
      not_false_eq_true, true_and, Bool.and_eq_true]

/-- The scope that an `ifence` acts at: `.dom` and `.sys` act as `.dev` (R184). -/
def ifenceScope (scope : Scope) : Scope := if scope = .dom ∨ scope = .sys then .dev else scope

/-- An `ifence` with nothing to wait for drops what the cores of its scope have fetched. -/
theorem exec_ifence {scope : Scope} (h : Issues s t g [] [] []) (hqueue : t.queue = [])
    (hwait : State.accessWaits t = false) (hquiet : s.peerOpen s.issuer = false)
    (hready : wideScope (ifenceScope scope) = true → s.releaseReady s.issuer (ifenceScope scope) = true) :
    exec (.ifence g scope) s =
      Completes s ((fenceCores s s.issuer (ifenceScope scope)).foldl State.dropFetched s) := by
  refine issue_completes h ?_
  have hscope : (if scope = .dom || scope = .sys then Scope.dev else scope) = ifenceScope scope := by simp [ifenceScope]
  have hrelease : (wideScope (ifenceScope scope) && !s.releaseReady s.issuer (ifenceScope scope)) = false := by
    cases hwide : wideScope (ifenceScope scope) <;> simp [hready, hwide]
  simp only [hscope, hrelease, hqueue, hwait, hquiet, List.isEmpty_nil, Bool.not_true, Bool.or_self, Bool.false_eq_true,
    if_false]

end

section
variable {s s₁ : State} {t : Thread} {g : Guard} {base : Src} {off : Word} {pa : Nat}

/-! ## Prefetch and cache control (R181, R182) -/

/-- A `pf` of local memory, of a page that no flip holds, brings the line as near as its level says. -/
theorem exec_pf {level : PfLevel} (h : Issues s t g [(base, 2)] [] [])
    (htarget : s.lineTarget s.issuer t base off 8 = (.ok (.mem pa), s₁)) (hbusy : s₁.pageBusy pa = false) :
    exec (.pf g level base off) s = Completes s (match level with
      | .l1 => (s₁.l1Fetch s.issuer.core (lineOf pa)).2
      | .l1w => (s₁.l1Own s.issuer.core (lineOf pa)).2
      | .l2 => s₁) := by
  refine issue_completes h ?_
  simp only [htarget, hbusy, Bool.false_eq_true, if_false]
  cases level <;> rfl

/-- The core's ordinary copy of a line dropped. -/
def State.dropL1 (s : State) (n la : Nat) : State := s.modCore n fun c => { c with l1 := c.l1.filter (·.pa != la) }

/-- A `cflush` of a line of local memory that nothing of the thread and no flip holds, and that the core does not subscribe,
writes the line back, and drops the core's copy where it invalidates. -/
theorem cflush_eq {inv : Bool} (h : Issues s t g [(base, 2)] [] [])
    (htarget : s.lineTarget s.issuer t base off 8 = (.ok (.mem pa), s₁)) (hqueue : queuedLine t (lineOf pa) = false)
    (hbusy : s₁.pageBusy pa = false) (hsub : s₁.subscribed s.issuer.core (.mem (lineOf pa)) = false) :
    cflush g base off inv s =
      let flushed := (s₁.flushCore s.issuer.core (lineOf pa)).pushLine (lineOf pa)
      Completes s (if inv then flushed.dropL1 s.issuer.core (lineOf pa) else flushed) := by
  refine issue_completes h ?_
  simp only [htarget, hqueue, hbusy, hsub, Bool.or_self, Bool.false_eq_true, if_false]
  rfl

/-! ## Subscriptions (R185, R186) -/

/-- A line of the device's own memory is held by its address. -/
theorem subLine_mem (h : pa < hostBase) : subLine (.mem pa) = some (.mem (lineOf pa)) := if_pos h

/-- A subscription of a local line that its core holds no entry for: refused where the table is full, and else a new entry,
with the core's copy written back and dropped and the home's value pushed. -/
theorem subscribe_mem {r : ThreadRef} {qd : PredReg} {va : DWord} {la : Nat} {c : Core} (hcore : s.core? r.core = some c)
    (hnew : (c.subs.any fun u => u.target == .mem la) = false) :
    subscribe s r qd va (.mem la) =
      if subEntries ≤ c.subs.length then subAnswer s r qd false
      else subAnswer ((((s.newSub r (.mem la)).flushCore r.core la).dropL1 r.core la).pushLine la) r qd true := by
  simp only [subscribe, hcore, Option.map_some, Option.getD_some, hnew, Bool.false_eq_true, if_false]
  rfl

theorem exec_lsub {qd : PredReg} {c : Core} (h : Issues s t g [(base, 2)] [] [qd])
    (htarget : s.lineTarget s.issuer t base off 64 = (.ok (.mem pa), s₁)) (hbusy : s₁.pageBusy pa = false)
    (hlocal : pa < hostBase) (hcore : s₁.core? s.issuer.core = some c)
    (hnew : (c.subs.any fun u => u.target == .mem (lineOf pa)) = false) :
    exec (.lsub g qd base off) s = Completes s (
      if subEntries ≤ c.subs.length then s₁.modThread s.issuer fun t => t.setPred qd false
      else ((((s₁.newSub s.issuer (.mem (lineOf pa))).flushCore s.issuer.core (lineOf pa)).dropL1 s.issuer.core
        (lineOf pa)).pushLine (lineOf pa)).modThread s.issuer fun t => t.setPred qd true) := by
  refine issue_completes h ?_
  simp only [htarget, State.busy, hbusy, subLine_mem hlocal, subscribe_mem hcore hnew, subAnswer, Bool.false_eq_true,
    if_false]
  split <;> rfl

theorem exec_lunsub (h : Issues s t g [(base, 2)] [] [])
    (htarget : s.lineTarget s.issuer t base off 8 = (.ok (.mem pa), s₁)) (hlocal : pa < hostBase) :
    exec (.lunsub g base off) s =
      Completes s (s₁.unsubscribe s.issuer.core (keyOf s.issuer.who) (· == .mem (lineOf pa))) := by
  refine issue_completes h ?_
  simp only [htarget, subLine_mem hlocal]

end

/-- Settles O13: past its translation and with nothing to wait for, each instruction's body is its own effect; the three forms
of `cflush` are one flush, and two of them drop the core's copy after it. Rests on log entry 8. -/
theorem cacheControlAndFences : Obligations.CacheControlAndFences := by
  intro s s₁ t g base off pa r la key gone
  refine ⟨fun ord scope => exec_fence, fun scope => exec_ifence, fun level => exec_pf, fun h htarget hqueue hbusy hsub => ?_,
    fun qd c => exec_lsub, exec_lunsub⟩
  exact ⟨cflush_eq h htarget hqueue hbusy hsub, cflush_eq h htarget hqueue hbusy hsub,
    cflush_eq h htarget hqueue hbusy hsub⟩

end Sys2Proof.Machine
end

section
/-!
PROOFS. The copy instructions (spec/11_ladle_host_fabric.md R193, R194, R199 to R201): `cp` past its checks starts its copy
with the flits it can reserve toward a peer, and `cpq` and `cpwait` answer by the state of the copy an id names.
-/

namespace Sys2Proof.Machine

/-! ## `cp` (R193, R194, R199) -/

/-- The end of `cp` of `len` bytes past its checks, with the peer that a side is known to lie in and the address there: a copy
is started with no flits, or with those it reserves toward the peer. -/
def reserveForCopy (s : State) (r : ThreadRef) (len : Nat) (peer : Option (Nat × DWord))
    (start : State → Nat → Nat → Eff) : Eff :=
  match peer with
  | none => start s 0 0
  | some (dev, va) =>
    let n := min ((len + 63) / 64) 16
    if s.unreach dev then .trap s { kind := .unreach, sub := BitVec.ofNat 8 dev, addr := va }
    else if n = 0 then start s 0 0
    else match s.allow r dev n 0 va with
      | .pass s => start s n dev
      | .wait s => .hold s
      | .park s => .park s (.allowance dev va none)

/-- A copy entered in its core's table with its id in the destination of `cp`, and complete at once where nothing is to be
moved. -/
def State.enterCopy (s : State) (r : ThreadRef) (d : Reg) (k : Copy) : State :=
  let s₁ := (s.modCore r.core fun c => { c with copies := c.copies ++ [k] }).modThread r fun t =>
    t.setReg d (BitVec.ofNat 32 k.id)
  if k.len = 0 ∧ k.dig = false then s₁.finishCopy r.core k.id else s₁

section
variable {s : State} {r : ThreadRef} {len : Nat} {peer : Option (Nat × DWord)} {start : State → Nat → Nat → Eff}

theorem reserveForCopy_unreach {dev : Nat} {va : DWord} (hunreach : s.unreach dev = true) :
    reserveForCopy s r len (some (dev, va)) start =
      .trap s { kind := .unreach, sub := BitVec.ofNat 8 dev, addr := va } := by
  simp only [reserveForCopy, hunreach, if_true]

/-- Without a peer, or with nothing to move, no flit is reserved. -/
theorem reserveForCopy_unreserved (h : ∀ dev va, peer = some (dev, va) → s.unreach dev = false ∧ len = 0) :
    reserveForCopy s r len peer start = start s 0 0 := by
  cases hpeer : peer with
  | none => rfl
  | some x =>
    obtain ⟨hreach, hlen⟩ := h x.1 x.2 hpeer
    subst hlen
    simp only [reserveForCopy, hreach, Bool.false_eq_true, if_false]
    rfl

/-- Toward a peer that can be reached, a flit per 64 bytes is reserved, up to 16. -/
theorem reserveForCopy_reserved {s₁ : State} {dev : Nat} {va : DWord} (hreach : s.unreach dev = false) (hlen : 0 < len)
    (hallow : s.allow r dev (min ((len + 63) / 64) 16) 0 va = .pass s₁) :
    reserveForCopy s r len (some (dev, va)) start = start s₁ (min ((len + 63) / 64) 16) dev := by
  have hflits : min ((len + 63) / 64) 16 ≠ 0 := by omega
  simp only [reserveForCopy, hreach, Bool.false_eq_true, if_false, hflits, hallow]

end

section
variable {s : State} {t : Thread} {g : Guard} {fill dig : Bool} {swz : BitVec 3} {dsp ssp : Space} {d : Reg} {a b c : Src}
  {doff soff : BitVec 16} {k : Core} {id : Nat}

/-- Past its checks, with an id free and its thread's stores done, `cp` reserves and starts the copy of that id. -/
theorem exec_cp
    (h : Clean s t g [(a, if dsp = .global then 2 else 1), (b, if ssp = .global then 2 else 1), (c, 1)] [(d, 1)] [])
    (hdst : (copyAddr t dsp a doff).toNat % 16 = 0) (hsrc : (copyAddr t ssp b soff).toNat % 16 = 0)
    (hlen : (t.reg c.reg).toNat % 16 = 0)
    (hdstRange : s.copyRange s.issuer dsp swz (copyAddr t dsp a doff) ((t.reg c.reg).toNat + if dig then 64 else 0) = .ok ())
    (hsrcRange : s.copyRange s.issuer ssp swz (copyAddr t ssp b soff) (t.reg c.reg).toNat = .ok ())
    (hcore : s.core? s.issuer.core = some k) (hid : State.freeCopyId? k = some id) (hqueue : t.queue = [])
    (hwait : State.accessWaits t = false) {peer : Option (Nat × DWord)}
    (hpeer : ((s.knownPeer? s.issuer dsp (copyAddr t dsp a doff)).map (·, copyAddr t dsp a doff) <|>
      (s.knownPeer? s.issuer ssp (copyAddr t ssp b soff)).map (·, copyAddr t ssp b soff)) = peer) :
    exec (.cp g fill dig swz dsp ssp d a b c doff soff) s = .next (State.finish s.issuer (
      reserveForCopy s s.issuer (t.reg c.reg).toNat peer fun s' flits dev => .next (s'.enterCopy s.issuer d
        { id, place := (keyOf s.issuer.who).1, tidx := (keyOf s.issuer.who).2, dsp, ssp, swz, dig, fill
          len := (t.reg c.reg).toNat, dst := copyAddr t dsp a doff, src := copyAddr t ssp b soff, prog := 0
          state := .running, dstPage := none, srcPage := none, hash := shaInit, hpois := false, told := false, buf := []
          sending := 0, asked := none, flits, resDev := dev, acc := s'.accessor s.issuer }))) := by
  rw [exec, execCp, issue_eq _ h.issues]
  simp only [h.clean, hdst, hsrc, hlen, bne_self_eq_false, Bool.false_eq_true, if_false, hdstRange, hsrcRange, hcore,
    Option.bind_some, hid, hqueue, hwait, List.isEmpty_nil, Bool.not_true, Bool.or_self, Bool.and_eq_true, decide_eq_true_eq,
    Bool.not_eq_true']
  subst hpeer
  cases s.knownPeer? s.issuer dsp (copyAddr t dsp a doff) <;> rfl

end

theorem copiesStart : Claim.CopiesStart := by
  intro s t g fill dig swz dsp ssp d a b c doff soff k id r regs dst src len i starts h hdst hsrc hlen hdstRange hsrcRange
    hcore hid hqueue hwait peer
  have hexec {p} (hpeer : peer = p) :=
    exec_cp (fill := fill) h hdst hsrc hlen hdstRange hsrcRange hcore hid hqueue hwait hpeer
  refine ⟨fun dev va hpeer hunreach => ?_, fun hfree => ?_, fun dev va s₁ hpeer hreach hpos hallow => ?_⟩
  · rw [hexec hpeer, reserveForCopy_unreach hunreach]
    rfl
  · rw [hexec rfl, reserveForCopy_unreserved hfree]
    rfl
  · rw [hexec hpeer, reserveForCopy_reserved hreach hpos hallow]
    rfl

/-! ## `cpq` and `cpwait` (R191, R200, R201) -/

section
variable {s : State} {t : Thread} {g : Guard} {a : Src}

/-- `cpq` of an id up to 31 gives the status of the copy of that id, as a load gives its data. -/
theorem exec_cpq {d : Reg} (h : Clean s t g [(a, 1)] [(d, 1)] []) (hid : (t.reg a.reg).toNat ≤ 31) :
    exec (.cpq g d a) s = Writes s fun th => th.pending { opPend s .cpq d 1 none 0 none false false .thr .b32 none with
      got := some { value := BitVec.ofNat 128 (copyStatus (s.ownCopy? s.issuer (t.reg a.reg).toNat)), poison := 0
                    pred := none } } :=
  issue_completes h.issues <| by
    simp only [h.clean, Nat.not_lt.mpr hid, if_false]

theorem exec_cpwait_none (h : Clean s t g [(a, 1)] [] []) (hid : (t.reg a.reg).toNat ≤ 31)
    (hnone : s.ownCopy? s.issuer (t.reg a.reg).toNat = none) : exec (.cpwait g a) s = Completes s s :=
  issue_completes h.issues <| by simp only [h.clean, Nat.not_lt.mpr hid, if_false, hnone]

theorem exec_cpwait_some {c : Copy} (h : Clean s t g [(a, 1)] [] []) (hid : (t.reg a.reg).toNat ≤ 31)
    (hsome : s.ownCopy? s.issuer (t.reg a.reg).toNat = some c) :
    exec (.cpwait g a) s =
      if c.state = .complete then Completes s (s.freeCopy s.issuer.core (t.reg a.reg).toNat)
      else Parks s s (.copy (.id (t.reg a.reg).toNat)) := by
  rw [exec, execCpwait, issue_eq _ h.issues]
  simp only [h.clean, Nat.not_lt.mpr hid, if_false, hsome]
  split <;> rfl

end

theorem copiesAreAskedFor : Claim.CopiesAreAskedFor := by
  intro s t g a r id own hid
  exact ⟨fun d h => exec_cpq h hid, fun h => ⟨exec_cpwait_none h hid, fun c => exec_cpwait_some h hid⟩⟩

/-- Settles O18: past its checks `cp` does what it can reserve toward a peer allows, and `cpq` and `cpwait` go by the copy
that their id names. -/
theorem copyInstructions : Obligations.CopyInstructions :=
  ⟨copiesStart, copiesAreAskedFor⟩

end Sys2Proof.Machine
end

section
/-!
PROOFS. Copies (spec/11_ladle_host_fabric.md R191 to R201; spec/22_traps_restart.md R340): the events that carry a running
copy on, the report of a stopped one, and a granule moved within the own scratchpad.
-/

namespace Sys2Proof.Machine

/-! ## The copy table (R192) -/

section
variable {s : State} {core id : Nat} {c : Copy}

theorem copyRuns_eq (hcopy : s.copy? core id = some c) (hruns : c.state = .running) : copyRuns s core id = some c := by
  simp only [copyRuns, hcopy, Option.bind_some, hruns, if_true]

/-- The copy that an update names is its image, where the update leaves the ids alone. -/
theorem State.copy?_modCopy_self (s : State) (core id : Nat) {f : Copy → Copy} (hid : ∀ k, (f k).id = k.id) :
    (s.modCopy core id f).copy? core id = (s.copy? core id).map f := by
  have hsame (k : Copy) : (if k.id == id then f k else k).id = k.id := by split <;> simp only [hid]
  simp only [State.copy?, State.modCopy, State.core?_modCore_self]
  cases s.core? core with
  | none => rfl
  | some k =>
    simp only [Option.map_some, Option.bind_some, List.find?_map, Function.comp_def, hsame]
    cases hfind : k.copies.find? fun k => k.id == id with
    | none => rfl
    | some x => simp only [Option.map_some, List.find?_some hfind, if_true]

/-! ## The events of a running copy (R194 to R197) -/

section
variable (hrun : s.coresRun = true) (hcopy : s.copy? core id = some c) (hruns : c.state = .running)
include hrun hcopy hruns

/-- While the cores run, a running copy writes what is next: a granule, or under DIG a block, where one is left. -/
theorem exec_copyGranuleWrite : exec (.copyGranuleWrite core id) s = .next (
    if c.dig then (if c.prog + 128 ≤ c.len then s.copyBlock core id else s)
    else if c.prog < c.len then s.copyPlain core id
    else s) := by
  simp only [exec, execCopyGranuleWrite, State.ifRuns_eq hrun, copyRuns_eq hcopy hruns]

/-- While the cores run, a running copy with nothing left to write completes, under DIG with its digest. -/
theorem exec_copyComplete : exec (.copyComplete core id) s = .next (
    if c.dig then (if c.len < c.prog + 128 then s.copyDigest core id else s)
    else if c.prog = c.len && !s.copyAsks core id then s.finishCopy core id
    else s) := by
  simp only [exec, execCopyComplete, State.ifRuns_eq hrun, copyRuns_eq hcopy hruns]

section
variable (hleft : c.prog < c.len) (hasks : s.copyAsks core id = false)
include hleft hasks

/-- While the cores run, a copy with bytes left and no request on its way holds the pages of its two sides. -/
theorem exec_copyPageTranslate_of_ok {st dt : Target} {s₁ s₂ : State} (hsrc : s.sideAt core c false c.prog = (.ok st, s₁))
    (hdst : (s₁.holdPage core c false c.prog st).sideAt core c true c.prog = (.ok dt, s₂)) :
    exec (.copyPageTranslate core id) s = .next (s₂.holdPage core c true c.prog dt) := by
  simp only [exec, execCopyPageTranslate, State.ifRuns_eq hrun, copyRuns_eq hcopy hruns, Nat.not_le.mpr hleft, decide_false,
    hasks, Bool.or_self, Bool.false_eq_true, if_false, hsrc, hdst]

/-- While the cores run, such a copy stops with the fault of its source (R197). -/
theorem exec_copyPageTranslate_of_fault {x : Trap} {s₁ : State}
    (hsrc : s.sideAt core c false c.prog = (.error (some x), s₁)) :
    exec (.copyPageTranslate core id) s = .next (s₁.stopCopy core id (some x)) := by
  simp only [exec, execCopyPageTranslate, State.ifRuns_eq hrun, copyRuns_eq hcopy hruns, Nat.not_le.mpr hleft, decide_false,
    hasks, Bool.or_self, Bool.false_eq_true, if_false, hsrc]

end

end

theorem copiesGoOn : Claim.CopiesGoOn := by
  intro s core id c hcopy hruns hrun
  refine ⟨fun hdig hleft => ?_, fun hdig hleft => ?_, fun hdig hdone hasks => ?_, fun hdig hdone => ?_,
    fun st dt s₁ s₂ hleft hasks => exec_copyPageTranslate_of_ok hrun hcopy hruns hleft hasks,
    fun x s₁ hleft hasks => exec_copyPageTranslate_of_fault hrun hcopy hruns hleft hasks⟩
  · rw [exec_copyGranuleWrite hrun hcopy hruns, hdig, if_neg Bool.false_ne_true, if_pos hleft]
  · rw [exec_copyGranuleWrite hrun hcopy hruns, if_pos hdig, if_pos hleft]
  · rw [exec_copyComplete hrun hcopy hruns, hdig, if_neg Bool.false_ne_true, hasks, if_pos (by simp [hdone])]
  · rw [exec_copyComplete hrun hcopy hruns, if_pos hdig, if_pos hdone]

end

/-! ## The report of a stopped copy (R198, R340) -/

/-- While the cores run, the fault of a stopped copy is taken by its thread where nothing older is due to it. -/
theorem exec_copyFaultReport {s : State} {t : ThreadRef} {th : Thread} {c : Copy} {x : Trap} (hrun : s.coresRun = true)
    (hthread : s.thread? t = some th) (hrep : s.reportable t th = true) (hstop : th.stop = none) (hlater : th.later = [])
    (hfails : th.fails = []) (hcopy : s.stoppedCopy? t = some (c, x)) :
    exec (.copyFaultReport t) s = .next (s.takeCopyFault t c x) := by
  simp only [exec, execCopyFaultReport, State.ifRuns_eq hrun, hthread, hrep, Bool.not_true, Bool.false_eq_true, if_false,
    hstop, hlater, hfails, hcopy]

/-- A report to a user thread whose older work is done is its record in the Riser. -/
theorem State.report_user {s : State} {t : ThreadRef} {place tidx : Nat} (x : Trap) (hwho : t.who = .user place tidx)
    (hdrained : (s.withdraw t).drained t = true) :
    s.report t x = (s.withdraw t).recordOldest t.core place tidx x := by
  simp only [State.report, hwho, hdrained, if_true]

theorem copyFaultsAreReported : Claim.CopyFaultsAreReported := by
  intro s t th c x told hrun hthread hrep hstop hlater hfails hcopy
  rw [exec_copyFaultReport hrun hthread hrep hstop hlater hfails hcopy]
  refine ⟨fun place tidx hwho hdrained => ?_, fun n hwho => ?_⟩
  · rw [← State.report_user told hwho hdrained]
    simp only [State.takeCopyFault, hwho]
    rfl
  · simp only [State.takeCopyFault, hwho, State.report]
    rfl

/-! ## A granule within the own scratchpad (R195) -/

/-- The offset in the own scratchpad of byte `o` of a side whose address is `a`. -/
def Copy.ownOffset (c : Copy) (a : DWord) (o : Nat) : Nat := swizzle c.swz ((a.toNat + o) % 2 ^ 20)

/-- The place of that byte. -/
def Copy.ownPlace (c : Copy) (core : Nat) (a : DWord) (o : Nat) : Target := .scratch core c.place (c.ownOffset a o) false

/-- Units read join the buffer of a copy. -/
def Copy.gather (us : List (List Byte × Bool)) (c : Copy) : Copy := { c with buf := c.buf ++ us }

/-- The two units of a scratchpad granule with their marks. -/
def State.scratchUnits (s : State) (core place off : Nat) : List (List Byte × Bool) :=
  let x := s.scratchRead core place off 16
  [(x.1.take 8, (x.2.take 8).any id), (x.1.drop 8, (x.2.drop 8).any id)]

section
variable {s : State} {core n : Nat} {c : Copy}

theorem State.sideAt_source_own (hssp : c.ssp = .own) (o : Nat) :
    s.sideAt core c false o = (.ok (c.ownPlace core c.src o), s) := by
  simp only [State.sideAt, Bool.false_eq_true, if_false, hssp]
  rfl

theorem State.sideAt_destination_own (hdsp : c.dsp = .own) (o : Nat) :
    s.sideAt core c true o = (.ok (c.ownPlace core c.dst o), s) := by
  simp only [State.sideAt, if_true, hdsp]
  rfl

/-- A source in the own scratchpad has no page to hold. -/
theorem State.holdPage_source_own (hssp : c.ssp = .own) (o : Nat) (t : Target) : s.holdPage core c false o t = s := by
  simp only [State.holdPage, Bool.false_eq_true, if_false, hssp]
  rfl

/-- A destination in the own scratchpad has no page to hold. -/
theorem State.holdPage_destination_own (hdsp : c.dsp = .own) (o : Nat) (t : Target) : s.holdPage core c true o t = s := by
  simp only [State.holdPage, if_true, hdsp]
  rfl

theorem State.copy?_gather (hcopy : s.copy? core n = some c) (us : List (List Byte × Bool)) :
    (s.modCopy core n (Copy.gather us)).copy? core n = some (c.gather us) := by
  rw [State.copy?_modCopy_self s core n (f := Copy.gather us) fun _ => rfl, hcopy]
  rfl

/-- A buffer that holds what is needed is left as it is. -/
theorem State.fillBuf_of_le {need : Nat} (hcopy : s.copy? core n = some c) (hneed : need ≤ 8 * c.buf.length) (fuel : Nat) :
    s.fillBuf core n need (fuel + 1) = (true, s) := by
  simp only [State.fillBuf, hcopy, hneed, if_true]

/-- A source in the own scratchpad gives the next granule at once. -/
theorem State.fillBuf_own {need : Nat} (hcopy : s.copy? core n = some c) (hssp : c.ssp = .own) (hfail : c.fail = none)
    (hasks : s.copyAsks core n = false) (hneed : 8 * c.buf.length < need) (fuel : Nat) :
    s.fillBuf core n need (fuel + 1) = (s.modCopy core n (Copy.gather (s.scratchUnits core c.place
      (c.ownOffset c.src (c.prog + 8 * c.buf.length))))).fillBuf core n need fuel := by
  simp only [State.fillBuf, hcopy, Nat.not_le.mpr hneed, if_false, hfail, State.sideAt_source_own hssp,
    State.holdPage_source_own hssp, Copy.ownPlace, State.busy, hasks, Bool.or_self, Bool.false_eq_true]
  rfl

/-- An empty buffer is filled with one granule of a source in the own scratchpad. -/
theorem State.fillBuf_granule_own (hcopy : s.copy? core n = some c) (hssp : c.ssp = .own) (hbuf : c.buf = [])
    (hfail : c.fail = none) (hasks : s.copyAsks core n = false) (fuel : Nat) :
    s.fillBuf core n 16 (fuel + 2) = (true, s.modCopy core n (Copy.gather (s.scratchUnits core c.place
      (c.ownOffset c.src c.prog)))) := by
  rw [State.fillBuf_own hcopy hssp hfail hasks (by simp [hbuf]), hbuf]
  exact State.fillBuf_of_le (State.copy?_gather hcopy _) (by simp [Copy.gather, State.scratchUnits, hbuf]) fuel

end

theorem copiedGranule : Claim.CopiedGranule := by
  intro s core n c hcopy hdsp hssp hbuf hfail hasks place src units
  simp only [State.copyPlain, hcopy, hasks, Bool.false_eq_true, if_false, State.sideAt_destination_own hdsp,
    State.holdPage_destination_own hdsp, Copy.ownPlace, State.busy, State.fillBuf_granule_own hcopy hssp hbuf hfail hasks,
    State.copy?_gather hcopy, Copy.gather, hbuf, List.nil_append]
  rfl

/-- Settles O19: each event of a running copy does what is next for it, a report is the fault taken by its thread, and a
granule of the own scratchpad fills the empty buffer at once and leaves it in the same step. Rests on log entry 37. -/
theorem copyEngine : Obligations.CopyEngine :=
  ⟨copiesGoOn, copyFaultsAreReported, copiedGranule⟩

end Sys2Proof.Machine
end

section
/-!
PROOFS. Requests of peers at their home (spec/11_ladle_host_fabric.md R211, R212; spec/09_ordering_rules.md R163;
spec/23_errors_degraded_checkpoint.md R354): a request waits, is refused, or is performed and answered; and a
read-modify-write of a peer writes the value that one lane's own would.
-/

namespace Sys2Proof.Machine

/-! ## A request waits, is refused or is answered (R211, R212) -/

section
variable {s : State} {src off : Nat}

/-- The bytes of a request lie in one line. -/
def InLine (off n : Nat) : Prop := 0 < n ∧ off % 64 + n ≤ 64

section
variable {n : Nat} {f : State → Option PeerAnswer × State}

theorem State.serve_waits (hwaits : s.serveWaits src off n = true) : s.serve src off n f = s := by
  rw [State.serve, if_pos (by rw [hwaits, Bool.or_true])]

/-- A request of a peer to bytes of one line that does not wait is held back by nothing. -/
theorem State.serve_goes (hpeer : s.servesPeer src = true) (hline : InLine off n) (hwaits : s.serveWaits src off n = false) :
    ¬(!s.servesPeer src || n = 0 || 64 < off % 64 + n || s.serveWaits src off n) = true := by
  obtain ⟨hpos, hend⟩ := hline
  simp [hpeer, hwaits, Nat.ne_of_gt hpos, hend]

/-- A request that may not be served waits for no page, but only for a lane (log entry 125). -/
theorem State.serveWaits_of_refusal {e : PeerAnswer} (hrefusal : s.peerRefusal off n = some e)
    (hlane : s.lanesOff src = false) : s.serveWaits src off n = false := by
  simp [State.serveWaits, hrefusal, hlane]

theorem State.serve_refused {e : PeerAnswer} (hpeer : s.servesPeer src = true) (hline : InLine off n)
    (hrefusal : s.peerRefusal off n = some e) (hlane : s.lanesOff src = false) :
    s.serve src off n f = s.respond src off e := by
  rw [State.serve, if_neg (State.serve_goes hpeer hline (State.serveWaits_of_refusal hrefusal hlane)), hrefusal]

/-- A request that is served is answered by its operation. -/
theorem State.serve_answered {a : PeerAnswer} {s' : State} (hpeer : s.servesPeer src = true) (hline : InLine off n)
    (hrefusal : s.peerRefusal off n = none) (hwaits : s.serveWaits src off n = false) (hf : f s = (some a, s')) :
    s.serve src off n f = s'.respond src off a := by
  rw [State.serve, if_neg (State.serve_goes hpeer hline hwaits), hrefusal]
  simp only [hf]

end

/-! ## The events (R211) -/

/-- The state after a read by a peer: a whole line is pushed to it from then on (log entry 121). -/
def State.afterPeerRead (s : State) (src off n : Nat) : State :=
  if n = 64 ∧ (src, off) ∉ s.peerSubs then { s with peerSubs := (src, off) :: s.peerSubs } else s

/-- A read gives its bytes with the marks of their units (R354). -/
theorem exec_read {n : Nat} : exec (.read src off n) s = .next (s.serve src off n fun s =>
    (some (.ok (s.readMarked off n).1 (s.readMarked off n).2), s.afterPeerRead src off n)) := by
  simp only [exec, execRead, State.serveRead, State.afterPeerRead, Bool.and_eq_true, decide_eq_true_eq, Bool.not_eq_true',
    List.contains_eq_mem, decide_eq_false_iff_not]

/-- A write stores the bytes that are given and completes. -/
theorem exec_write {bs : List (Option Byte)} {marks : BitVec 4} : exec (.write src off bs marks) s =
    .next (s.serve src off bs.length fun s => (some (.ok [] 0), s.storeMasked off bs marks)) := rfl

/-- An atomic of a peer comes to its home where its address is aligned. -/
theorem exec_atomicFetching {op : PeerAtom} (halign : off % State.atomBytes op = 0) :
    exec (.atomicFetching src off op) s = .next (s.serve src off (State.atomBytes op) (State.peerFetching src off op)) := by
  simp only [exec, execAtomicFetching, State.serveFetching, halign, bne_self_eq_false, Bool.false_eq_true, if_false]

theorem exec_atomicNonFetching {op : PeerAtom} (halign : off % State.atomBytes op = 0) :
    exec (.atomicNonFetching src off op) s =
      .next (s.serve src off (State.atomBytes op) (State.peerNonFetching off op)) := by
  simp only [exec, execAtomicNonFetching, State.serveNonFetching, halign, bne_self_eq_false, Bool.false_eq_true, if_false]

/-- An integer operation or a compare-and-swap that fetches is a read-modify-write at its home. -/
theorem State.peerFetching_rmw {op : PeerAtom} {m : Rmw}
    (hop : (∃ o ty b, op = .op o ty b ∧ m = .op o ty b) ∨ ∃ ty e n, op = .cas ty e n ∧ m = .cas ty e n)
    (hty : State.atomTyOk m.ty = true) :
    State.atomBytes op = m.bytes ∧ State.peerFetching src off op s = (some (s.peerRmw off m).1, (s.peerRmw off m).2) := by
  obtain ⟨o, ty, b, rfl, rfl⟩ | ⟨ty, e, n, rfl, rfl⟩ := hop
  all_goals
    simp only [Rmw.ty] at hty
    refine ⟨rfl, ?_⟩
    simp only [State.peerFetching, hty, Bool.not_true, Bool.false_eq_true, if_false]

/-- An integer operation that does not fetch leaves the old bytes out of its answer. -/
theorem State.peerNonFetching_op {o : AtomOp} {ty : Ty} {b : DWord} (hty : State.atomTyOk ty = true) :
    State.peerNonFetching off (.op o ty b) s =
      (some (State.completion (s.peerRmw off (.op o ty b)).1), (s.peerRmw off (.op o ty b)).2) := by
  simp only [State.peerNonFetching, hty, Bool.not_true, Bool.false_eq_true, if_false]

/-- A float `add`, `min` or `max` at an aligned address is a read-modify-write, whose old value the answer holds where it
fetches. -/
theorem exec_floatAtomic {op : AtomOp} {fetching : Bool} {x : Word} (halign : off % 4 = 0)
    (hop : op = .add ∨ op = .min ∨ op = .max) :
    exec (.floatAtomic src off ⟨op, fetching⟩ x) s = .next (s.serve src off 4 fun s =>
      let y := s.peerRmw off (.op op .f32 (x.zeroExtend 64))
      (some (if fetching then y.1 else State.completion y.1), y.2)) := by
  have hallowed : (op == .add || op == .min || op == .max) = true := by
    rcases hop with rfl | rfl | rfl <;> rfl
  simp only [exec, execFloatAtomic, State.serveFloat, halign, hallowed, bne_self_eq_false, Bool.not_true, Bool.or_self,
    Bool.false_eq_true, if_false]

end

theorem requestsOfPeers : Claim.RequestsOfPeers := by
  intro s src off hpeer gives fits ready
  have hanswer {n : Nat} {f a s'} (hfits : fits n) (hrefusal : s.peerRefusal off n = none)
      (hwaits : s.serveWaits src off n = false) (hf : f s = (some a, s')) :
      Host.Outcome.next (s.serve src off n f) = gives s' a :=
    congrArg _ (State.serve_answered hpeer hfits hrefusal hwaits hf)
  refine ⟨fun e n hfits hrefusal hlane => ?_, fun n ⟨hfits, hrefusal, hwaits⟩ => ?_,
    fun bs marks ⟨hfits, hrefusal, hwaits⟩ => ?_, fun n hfits hwaits => ?_, ?_, ?_, ?_⟩
  · have hrefused {f} : s.serve src off n f = s.respond src off e := State.serve_refused hpeer hfits hrefusal hlane
    refine ⟨?_, ?_, ?_, ?_⟩
    · rw [exec_read, hrefused]
    · rintro bs marks rfl
      rw [exec_write, hrefused]
    · rintro op rfl halign
      rw [exec_atomicFetching halign, exec_atomicNonFetching halign, hrefused, hrefused]
      exact ⟨rfl, rfl⟩
    · rintro op x rfl halign hop fetching
      rw [exec_floatAtomic halign hop, hrefused]
  · rw [exec_read]
    exact hanswer hfits hrefusal hwaits rfl
  · rw [exec_write]
    exact hanswer hfits hrefusal hwaits rfl
  · rw [exec_read, State.serve_waits hwaits]
  · intro op m hop hty halign ⟨hfits, hrefusal, hwaits⟩
    obtain ⟨hbytes, hfetch⟩ := State.peerFetching_rmw (s := s) (src := src) (off := off) hop hty
    rw [exec_atomicFetching (hbytes ▸ halign), hbytes]
    exact hanswer hfits hrefusal hwaits hfetch
  · intro o ty b hty halign ⟨hfits, hrefusal, hwaits⟩
    rw [exec_atomicNonFetching halign]
    exact hanswer hfits hrefusal hwaits (State.peerNonFetching_op hty)
  · intro o x hop halign ⟨hfits, hrefusal, hwaits⟩ m
    rw [exec_floatAtomic halign hop, exec_floatAtomic halign hop]
    exact ⟨hanswer hfits hrefusal hwaits rfl, hanswer hfits hrefusal hwaits rfl⟩

/-! ## The read-modify-write at its home (R163, R354) -/

/-- Where a byte is poisoned, a read-modify-write of a peer writes nothing. -/
theorem State.peerRmw_poisoned {s : State} {off : Nat} {m : Rmw} (hmarks : (s.readMarked off m.bytes).2 ≠ 0) :
    s.peerRmw off m = (.ok (s.readMarked off m.bytes).1 (s.readMarked off m.bytes).2, s) := by
  simp only [State.peerRmw, bne_iff_ne, ne_eq, hmarks, not_false_eq_true, if_true]

/-- On clean bytes a read-modify-write of a peer is that of one lane: its new value, where it has one, is written. -/
theorem State.peerRmw_clean {s : State} {off : Nat} {m : Rmw} (hclean : (s.readMarked off m.bytes).2 = 0) :
    s.peerRmw off m = (.ok (s.readMarked off m.bytes).1 0, match m.new (leNat (s.readMarked off m.bytes).1) with
      | some v => s.storeHome off (leBytes m.bytes v) 0
      | none => s) := by
  simp only [State.peerRmw, hclean, combine_single, bne_self_eq_false, Bool.false_eq_true, if_false]
  cases m.new (leNat (s.readMarked off m.bytes).1) <;> simp

theorem peerReadModifyWrite : Claim.PeerReadModifyWrite := by
  intro s off m x old writes
  refine ⟨State.peerRmw_poisoned, fun hclean hnone => ?_, fun hclean b hm => ?_, fun hclean hm v hnew => ?_⟩
  · rw [State.peerRmw_clean hclean, show m.new (leNat (s.readMarked off m.bytes).1) = none from hnone]
  · subst hm
    rw [State.peerRmw_clean hclean]
    rfl
  · rw [State.peerRmw_clean hclean, show m.new (leNat (s.readMarked off m.bytes).1) = some v from hnew]

/-- Settles O31: each request is one serving at its home, which waits, refuses or answers; and a peer's read-modify-write of
clean bytes combines with no other. Rests on log entries 121, 123, 124 and 125. -/
theorem peerRequests : Obligations.PeerRequests := ⟨requestsOfPeers, peerReadModifyWrite⟩

end Sys2Proof.Machine
end

section
/-!
PROOFS. Cross-lane arrivals (spec/12_threads_groups.md R226; spec/14_progress_isa.md R257 to R265): each cross-lane instruction
past its checks is one arrival at its instance.
-/

namespace Sys2Proof.Machine

/-- A cross-lane instruction whose guard is false arrives as inactive, with nothing read (R226). -/
theorem crossLane_guard_false {s : State} {t : Thread} {g : Guard} (i : Instr) (srcs dsts qs) (checks : Thread → Option Trap)
    (mk : Thread → Arrival → Arrival) (ht : s.thread? s.issuer = some t) (hcan : s.canIssue s.issuer t = true)
    (hready : t.predBusy g.q = false) (hguard : guardHolds g t = false) :
    crossLane s g i srcs dsts qs checks mk =
      Stays s (s.arriveX s.issuer t.pc { arrivalOf s.issuer i with active := false }) := by
  simp [crossLane, ht, hcan, hready, hguard, Stays]

/-- `redux` and `scanx` pass their checks on a clean source without a marker that traps, under a mode they can round in. -/
theorem reduceChecks_eq_none {t : Thread} {op : RedOp} {ty : Ty} {rm : RmField} {a : Src}
    (hclean : firstPoison t (srcA ty a) = none) (hmarker : ty.isFloat = true → markerTrap t [(a, 1)] = none)
    (hmode : op.rounds ty = true → (rmOf t rm).isSome = true) : reduceChecks op ty rm a t = none := by
  have hmarkers : (if ty.isFloat then markerTrap t [(a, 1)] else none) = none := ite_eq_right_iff.mpr hmarker
  have hrounds : ¬(op.rounds ty && (rmOf t rm).isNone) = true := by simpa [Option.isSome_iff_ne_none] using hmode
  rw [reduceChecks, hclean, hmarkers, orTrap_none, orTrap_none, if_neg hrounds]

theorem crossLaneInstructionsArrive : Claim.CrossLaneInstructionsArrive := by
  intro s t g ty d a r arrive va marked hkept
  simp only [exec, execShfl, execVote, execVoteBallot, execRedux, execScanx, execBcast, execMatchLanes, execLanes]
  refine ⟨fun _ _ h => crossLane_eq h hkept rfl, fun _ _ _ h => crossLane_eq h hkept rfl,
    fun _ _ h => crossLane_eq h hkept rfl, fun op excl rm h hmarker hmode => ?_, fun _ h => crossLane_eq h hkept rfl,
    fun _ h => crossLane_eq h.issues hkept h.clean, fun _ h => crossLane_eq h hkept rfl⟩
  have hchecks := reduceChecks_eq_none h.clean hmarker hmode
  exact ⟨crossLane_eq h.issues hkept hchecks, crossLane_eq h.issues hkept hchecks⟩

theorem falseGuardArrivesInactive : Claim.FalseGuardArrivesInactive := by
  intro s t g i ht hcan hready hguard hform
  obtain ⟨m, ty, d, a, b, rfl⟩ | ⟨m, q, p, rfl⟩ | ⟨d, q, w, rfl⟩ | ⟨o, ty, rm, d, a, rfl⟩ | ⟨o, e, ty, rm, d, a, rfl⟩ |
    ⟨m, ty, d, a, rfl⟩ | ⟨m, ty, d, a, rfl⟩ | ⟨m, d, rfl⟩ := hform
  all_goals
    simp only [exec, execShfl, execVote, execVoteBallot, execRedux, execScanx, execBcast, execMatchLanes, execLanes]
    exact crossLane_guard_false _ _ _ _ _ _ ht hcan hready hguard

/-- Settles O6: every form is the one issue of a cross-lane instruction, which ends in an arrival whether the guard holds or
not. -/
theorem crossLaneArrivals : Obligations.CrossLaneArrivals :=
  ⟨crossLaneInstructionsArrive, falseGuardArrivesInactive⟩

end Sys2Proof.Machine
end

section
/-!
PROOFS. Completion of cross-lane instances, release of joins and `setw` (spec/12_threads_groups.md R224, R226, R227;
spec/14_progress_isa.md R251, R258): the search for the threads a join releases ends in the largest set that is closed under
its members' own sets.
-/

namespace Sys2Proof.Machine

/-! ## The events and `setw` (R226, R251, R258) -/

/-- While the cores run, an instance that is full completes. -/
theorem exec_crossLaneComplete {s : State} {core place base : Nat} {pc : DWord} {i : Instance}
    (hfind : (s.insts core place).find? (fun i => i.pc == pc && i.base == base) = some i)
    (hfull : s.instFull core place i = true) (hrun : s.coresRun = true) :
    exec (.crossLaneComplete core place pc base) s = .next (s.completeInst core place i) := by
  simp only [exec, execCrossLaneComplete, hfind, hfull, hrun, Bool.and_self, if_true]

/-- While the cores run, the threads released from a join go on to the next instruction. -/
theorem exec_joinRelease {s : State} {core place : Nat} {pc : DWord} (hrun : s.coresRun = true) :
    exec (.joinRelease core place pc) s = .next ((s.joinReleased core place pc).foldl (fun s n =>
      let r : ThreadRef := { core, who := whoOf place n }
      (s.modThread r fun t => { t with pc := nextPC pc, state := .runnable, wait := 0 }).countIssue r) s) := by
  rw [exec, execJoinRelease, State.ifRuns_eq hrun]

section
variable {s : State} {t : Thread} {g : Guard} {w : Word}

/-- A user thread's `setw` leaves the width requested for its task. -/
theorem exec_setw_user {place tidx : Nat} (hwho : s.issuer.who = .user place tidx) (h : Issues s t g [] [] []) :
    exec (.setw g w) s = Completes s (s.modTask s.issuer.core place fun k => { k with setw := some w.toNat }) :=
  issue_completes h (by rw [hwho])

/-- A Caster thread's `setw` leaves no width. -/
theorem exec_setw_caster {n : Nat} (hwho : s.issuer.who = .caster n) (h : Issues s t g [] [] []) :
    exec (.setw g w) s = Completes s s :=
  issue_completes h (by rw [hwho])

end

theorem instancesAndJoinsComplete : Claim.InstancesAndJoinsComplete :=
  ⟨fun _ _ _ _ _ _ => exec_crossLaneComplete, fun _ _ _ _ => exec_joinRelease, fun _ _ _ _ _ _ => exec_setw_user,
    fun _ _ _ _ _ => exec_setw_caster⟩

/-! ## The largest set whose members all wait (R251) -/

namespace State

section
variable (s : State) (core place : Nat)

/-- The members of a join's set that have not exited are all among `out`. -/
def JoinWithin (set : JoinSet) (out : List Nat) : Prop :=
  ∀ m ∈ s.liveMembers core place (joinHas set), m ∈ out

/-- The waiting threads whose sets are within the threads waiting: one round of the search (R251). -/
def joinRound (w : List (Nat × JoinSet)) : List (Nat × JoinSet) :=
  w.filter fun x => (s.liveMembers core place (joinHas x.2)).all fun m => (w.map Prod.fst).contains m

variable {s core place}

theorem mem_joinRound {w : List (Nat × JoinSet)} {x : Nat × JoinSet} :
    x ∈ s.joinRound core place w ↔ x ∈ w ∧ s.JoinWithin core place x.2 (w.map Prod.fst) := by
  simp only [joinRound, JoinWithin, List.mem_filter, List.all_eq_true, List.contains_iff_mem]

theorem shrinkJoin_succ (w : List (Nat × JoinSet)) (n : Nat) : s.shrinkJoin core place w (n + 1) =
    if (s.joinRound core place w).length = w.length then w
    else s.shrinkJoin core place (s.joinRound core place w) n := rfl

/-- A round that drops no thread leaves the threads as they were. -/
theorem joinRound_eq_self {w : List (Nat × JoinSet)} (h : (s.joinRound core place w).length = w.length) :
    s.joinRound core place w = w :=
  List.filter_sublist.eq_of_length h

/-- The search only drops threads. -/
theorem shrinkJoin_subset (w : List (Nat × JoinSet)) (n : Nat) : s.shrinkJoin core place w n ⊆ w := by
  induction n generalizing w with
  | zero => exact List.Subset.refl w
  | succ n ih =>
    rw [shrinkJoin_succ]
    split
    · exact List.Subset.refl w
    · exact List.Subset.trans (ih _) List.filter_sublist.subset

/-- The search ends in a set that a further round leaves alone: each earlier round drops a thread, so that as many rounds as
there are threads are enough. -/
theorem joinRound_shrinkJoin {w : List (Nat × JoinSet)} {n : Nat} (h : w.length ≤ n) :
    s.joinRound core place (s.shrinkJoin core place w n) = s.shrinkJoin core place w n := by
  induction n generalizing w with
  | zero =>
    obtain rfl := List.eq_nil_of_length_eq_zero (Nat.le_zero.mp h)
    rfl
  | succ n ih =>
    rw [shrinkJoin_succ]
    split
    · exact joinRound_eq_self ‹_›
    · have hle : (s.joinRound core place w).length ≤ w.length := List.length_filter_le _ w
      exact ih (by omega)

/-- A set of threads that waits, with every member's own set within it, is not dropped by the search. -/
theorem exists_mem_shrinkJoin {out : List Nat} {w : List (Nat × JoinSet)} (n : Nat)
    (hout : ∀ k ∈ out, ∃ set, (k, set) ∈ w ∧ s.JoinWithin core place set out) :
    ∀ k ∈ out, ∃ set, (k, set) ∈ s.shrinkJoin core place w n ∧ s.JoinWithin core place set out := by
  induction n generalizing w with
  | zero => exact hout
  | succ n ih =>
    rw [shrinkJoin_succ]
    split
    · exact hout
    · refine ih fun k hk => ?_
      obtain ⟨set, hmem, hset⟩ := hout k hk
      have hwaits : ∀ m ∈ out, m ∈ w.map Prod.fst := fun m hm =>
        have ⟨_, hm', _⟩ := hout m hm
        List.mem_map_of_mem hm'
      exact ⟨set, mem_joinRound.mpr ⟨hmem, fun m hm => hwaits m (hset m hm)⟩, hset⟩

end

end State

theorem joinReleasesTheLargestSatisfiedSet : Claim.JoinReleasesTheLargestSatisfiedSet := by
  intro s core place pc live out waits
  refine ⟨fun n hn => ?_, fun w hw n hn => ?_⟩
  · obtain ⟨⟨n, set⟩, hmem, rfl⟩ := List.mem_map.mp hn
    have hfix : (n, set) ∈ s.joinRound core place (s.shrinkJoin core place waits waits.length) := by
      rw [State.joinRound_shrinkJoin (Nat.le_refl _)]
      exact hmem
    exact ⟨set, State.shrinkJoin_subset _ _ hmem, (State.mem_joinRound.mp hfix).2⟩
  · obtain ⟨set, hmem, -⟩ := State.exists_mem_shrinkJoin waits.length hw n hn
    exact List.mem_map_of_mem hmem

/-- Settles O8: the events and `setw` are their own effects once the cores run, and the threads a join releases are the
fixpoint that the rounds of its search reach from all that wait there. -/
theorem instancesAndJoins : Obligations.InstancesAndJoins :=
  ⟨instancesAndJoinsComplete, joinReleasesTheLargestSatisfiedSet⟩

end Sys2Proof.Machine
end

section
/-!
PROOFS. Launch queues and dispatch (spec/13_launch_runners.md R230, R238, R239, R241): a doorbell whose descriptor is well
formed comes to the entries of its queue, and the first ready launch, where it is fresh, gets Runners and nothing else.
-/

namespace Sys2Proof.Machine

/-! ## A doorbell (R230) -/

/-- A number below 2^lo has no bit from `lo` on. -/
theorem bits_of_lt {x lo : Nat} (n : Nat) (h : x < 2 ^ lo) : bits x lo n = 0 := by
  rw [bits, Nat.div_eq_of_lt h, Nat.zero_mod]

/-- The lowest bits of a number. -/
theorem bits_zero (x n : Nat) : bits x 0 n = x % 2 ^ n := by
  rw [bits, Nat.pow_zero, Nat.div_one]

/-- A queue descriptor as R230 gives its words: KIND 2 and LOGCAP in word 0, TAIL and HEAD below 2^32, the rest 0. -/
structure DescriptorOk (d : Nat → Nat) : Prop where
  kind : d 0 = 2 + bits (d 0) 8 5 * 256
  logcapPos : 1 ≤ bits (d 0) 8 5
  logcapLe : bits (d 0) 8 5 ≤ 16
  tail : d 2 < 2 ^ 32
  head : d 3 < 2 ^ 32
  rest : ∀ i ∈ [4, 5, 6, 7], d i = 0

/-- A descriptor of that form is not refused. -/
theorem DescriptorOk.not_refused {d : Nat → Nat} (h : DescriptorOk d) :
    ¬(bits (d 0) 0 8 != 2 || bits (d 0) 13 51 != 0 || bits (d 0) 8 5 = 0 || 16 < bits (d 0) 8 5 ||
      bits (d 2) 32 32 != 0 || bits (d 3) 32 32 != 0 || d 4 != 0 || d 5 != 0 || d 6 != 0 || d 7 != 0) = true := by
  have hpos := h.logcapPos
  have hle := h.logcapLe
  have hkind : bits (d 0) 0 8 = 2 := by
    have hd := h.kind
    rw [bits]
    omega
  have hhigh : bits (d 0) 13 51 = 0 := bits_of_lt 51 (by have hd := h.kind; omega)
  have hne : bits (d 0) 8 5 ≠ 0 := by omega
  simp [hkind, hhigh, hne, hle, bits_of_lt 32 h.tail, bits_of_lt 32 h.head, h.rest]

/-- While the device consumes queues, the doorbell of a bound queue with such a descriptor consumes the entries from HEAD up
to TAIL. -/
theorem State.doorbell_eq_consume {s s₁ s₂ : State} {q x : Nat} {bs : List Byte} {a : Accessor} {w : Nat → Nat}
    (hw : w = fun i => s.queueTable.nat (32 * q + 8 * i) 8)
    (ha : a = contextAccessor 0 (s.context (w 0 % 2 ^ 10)).asid (s.context (w 0 % 2 ^ 10)).ptroot
      (s.context (w 0 % 2 ^ 10)).kslot)
    (hstage : s.stage = 7) (hfail : s.health.failed = false) (hq : q < 1024) (hvalid : (w 0).testBit 63 = true)
    (hlow : bits (w 0) 10 53 = 0) (hhigh : bits (w 3) 32 32 = 0) (halign : (BitVec.ofNat 64 (w 1)).toNat % 64 = 0)
    (hread : s.devRead a (BitVec.ofNat 64 (w 1)) 64 = (some bs, s₁)) (hdesc : DescriptorOk (recWord bs))
    (hwrite : s₁.devTranslate a (BitVec.ofNat 64 (w 1) + 24) .write = (some x, s₂)) :
    s.doorbell q = s₂.consume a q (w 0 % 2 ^ 10) (BitVec.ofNat 64 (w 1)) (BitVec.ofNat 64 (recWord bs 1))
      (bits (recWord bs 0) 8 5) ((recWord bs 2 + 2 ^ 32 - recWord bs 3) % 2 ^ 32) (recWord bs 3) := by
  subst hw ha
  have hbound : ¬(s.stage != 7 || s.health.failed || 1024 ≤ q || !(s.queueTable.nat (32 * q + 8 * 0) 8).testBit 63 ||
      bits (s.queueTable.nat (32 * q + 8 * 0) 8) 10 53 != 0 || bits (s.queueTable.nat (32 * q + 8 * 3) 8) 32 32 != 0 ||
      (BitVec.ofNat 64 (s.queueTable.nat (32 * q + 8 * 1) 8)).toNat % 64 != 0) = true := by
    simp only [hstage, hfail, hvalid, hlow, hhigh, halign, Nat.not_le.mpr hq]
    decide
  rw [State.doorbell, if_neg hbound]
  simp only [bits_zero _ 10, hread, if_neg hdesc.not_refused, hwrite, bits_zero _ 32, Nat.mod_eq_of_lt hdesc.tail,
    Nat.mod_eq_of_lt hdesc.head]

/-- A doorbell that no flip holds is what its service leaves; one that is held waits (R210; log entry 111). -/
theorem exec_doorbell {s t : State} {q : Nat} (h : s.doorbell q = t) :
    exec (.doorbell q) s = .next (if t.devWaits then { s with hostWaits := s.hostWaits ++ [.bell q] } else t) := by
  subst h
  rfl

theorem doorbellConsumesTheQueue : Claim.DoorbellConsumesTheQueue := by
  intro s s₁ s₂ q bs w desc ctx a d logcap hstage hfail hq hvalid hlow hhigh halign hread hkind hpos hle htail hhead hrest
    ⟨x, hwrite⟩ t
  have hbell : s.doorbell q = t :=
    State.doorbell_eq_consume (w := w) rfl rfl hstage hfail hq hvalid hlow hhigh halign hread
      ⟨hkind, hpos, hle, htail, hhead, hrest⟩ hwrite
  refine ⟨fun hgoes => ?_, fun hheld => ?_⟩
  · rw [exec_doorbell hbell, hgoes, if_neg Bool.false_ne_true]
  · rw [exec_doorbell hbell, if_pos hheld]

/-! ## Dispatch (R238, R239, R241) -/

/-- The first ready launch, where it is no resumption and its Runners fit, is dispatched with fresh Runners and no shell. -/
theorem State.dispatchLaunch_fresh {s : State} {l : Launch}
    (hfirst : State.firstLaunch (s.launches.filter fun l => l.state == .ready) = some l) (hstage : s.stage = 7)
    (hpieces : s.pieces l.desc ≠ []) (hctx : s.ctxValid l.ctxn = true) (hnrun : l.desc.nrun = 0) (hnshell : l.desc.nshell = 0)
    (hroom : s.runnerCount + (s.pieces l.desc).length ≤ 4096) :
    s.dispatchLaunch l.no =
      State.modLaunch { s with launchNo := s.launchNo + (s.pieces l.desc).length + 1 } l.no fun x =>
        { x with state := .dispatched, runners := State.freshRunners l.desc (s.pieces l.desc) s.launchNo, shells := []
                 order := s.launchNo + (s.pieces l.desc).length + 1, age := 0, frozen := false } := by
  have hnone : (s.pieces l.desc).isEmpty = false := List.isEmpty_eq_false_iff.mpr hpieces
  simp only [State.dispatchLaunch, hfirst, hstage, hnone, hctx, hnrun, hnshell, Nat.not_lt.mpr hroom, bne_self_eq_false,
    Bool.or_self, Bool.not_true, Bool.false_eq_true, Bool.false_and, if_false, List.filter_nil, List.map_nil, List.append_nil,
    List.zipIdx_map_fst]

theorem launchesAreDispatched : Claim.LaunchesAreDispatched := by
  intro s k
  refine ⟨rfl, ?_, fun core => exec_taskDispatch core⟩
  rintro l hfirst rfl hstage hpieces hctx hnrun hnshell hroom n s₁
  rw [← show s.dispatchLaunch l.no = s₁ from
    State.dispatchLaunch_fresh hfirst hstage hpieces hctx hnrun hnshell hroom]
  rfl

/-- Settles O34: a doorbell whose checks pass comes to its entries, aging is one update, and the dispatch of a fresh launch
posts no shell. -/
theorem queuesAndDispatch : Obligations.QueuesAndDispatch :=
  ⟨doorbellConsumesTheQueue, launchesAreDispatched⟩

end Sys2Proof.Machine
end

section
/-!
PROOFS. Launches of threads and their pre-emption (spec/13_launch_runners.md R233, R234, R246 to R248;
spec/14_progress_isa.md R254): the ways in which `launch` ends, what a submission makes of a well-formed record, and what the
start and the end of a pre-emption leave.
-/

namespace Sys2Proof.Machine

/-! ## `launch` (R233, R254) -/

/-- The record of a thread's `launch` submitted, in a context of the thread's own (log entry 46). -/
def submitted (s : State) (r : ThreadRef) (va : DWord) (pa : Nat) (bs : List Byte) : State :=
  s.submit (launchContext s r).1 (launchContext s r).2 none va pa bs

/-- How `launch` ends by the record it has read: poisoned or malformed it traps, well formed it is submitted. -/
def launchLoaded (s : State) (r : ThreadRef) (va : DWord) (pa : Nat) (bs : List Byte) (pois : Bool) : Eff :=
  if pois then .trap s { kind := .launchBad, sub := 0x0A, addr := va }
  else match recFault s.part bs with
    | some sub => .trap s { kind := .launchBad, sub, addr := 0 }
    | none => if (submitted s r va pa bs).devWaits then .hold s else .next (submitted s r va pa bs)

section
variable {s s₁ s₂ : State} {t : Thread} {g : Guard} {base : Src} {off : Word} {pa : Nat} {bs : List Byte} {pois : Bool}

theorem exec_launch_unaligned (h : Clean s t g [(base, 2)] [] []) (hmis : (formAddr t (lineRef base off)).toNat % 128 ≠ 0) :
    exec (.launch g base off) s = Traps s { kind := .align, sub := 0x01, addr := formAddr t (lineRef base off) } := by
  have hne : ((formAddr t (lineRef base off)).toNat % 128 != 0) = true := bne_iff_ne.mpr hmis
  simp only [exec, execLaunch, issue_eq _ h.issues, h.clean, hne, if_true, State.finish, Traps]

section
variable (h : Clean s t g [(base, 2)] [] []) (halign : (formAddr t (lineRef base off)).toNat % 128 = 0)
include h halign

/-- While a flip to device bias holds the translation, the thread holds at its `launch` (log entry 111). -/
theorem exec_launch_held {x : Option Nat}
    (htr : s.devTranslate (s.accessor s.issuer) (formAddr t (lineRef base off)) .read = (x, s₁)) (hheld : s₁.devWaits = true) :
    exec (.launch g base off) s = Holds { s₁ with devWaits := false } := by
  cases x <;>
    simp only [exec, execLaunch, issue_eq _ h.issues, h.clean, halign, bne_self_eq_false, Bool.false_eq_true, if_false, htr,
      hheld, if_true, State.finish, Holds]

theorem exec_launch_unreadable
    (htr : s.devTranslate (s.accessor s.issuer) (formAddr t (lineRef base off)) .read = (none, s₁))
    (hgoes : s₁.devWaits = false) :
    exec (.launch g base off) s = .next (s₁.takeTrap s.issuer
      { kind := .launchBad, sub := 0x0A, addr := formAddr t (lineRef base off) }) := by
  simp only [exec, execLaunch, issue_eq _ h.issues, h.clean, halign, bne_self_eq_false, Bool.false_eq_true, if_false, htr,
    hgoes, State.finish]

section
variable (htr : s.devTranslate (s.accessor s.issuer) (formAddr t (lineRef base off)) .read = (some pa, s₁))
  (hgoes : s₁.devWaits = false) (hrelease : s₁.releaseReady s.issuer .dev = true) (hload : s₁.devLoad pa 128 = (bs, pois, s₂))
include htr hgoes hrelease hload

/-- Once the release of the thread is done, its `launch` ends by the record that it reads. -/
theorem exec_launch_loaded : exec (.launch g base off) s =
    .next (State.finish s.issuer (launchLoaded s₂ s.issuer (formAddr t (lineRef base off)) pa bs pois)) := by
  simp only [exec, execLaunch, issue_eq _ h.issues, h.clean, halign, bne_self_eq_false, Bool.false_eq_true, if_false, htr,
    hgoes, hrelease, Bool.not_true, hload]
  rfl

theorem exec_launch_poisoned (hpois : pois = true) :
    exec (.launch g base off) s = .next (s₂.takeTrap s.issuer
      { kind := .launchBad, sub := 0x0A, addr := formAddr t (lineRef base off) }) := by
  rw [exec_launch_loaded h halign htr hgoes hrelease hload, launchLoaded, if_pos hpois, State.finish]

theorem exec_launch_malformed {sub : Byte} (hpois : pois = false) (hbad : recFault s₂.part bs = some sub) :
    exec (.launch g base off) s = .next (s₂.takeTrap s.issuer { kind := .launchBad, sub, addr := 0 }) := by
  rw [exec_launch_loaded h halign htr hgoes hrelease hload, launchLoaded, if_neg (Bool.not_eq_true _ ▸ hpois), hbad, State.finish]

/-- While a flip holds an access of the submission, the thread holds instead (log entry 126). -/
theorem exec_launch_wellFormed (hpois : pois = false) (hgood : recFault s₂.part bs = none) :
    exec (.launch g base off) s =
      let s₃ := submitted s₂ s.issuer (formAddr t (lineRef base off)) pa bs
      if s₃.devWaits then Holds s₂ else Completes s s₃ := by
  rw [exec_launch_loaded h halign htr hgoes hrelease hload, launchLoaded, if_neg (Bool.not_eq_true _ ▸ hpois), hgood]
  dsimp only
  split <;> rfl

end

end

end

theorem launchOfAThread : Claim.LaunchOfAThread := by
  intro s s₁ t g base off h r va bad
  refine ⟨exec_launch_unaligned h, fun halign htr => ⟨?_, ?_⟩, fun pa halign htr => ⟨?_, ?_⟩⟩
  · exact exec_launch_held h halign htr
  · exact exec_launch_unreadable h halign htr
  · exact exec_launch_held h halign htr
  · intro hgoes hrelease bs pois s₂ hload x s₃
    refine ⟨fun hpois => ?_, fun hpois sub hbad => ?_, fun hpois hgood hdone => ?_, fun hpois hgood hheld => ?_⟩
    · exact exec_launch_poisoned h halign htr hgoes hrelease hload hpois
    · exact exec_launch_malformed h halign htr hgoes hrelease hload hpois hbad
    · exact (exec_launch_wellFormed h halign htr hgoes hrelease hload hpois hgood).trans
        (if_neg (Bool.not_eq_true _ ▸ hdone))
    · exact (exec_launch_wellFormed h halign htr hgoes hrelease hload hpois hgood).trans (if_pos hheld)

/-! ## Submission (R234, R235, R248) -/

/-- The launch that a well-formed record becomes, before it is ready (R233, R385). -/
def State.newLaunch (s : State) (a : Accessor) (ctxn : Nat) (q : Option Nat) (va : DWord) (pa : Nat) (bs : List Byte) : Launch :=
  { no := s.launchNo, pa, va, ctxn, asid := a.asid, ptroot := a.ptroot, kslot := a.kslot, queue := q, desc := parseRec bs
    state := .submitted, age := 0, order := 0, runners := [], live := 0, shells := [], frozen := false }

section
variable {s : State} {a : Accessor} {ctxn : Nat} {q : Option Nat} {va : DWord} {pa : Nat} {bs : List Byte}

/-- A submission forgets the aborted launches at its address: there are none. -/
theorem State.filter_aborted_eq_self (h : ∀ l ∈ s.launches, l.pa = pa → l.state ≠ .aborted) :
    s.launches.filter (fun l => !(l.pa == pa && l.state == .aborted)) = s.launches :=
  List.filter_eq_self.mpr fun l hl => by
    by_cases hpa : l.pa = pa
    · simp [h l hl hpa]
    · simp [hpa]

/-- A well-formed record at an address that no launch has is added to the table, and is ready where it has no predecessor. -/
theorem State.submit_new (hgood : recFault s.part bs = none) (hnew : ∀ l ∈ s.launches, l.pa ≠ pa) :
    s.submit a ctxn q va pa bs =
      let s' : State := { s with launches := s.launches ++ [s.newLaunch a ctxn q va pa bs], launchNo := s.launchNo + 1 }
      if (parseRec bs).pred = 0 then s'.makeReady s.launchNo else s' := by
  have hfind : (s.launches.find? fun l => l.pa == pa) = none :=
    List.find?_eq_none.mpr fun l hl => by simpa using hnew l hl
  simp only [State.submit, State.filter_aborted_eq_self fun l hl hpa => absurd hpa (hnew l hl), hfind, hgood, State.newLaunch]

/-- A well-formed record at the address of a suspended launch takes its place, and the launch is ready again (R248). -/
theorem State.submit_suspended {k : Launch} (hgood : recFault s.part bs = none)
    (hlive : ∀ l ∈ s.launches, l.pa = pa → l.state ≠ .aborted) (hfind : (s.launches.find? fun l => l.pa == pa) = some k)
    (hsusp : k.state = .suspended) :
    s.submit a ctxn q va pa bs = (s.modLaunch k.no fun l =>
      { l with va, ctxn, asid := a.asid, ptroot := a.ptroot, kslot := a.kslot, queue := q, desc := parseRec bs }).makeReady k.no := by
  have hfailed : (LState.suspended == LState.failed) = false := rfl
  simp only [State.submit, State.filter_aborted_eq_self hlive, hfind, hsusp, hfailed, Bool.false_eq_true, if_false, beq_self_eq_true,
    if_true, hgood]

end

theorem recordsAreSubmitted : Claim.RecordsAreSubmitted := by
  intro s a ctxn q va pa bs hgood
  refine ⟨fun hnew => ?_, fun k hlive hfind hsusp => State.submit_suspended hgood hlive hfind hsusp⟩
  rw [State.submit_new hgood hnew]
  by_cases hpred : (parseRec bs).pred = 0
  · refine ⟨{ s.newLaunch a ctxn q va pa bs with state := .ready, order := s.launchNo + 1 }, ?_,
      rfl, rfl, rfl, rfl, rfl, rfl, rfl, rfl, (if_pos hpred).symm⟩
    simp [hpred, State.makeReady, State.modLaunch, State.newLaunch]
  · refine ⟨s.newLaunch a ctxn q va pa bs, ?_, rfl, rfl, rfl, rfl, rfl, rfl, rfl, rfl, (if_neg hpred).symm⟩
    simp [hpred]

/-! ## A pre-emption starts (R246, R247) -/

/-- An event of the device that a flip holds leaves nothing (log entry 111). -/
theorem State.orHeld_of_held {s t : State} (h : t.devWaits = true) : s.orHeld t = s := if_pos h

theorem State.orHeld_of_goes {s t : State} (h : t.devWaits = false) : s.orHeld t = t :=
  if_neg (Bool.not_eq_true _ ▸ h)

/-- Every launch that has the number of an update after it is an image of the update. -/
theorem State.exists_of_mem_modLaunch {s : State} {no : Nat} {f : Launch → Launch} {l' : Launch}
    (hl : l' ∈ (s.modLaunch no f).launches) (hno : l'.no = no) : ∃ l, l' = f l := by
  obtain ⟨l, -, rfl⟩ := List.mem_map.mp hl
  by_cases h : l.no = no
  · exact ⟨l, if_pos (beq_iff_eq.mpr h)⟩
  · rw [if_neg (by simpa using h)] at hno
    exact absurd hno h

/-- A write of LPREEMPT, whose bits but GO the register keeps. -/
def State.writeLpreempt (s : State) (value : DWord) : State :=
  { s with regs := { s.regs with lpreempt := value &&& 0x00FFFFFFFFFFFF80 } }

/-- The requests of a core while a launch is pre-empted: its placements are withdrawn, and each of its tasks is to be saved. -/
def Core.askSaves (c : Core) (no : Nat) : Core :=
  { c with reqs := (c.reqs.filter fun q => match q with
              | .place _ n => n != no
              | .save .. => true) ++
            (c.tasks.filter fun p => p.2.launch == no).map fun p => .save p.1 (c.gen p.1) }

theorem Core.save_mem_askSaves {c : Core} {no : Nat} {p : Nat × Task} (hp : p ∈ c.tasks) (hno : p.2.launch = no) :
    CasterReq.save p.1 (c.gen p.1) ∈ (c.askSaves no).reqs :=
  List.mem_append_right _ (List.mem_map.mpr ⟨p, List.mem_filter.mpr ⟨hp, beq_iff_eq.mpr hno⟩, rfl⟩)

/-- A launch frozen, with the lists of the record `d` and the slots read from it, and its tasks asked for. -/
def State.freeze (s : State) (l : Launch) (d : LaunchRec) (slots : List Nat) : State :=
  let s' := s.modLaunch l.no fun l =>
    { l with frozen := true, desc := { l.desc with runptr := d.runptr, shellptr := d.shellptr, shcap := d.shcap } }
  { s' with preempt := some { launch := l.no, slots, kept := l.shells.map Prod.fst, given := [], written := [] }
            cores := s'.cores.map fun c => c.askSaves l.no }

theorem State.core?_freeze (s : State) (l : Launch) (d : LaunchRec) (slots : List Nat) (n : Nat) :
    (s.freeze l d slots).core? n = (s.core? n).map fun c => c.askSaves l.no := List.getElem?_map

theorem State.frozen_of_mem_freeze {s : State} {l l' : Launch} {d : LaunchRec} {slots : List Nat}
    (hl : l' ∈ (s.freeze l d slots).launches) (hno : l'.no = l.no) : l'.frozen = true := by
  obtain ⟨k, rfl⟩ := State.exists_of_mem_modLaunch hl hno
  rfl

section
variable {s : State} {value : DWord}

/-- Without GO a write of LPREEMPT starts nothing. -/
theorem State.startPreempt_noGo (hgo : value.getLsbD 0 = false) : s.startPreempt value = s.writeLpreempt value := by
  simp only [State.startPreempt, hgo, Bool.not_false, if_true, State.writeLpreempt]

/-- A GO that names no dispatched launch sets ERR. -/
theorem State.startPreempt_none (hgo : value.getLsbD 0 = true)
    (hnone : ∀ l ∈ s.launches, l.pa = bits value.toNat 7 49 * 128 → l.state ≠ .dispatched) :
    s.startPreempt value =
      { s.writeLpreempt value with regs := { (s.writeLpreempt value).regs with lpErr := true } } := by
  have hfind : (s.launches.find? fun l => l.pa == bits value.toNat 7 49 * 128 && l.state == .dispatched) = none :=
    List.find?_eq_none.mpr fun l hl => by simpa using hnone l hl
  simp only [State.startPreempt, hgo, Bool.not_true, Bool.false_eq_true, if_false, hfind, State.writeLpreempt]

/-- A GO that names a dispatched launch whose record gives lists that can hold what is saved freezes it. -/
theorem State.startPreempt_freezes {l : Launch} {bs : List Byte} {pois : Bool} {s₂ s₃ : State} {slots : List Nat}
    (hgo : value.getLsbD 0 = true)
    (hfind : (s.launches.find? fun l => l.pa == bits value.toNat 7 49 * 128 && l.state == .dispatched) = some l)
    (hload : (s.writeLpreempt value).devLoad (bits value.toNat 7 49 * 128) 128 = (bs, pois, s₂))
    (hslots : s₂.devWords (parseRec bs).shellptr (parseRec bs).shcap = (slots, s₃)) (hidle : s₂.preempt = none)
    (hcap : 32 * 2 ^ (l.desc.logw + l.desc.logh) ≤ (parseRec bs).shcap) (hrun : (parseRec bs).runptr < s₂.part.hbmBytes)
    (hshell : (parseRec bs).shellptr < s₂.part.hbmBytes) (hrun16 : (parseRec bs).runptr % 16 = 0)
    (hshell8 : (parseRec bs).shellptr % 8 = 0) :
    s.startPreempt value = s₃.freeze l (parseRec bs) slots := by
  simp only [State.writeLpreempt] at hload
  simp only [State.startPreempt, hgo, Bool.not_true, Bool.false_eq_true, if_false, hfind, hload, hidle, Option.isSome_none,
    Nat.not_lt.mpr hcap, Nat.not_le.mpr hrun, Nat.not_le.mpr hshell, hrun16, hshell8, bne_self_eq_false, decide_false,
    Bool.or_self, hslots]
  rfl

end

/-! ## A pre-emption ends (R247) -/

section
variable {s : State} {p : Preempt}

/-- While a task of the launch is on a core, its pre-emption does not end. -/
theorem State.endPreempt_resident (hp : s.preempt = some p) (hres : s.resident p.launch = true) : s.endPreempt = s := by
  simp only [State.endPreempt, hp, hres, if_true]

/-- Once no task of the launch is on a core, its lists are written and the pre-emption is over. -/
theorem State.endPreempt_done (hp : s.preempt = some p) (hres : s.resident p.launch = false) :
    s.endPreempt.preempt = none ∧ s.endPreempt.regs.lpDone = true := by
  simp only [State.endPreempt, hp, hres, Bool.false_eq_true, if_false, and_self]

theorem State.endPreempt_launches {l : Launch} (hp : s.preempt = some p) (hres : s.resident p.launch = false)
    (hl : s.launch? p.launch = some l) : s.endPreempt.launches = (s.suspendLaunch p l).launches := by
  simp only [State.endPreempt, hp, hres, Bool.false_eq_true, if_false, hl]

theorem State.suspended_of_mem_suspendLaunch {l l' : Launch} (hl : l' ∈ (s.suspendLaunch p l).launches) (hno : l'.no = l.no) :
    l'.state = .suspended ∧ l'.runners = [] := by
  obtain ⟨k, rfl⟩ := State.exists_of_mem_modLaunch hl hno
  exact ⟨rfl, rfl⟩

end

theorem exec_launchPreempt (s : State) (value : DWord) :
    exec (.launchPreempt value) s = .next (s.orHeld (s.startPreempt value)) := rfl

theorem exec_preemptComplete (s : State) : exec .preemptComplete s = .next (s.orHeld s.endPreempt) := rfl

theorem preemptionOfLaunches : Claim.PreemptionOfLaunches := by
  intro s value hgoes pa s₁
  refine ⟨fun hgo => ?_, fun hgo hnone => ?_, ?_, fun p hp => ⟨fun hres => ?_, fun hres => ⟨fun hheld => ?_, fun hfree => ?_⟩⟩⟩
  · rw [exec_launchPreempt, State.startPreempt_noGo hgo]
    exact congrArg _ (State.orHeld_of_goes hgoes)
  · rw [exec_launchPreempt, State.startPreempt_none hgo hnone]
    exact congrArg _ (State.orHeld_of_goes hgoes)
  · intro l hgo hfind bs pois s₂ slots s₃ hload d hslots hidle hcap hrun hshell hrun16 hshell8
    rw [exec_launchPreempt, State.startPreempt_freezes hgo hfind hload hslots hidle hcap hrun hshell hrun16 hshell8]
    refine ⟨fun hheld => congrArg _ (State.orHeld_of_held hheld), fun hfree => ?_⟩
    refine ⟨_, congrArg _ (State.orHeld_of_goes hfree), rfl, fun l' => State.frozen_of_mem_freeze, fun n c hc => ?_, rfl, rfl⟩
    exact ⟨c.askSaves l.no, by rw [State.core?_freeze, hc, Option.map_some], rfl, fun q => Core.save_mem_askSaves⟩
  · rw [exec_preemptComplete, State.endPreempt_resident hp hres, State.orHeld, ite_self]
  · rw [exec_preemptComplete, State.orHeld_of_held hheld]
  · obtain ⟨hnone, hdone⟩ := State.endPreempt_done hp hres
    rw [exec_preemptComplete]
    refine ⟨_, congrArg _ (State.orHeld_of_goes hfree), hnone, hdone, fun l hl l' hl' => ?_⟩
    rw [State.endPreempt_launches hp hres hl] at hl'
    exact State.suspended_of_mem_suspendLaunch hl'

/-- Settles O36: a thread's `launch` by the first check that turns it back, a submission by what the table holds at its address,
and a pre-emption by its start and its end. Rests on log entries 46, 84, 111 and 126. -/
theorem threadLaunchesAndPreemption : Obligations.ThreadLaunchesAndPreemption :=
  ⟨launchOfAThread, recordsAreSubmitted, preemptionOfLaunches⟩

end Sys2Proof.Machine
end

section
/-!
PROOFS. What a store at the homes leaves of a machine (spec/08_memory_spaces.md R148; spec/09_ordering_rules.md R158, R161,
R169): it writes memory, caches and marks, and pushes lines, and so changes no register of the device, no task of a core and
no core's service state.
-/

namespace Sys2Proof.Machine

/-- What a store leaves of a core: whether it is in service, and its tasks. -/
def Core.holds (c : Core) : Service × List (Nat × Task) := (c.service, c.tasks)

/-- `s'` differs from `s` in what stores and pushes change: the device's registers are those of `s`, and each core has the
service state and the tasks that it has in `s`. -/
structure State.Stored (s s' : State) : Prop where
  regs : s'.regs = s.regs
  cores : s'.cores.map Core.holds = s.cores.map Core.holds

namespace State.Stored

variable {s s' s'' : State}

theorem refl (s : State) : s.Stored s := ⟨rfl, rfl⟩

theorem trans (h : s.Stored s') (h' : s'.Stored s'') : s.Stored s'' :=
  ⟨h'.regs.trans h.regs, h'.cores.trans h.cores⟩

theorem foldl {α : Type} {f : State → α → State} (hf : ∀ (s : State) (x : α), s.Stored (f s x)) (l : List α) (s : State) :
    s.Stored (l.foldl f s) :=
  List.foldlRecOn (motive := s.Stored) l f (refl s) fun s' hs x _ => hs.trans (hf s' x)

/-- Each core has the service state and the tasks that it has in the state before. -/
theorem core? (h : s.Stored s') (n : Nat) : (s'.core? n).map Core.holds = (s.core? n).map Core.holds := by
  rw [State.core?, State.core?, ← List.getElem?_map, h.cores, List.getElem?_map]

end State.Stored

namespace State

/-- An update of every core that leaves its service state and its tasks. -/
theorem stored_of_zipIdx {s s' : State} {f : Core × Nat → Core} (hregs : s'.regs = s.regs)
    (hcores : s'.cores = s.cores.zipIdx.map f) (hf : ∀ x, (f x).holds = x.1.holds) : s.Stored s' := by
  refine ⟨hregs, ?_⟩
  calc s'.cores.map Core.holds = s.cores.zipIdx.map fun x => x.1.holds := by
        rw [hcores, List.map_map]
        exact List.map_congr_left fun x _ => hf x
    _ = (s.cores.zipIdx.map Prod.fst).map Core.holds := by rw [List.map_map]; rfl
    _ = s.cores.map Core.holds := by rw [List.zipIdx_map_fst]

theorem stored_of_map {s s' : State} {f : Core → Core} (hregs : s'.regs = s.regs) (hcores : s'.cores = s.cores.map f)
    (hf : ∀ c, (f c).holds = c.holds) : s.Stored s' :=
  ⟨hregs, by rw [hcores, List.map_map]; exact List.map_congr_left fun c _ => hf c⟩

theorem stored_modCore {f : Core → Core} (hf : ∀ c, (f c).holds = c.holds) (s : State) (n : Nat) :
    s.Stored (s.modCore n f) := by
  refine ⟨rfl, List.ext_getElem? fun i => ?_⟩
  have hsame : Core.holds ∘ f = Core.holds := funext hf
  simp only [State.modCore, List.getElem?_map, List.getElem?_modify]
  split <;> simp [hsame]

theorem stored_touch (s : State) (t : Touch) : s.Stored (s.touch t) := by
  unfold State.touch
  split <;> exact ⟨rfl, rfl⟩

theorem stored_verify (s : State) (la : Nat) : s.Stored (s.verify la) := by
  unfold State.verify
  split <;> exact ⟨rfl, rfl⟩

theorem stored_homeWrite (s : State) (la : Nat) (data : List Byte) (mask : BitVec 64) (pois : BitVec 4) :
    s.Stored (s.homeWrite la data mask pois) :=
  have htouch := stored_touch { s with lineKeys := _, mem := _, mpois := _ } (.line la)
  ⟨htouch.regs, htouch.cores⟩

theorem stored_pushLine (s : State) (la : Nat) : s.Stored (s.pushLine la) :=
  stored_of_map rfl rfl fun c => by split <;> rfl

theorem stored_loseOwned (s : State) (n la : Nat) : s.Stored (s.loseOwned n la) :=
  stored_of_zipIdx rfl rfl fun (c, m) => by dsimp only; split <;> rfl

theorem stored_applyCopy (s : State) (n la : Nat) (l : L1Line) : s.Stored (s.applyCopy n la l) := by
  unfold State.applyCopy
  split
  · exact stored_homeWrite ..
  · exact (stored_loseOwned ..).trans (stored_homeWrite ..)

theorem stored_applyCopies (s : State) (n la : Nat) (ls : List L1Line) : s.Stored (s.applyCopies n la ls) :=
  Stored.foldl (stored_applyCopy · n la ·) ls s

theorem stored_homeWrites (s : State) (la : Nat) (ls : List L1Line) :
    s.Stored (ls.foldl (fun s l => s.homeWrite la l.data l.dirty l.pois) s) :=
  Stored.foldl (fun s l => stored_homeWrite s la l.data l.dirty l.pois) ls s

/-- A push that there may be no need for. -/
theorem Stored.ite_pushLine {s s' : State} (h : s.Stored s') (p : Prop) [Decidable p] (la : Nat) :
    s.Stored (if p then s' else s'.pushLine la) := by
  split
  · exact h
  · exact h.trans (stored_pushLine s' la)

theorem stored_flushOwned (s : State) (la : Nat) (except : Option Nat) : s.Stored (s.flushOwned la except) :=
  Stored.ite_pushLine ((stored_homeWrites s la _).trans (stored_of_zipIdx (by rfl) (by rfl) fun _ => by rfl)) _ la

theorem stored_flushCore (s : State) (n la : Nat) : s.Stored (s.flushCore n la) := by
  unfold State.flushCore
  split
  · exact Stored.refl s
  · exact Stored.ite_pushLine ((stored_applyCopies s n la _).trans (stored_modCore (fun _ => by rfl) _ n)) _ la

theorem stored_homeReady (s : State) (core : Option Nat) (la : Nat) : s.Stored (s.homeReady core la) := by
  have hready := (stored_verify s la).trans (stored_flushOwned _ la none)
  cases core with
  | none => exact hready
  | some n => exact hready.trans ((stored_flushCore _ n la).trans (stored_modCore (fun _ => by rfl) _ n))

theorem stored_storeHomeBy (s : State) (core : Option Nat) (pa : Nat) (bs : List Byte) (pois : BitVec 4) :
    s.Stored (s.storeHomeBy core pa bs pois) :=
  (stored_homeReady ..).trans ((stored_homeWrite ..).trans (stored_pushLine ..))

/-- A store of any number of bytes at their homes leaves the device's registers and the tasks of the cores. -/
theorem stored_storeHomeBytesBy (s : State) (core : Option Nat) (pa : Nat) (bs : List Byte) (pois : Bool) :
    s.Stored (s.storeHomeBytesBy core pa bs pois) :=
  Stored.foldl (fun s _ => stored_storeHomeBy s ..) _ s

end State

end Sys2Proof.Machine
end

section
/-!
PROOFS. Caster starts and machine checks (spec/20_system_isa.md R312; spec/21_prog_protected_preempt.md R331;
spec/22_traps_restart.md R350): the start that is due, what it leaves, and the report of a machine check, whose record is a
store that changes no register of the device and no task of a core.
-/

namespace Sys2Proof.Machine

/-! ## The start of a Caster thread (R312, R331) -/

/-- A cause that is next is served by no Caster thread. -/
theorem serving_of_nextCause? {c : Core} {cause : Nat} (h : nextCause? c = some cause) : State.serving c cause = false := by
  have hnext := List.find?_some h
  simp only [Bool.and_eq_true, Bool.not_eq_true'] at hnext
  exact hnext.2

/-- A thread put to its start stands at the entry of its cause, with CAUSE and ARG. -/
theorem State.caster_putStart {s : State} {core n cause : Nat} {c : Core} {k : Caster} (arg : Word) (call : Option Nat)
    (hc : s.core? core = some c) (hk : c.casters[n]? = some k) :
    (((s.putStart core n cause arg call).core? core).bind fun c => c.casters[n]?) = some { k with
      thr := { k.thr with pc := casterEntry c cause, state := .runnable, wait := 0, yielded := false }
      cause := BitVec.ofNat 4 cause, arg, start := c.startNo, call, stopping := false } := by
  simp [State.putStart, hc, Core.modCaster, hk]

section
variable {s s₁ s₂ : State} {core n cause : Nat} {c : Core}

section
variable {arg : Word} {call : Option Nat} (hprep : s.prepare core c cause = some (arg, call, s₁))
include hprep

theorem State.makeStart_ok (hcheck : (s₁.putStart core n cause arg call).checkTarget { core, who := .caster n }
    (casterEntry c cause) = (.ok, s₂)) : s.makeStart core c n cause = s₂.dropClean core := by
  simp only [State.makeStart, hprep, hcheck]

theorem State.makeStart_wait (hcheck : (s₁.putStart core n cause arg call).checkTarget { core, who := .caster n }
    (casterEntry c cause) = (.wait, s₂)) : s.makeStart core c n cause = s := by
  simp only [State.makeStart, hprep, hcheck]

/-- An entry that R27 refuses is a machine check. -/
theorem State.makeStart_trap {t : Trap} (hcheck : (s₁.putStart core n cause arg call).checkTarget { core, who := .caster n }
    (casterEntry c cause) = (.trap t, s₂)) : s.makeStart core c n cause = s₂.casterTrap core n t := by
  simp only [State.makeStart, hprep, hcheck]

end

theorem exec_casterStart (s : State) (core cause : Nat) : exec (.casterStart core cause) s = .next (s.startCaster core cause) :=
  rfl

section
variable (hc : s.core? core = some c) (hin : c.inService = true) (hrun : s.coresRun = true) (hstage : s.stage = 7)
include hc

/-- A start for a cause that is not due changes nothing. -/
theorem State.startCaster_notDue (hother : nextCause? c ≠ some cause) : s.startCaster core cause = s := by
  have hne : (nextCause? c != some cause) = true := bne_iff_ne.mpr hother
  simp only [State.startCaster, hc, hne, Bool.or_true, if_true]

include hin

/-- A start for CAUSE 5 goes to an idle thread where there is one. -/
theorem State.serveMcheck_idle {sub : Byte} {rest : List Byte} (hfree : State.serving c 5 = false)
    (hwaits : c.mcheck = sub :: rest) (hidle : State.idleCaster? c = some n) :
    s.serveMcheck core = ((s.modCore core fun c => { c with mcheck := rest }).markStopping core none).startFive core n sub s := by
  simp only [State.serveMcheck, hc, hwaits, hfree, hin, hidle, Bool.not_true, Bool.or_self, Bool.false_eq_true, if_false]

include hrun hstage

omit hc in
/-- Where a start is due, nothing that comes before it turns it back. -/
theorem startGuard_eq_false (hdue : nextCause? c = some cause) :
    (!c.inService || !s.coresRun || s.stage != 7 || nextCause? c != some cause) = false := by
  simp [hin, hrun, hstage, hdue]

/-- The start for CAUSE 5 that is due is that of the oldest machine check. -/
theorem State.startCaster_five (hdue : nextCause? c = some 5) : s.startCaster core 5 = s.serveMcheck core := by
  simp only [State.startCaster, hc, startGuard_eq_false hin hrun hstage hdue, Bool.false_eq_true, if_false, if_true]

section
variable (hdue : nextCause? c = some cause) (hidle : State.idleCaster? c = some n)
include hdue hidle

/-- Another start that is due, with no other task of its cluster to be saved, is made alone. -/
theorem State.startCaster_alone (h5 : cause ≠ 5) (hmates : cause ≠ 4 ∨ s.mates core c = []) :
    s.startCaster core cause = s.makeStart core c n cause := by
  simp only [State.startCaster, hc, startGuard_eq_false hin hrun hstage hdue, Bool.false_eq_true, if_false, h5, hidle]
  by_cases h4 : cause = 4
  · subst h4
    have hnone := hmates.resolve_left (not_not_intro rfl)
    simp only [hnone, bne_self_eq_false, Bool.false_eq_true, if_false, List.isEmpty_nil, if_true]
  · have hne : (cause != 4) = true := bne_iff_ne.mpr h4
    simp only [hne, if_true]

/-- A start that saves the tasks of a cluster is made on each of its cores at once, or on none (R247; log entry 61). -/
theorem State.startCaster_together (h4 : cause = 4) (hmates : s.mates core c ≠ []) :
    s.startCaster core cause =
      if s.canStartSave core && (s.mates core c).all fun m => s.canStartSave m.1 then
        (s.mates core c).foldl (fun s m => s.startMate m.1 m.2) (s.makeStart core c n 4)
      else s := by
  subst h4
  have hsome : (s.mates core c).isEmpty = false := List.isEmpty_eq_false_iff.mpr hmates
  have h45 : ¬(4 = 5) := by decide
  simp only [State.startCaster, hc, startGuard_eq_false hin hrun hstage hdue, bne_self_eq_false, Bool.false_eq_true, if_false,
    h45, hidle, hsome]

end

end

end

theorem casterStarts : Claim.CasterStarts := by
  intro s s₁ s₂ core cause n c hc hin hrun hstage
  simp only [exec_casterStart]
  refine ⟨fun hother => ?_, fun hdue h5 hidle => ?_, fun sub rest hdue hwaits hidle => ?_⟩
  · rw [State.startCaster_notDue hc hother]
  · refine ⟨fun x c' k arg call => State.caster_putStart arg call, fun arg call hmates hprep => ?_, fun h4 hmates => ?_⟩
    · rw [State.startCaster_alone hc hin hrun hstage hdue hidle h5 hmates]
      exact ⟨fun hok => congrArg _ (State.makeStart_ok hprep hok), fun hwait => congrArg _ (State.makeStart_wait hprep hwait),
        fun t htrap => congrArg _ (State.makeStart_trap hprep htrap)⟩
    · rw [← State.startCaster_together hc hin hrun hstage hdue hidle h4 hmates, h4]
  · rw [State.startCaster_five hc hin hrun hstage hdue,
      State.serveMcheck_idle hc hin (serving_of_nextCause? hdue) hwaits hidle]

namespace State

/-! ## The report of a machine check (R350) -/

/-- The registers of a machine check: MCSTAT holds its sub-kind and core, and it is counted. -/
def countMcheck (r : DevRegs) (core : Nat) (sub : Byte) : DevRegs :=
  { r with mcSub := sub, mcCore := BitVec.ofNat 16 core, mcCount := r.mcCount + 1, mcValid := true }

/-- A machine check is a record in the core's window, a count in MCSTAT and, where MCMSG names an address, a message there. -/
theorem reportMcheck_eq {s : State} {core : Nat} {c : Core} (hc : s.core? core = some c) (sub : Byte) (tidx : Nat)
    (w1 w2 : DWord) (handle lid : Word) : ∃ s₁, s.Stored s₁ ∧ ∃ v,
      s.reportMcheck core sub tidx w1 w2 handle lid =
        let s₂ : State := { s₁ with regs := countMcheck s₁.regs core sub }
        if s₁.regs.mcmsg = 0 then s₂ else s₂.send (.hostWrite s₁.regs.mcmsg v 8) := by
  simp only [State.reportMcheck, hc]
  exact ⟨_, stored_storeHomeBytesBy s (some core) (c.window.toNat + mcRecordOff) _ false, _, rfl⟩

theorem reportMcheck_regs {s : State} {core : Nat} {c : Core} (hc : s.core? core = some c) (sub : Byte) (tidx : Nat)
    (w1 w2 : DWord) (handle lid : Word) :
    (s.reportMcheck core sub tidx w1 w2 handle lid).regs = countMcheck s.regs core sub := by
  obtain ⟨s₁, hs, v, heq⟩ := reportMcheck_eq hc sub tidx w1 w2 handle lid
  rw [heq, ← hs.regs]
  dsimp only
  split <;> rfl

/-- Where MCMSG names an address, a machine check is announced there. -/
theorem reportMcheck_announced {s : State} {core : Nat} {c : Core} (hc : s.core? core = some c) (sub : Byte) (tidx : Nat)
    (w1 w2 : DWord) (handle lid : Word) (hmsg : s.regs.mcmsg ≠ 0) :
    ∃ v, (s.reportMcheck core sub tidx w1 w2 handle lid).outbox.getLast? = some (.hostWrite s.regs.mcmsg v 8) := by
  obtain ⟨s₁, hs, v, heq⟩ := reportMcheck_eq hc sub tidx w1 w2 handle lid
  rw [hs.regs] at heq
  refine ⟨v, ?_⟩
  rw [heq, if_neg hmsg, send_outbox, List.getLast?_concat]

/-- A machine check leaves the tasks of the cores. -/
theorem reportMcheck_holds (s : State) (core : Nat) (sub : Byte) (tidx : Nat) (w1 w2 : DWord) (handle lid : Word) (n : Nat) :
    ((s.reportMcheck core sub tidx w1 w2 handle lid).core? n).map Core.holds = (s.core? n).map Core.holds := by
  cases hc : s.core? core with
  | none => simp only [State.reportMcheck, hc]
  | some c =>
    obtain ⟨s₁, hs, v, heq⟩ := reportMcheck_eq hc sub tidx w1 w2 handle lid
    rw [← hs.core? n, heq]
    dsimp only
    split <;> rfl

/-! ## A core that halts (R319) -/

theorem length_serveParked (s : State) (d : Nat) (ps : List Parked) : (s.serveParked d ps).cores.length = s.cores.length := by
  induction ps generalizing s with
  | nil => rfl
  | cons p ps ih =>
    rw [State.serveParked]
    split
    · rw [ih]
      exact List.length_modify ..
    · rfl

theorem length_wakeDest (s : State) (d : Nat) : (s.wakeDest d).cores.length = s.cores.length := by
  have hparked : (if (s.dest d).held || (s.dest d).unreach then s else s.serveParked d (s.dest d).parked).cores.length =
      s.cores.length := by
    split
    · rfl
    · exact length_serveParked ..
  exact (List.length_map _).trans hparked

theorem length_dropReserved (s : State) (r : ThreadRef) : (s.dropReserved r).cores.length = s.cores.length := by
  unfold State.dropReserved
  split
  · rfl
  · exact (length_wakeDest ..).trans (List.length_modify ..)

/-- A fold of steps that keep the number of cores keeps it. -/
theorem length_foldl {α : Type} {f : State → α → State} (hf : ∀ (s : State) (x : α), (f s x).cores.length = s.cores.length)
    (l : List α) (s : State) : (l.foldl f s).cores.length = s.cores.length :=
  List.foldlRecOn (motive := fun s' => s'.cores.length = s.cores.length) l f rfl fun s' hs x _ => (hf s' x).trans hs

theorem length_leaveSprue (s : State) (n : Nat) : (s.leaveSprue n).cores.length = s.cores.length :=
  (length_foldl length_wakeDest ..).trans (length_foldl length_dropReserved ..)

theorem core?_passRunners (s : State) (n m : Nat) : (s.passRunners n).core? m = s.core? m := rfl

/-- A core taken out has left service without a task. -/
theorem takeOut_holds {s : State} {core : Nat} {c : Core} (hc : s.core? core = some c) :
    ((s.takeOut core).core? core).map Core.holds = some (.out, []) := by
  have hlt : core < (s.leaveSprue core).cores.length :=
    (length_leaveSprue s core).symm ▸ (List.getElem?_eq_some_iff.mp hc).1
  obtain ⟨c', hc'⟩ : ∃ c', (s.leaveSprue core).core? core = some c' := ⟨_, List.getElem?_eq_getElem hlt⟩
  rw [State.takeOut, core?_modCore_self, core?_passRunners, hc']
  rfl

theorem healthEvent_cores (s : State) (kind arg : Nat) : (s.healthEvent kind arg).cores = s.cores := by
  unfold State.healthEvent
  split
  · dsimp only
    split <;> rfl
  · rfl

theorem replaceRequested_cores (s : State) : s.replaceRequested.cores = s.cores := by
  unfold State.replaceRequested
  split
  · rfl
  · exact healthEvent_cores ..

theorem haltCore_holds {s : State} {core : Nat} {c : Core} (hc : s.core? core = some c) (sub : Byte) (tidx : Nat)
    (w1 w2 : DWord) : ((s.haltCore core sub tidx w1 w2).core? core).map Core.holds = some (.out, []) := by
  rw [← takeOut_holds hc, ← reportMcheck_holds (s.takeOut core) core sub tidx w1 w2 0 0 core, State.haltCore, State.core?,
    replaceRequested_cores]
  rfl

end State

section
variable {s : State} {core n : Nat} {c : Core} (hc : s.core? core = some c)
include hc

/-- A core out of service has no machine check. -/
theorem exec_machineCheck_out (hout : c.inService = false) (sub : Byte) (w1 w2 : DWord) :
    exec (.machineCheck core sub w1 w2) s = .next s := by
  simp only [exec, execMachineCheck, hc, hout, Bool.not_false, if_true]

variable (hin : c.inService = true) (w1 w2 : DWord)
include hin

theorem exec_machineCheck_parity :
    exec (.machineCheck core 0x02 w1 w2) s = .next (s.raiseMcheck core 0x02 0 w1 w2 0 0) := by
  simp only [exec, execMachineCheck, hc, hin, Bool.not_true, Bool.false_eq_true, if_false]
  rfl

theorem exec_machineCheck_data : exec (.machineCheck core 0x03 w1 w2) s =
    .next (State.dataCheck { s with free := s.free + 1 } core w2 (Config.usesLost s.free)) := by
  simp only [exec, execMachineCheck, hc, hin, Bool.not_true, Bool.false_eq_true, if_false]
  rfl

theorem exec_machineCheck_halt : exec (.machineCheck core 0xFF w1 w2) s = .next (s.haltCore core 0xFF 0 w1 w2) := by
  simp only [exec, execMachineCheck, hc, hin, Bool.not_true, Bool.false_eq_true, if_false]
  rfl

variable (hat : s.casterAt? core w1 = some n)
include hat

/-- A trap of a Caster thread, by the thread that stands at the PC. -/
theorem exec_machineCheck_trap : exec (.machineCheck core 0x01 w1 w2) s =
    .next (s.casterTrap core n { kind := .other (w2.extractLsb' 0 8), sub := w2.extractLsb' 8 8 }) := by
  simp only [exec, execMachineCheck, hc, hin, hat, Bool.not_true, Bool.false_eq_true, if_false]
  rfl

/-- A trap of the thread that serves CAUSE 5 halts the core. -/
theorem exec_machineCheck_nested (h5 : (c.casters[n]?.map Caster.cause) = some 5) :
    exec (.machineCheck core 0x04 w1 w2) s = .next (s.haltCore core 0x04 n w1 w2) := by
  have hfive : ((c.casters[n]?.map Caster.cause) == some 5) = true := beq_iff_eq.mpr h5
  simp only [exec, execMachineCheck, hc, hin, hat, hfive, Bool.not_true, Bool.false_eq_true, if_false, if_true]
  rfl

end

theorem machineChecks : Claim.MachineChecks := by
  intro s core c hc
  refine ⟨fun hout => exec_machineCheck_out hc hout, fun w1 w2 hin => ⟨exec_machineCheck_parity hc hin w1 w2,
    exec_machineCheck_data hc hin w1 w2, exec_machineCheck_halt hc hin w1 w2, fun n hat =>
      ⟨exec_machineCheck_trap hc hin w1 w2 hat, exec_machineCheck_nested hc hin w1 w2 hat⟩⟩, ?_, ?_, rfl⟩
  · intro sub n w1 w2 handle lid s'
    have hregs : s'.regs = State.countMcheck s.regs core sub := State.reportMcheck_regs hc sub n w1 w2 handle lid
    rw [hregs]
    exact ⟨rfl, rfl, rfl, rfl, rfl, State.reportMcheck_announced hc sub n w1 w2 handle lid⟩
  · intro sub n w1 w2
    obtain ⟨c', hc', hholds⟩ := Option.map_eq_some_iff.mp (State.haltCore_holds hc sub n w1 w2)
    obtain ⟨hout, hnone⟩ := Prod.mk.inj hholds
    rw [hc', Option.any_some, hout, hnone]
    rfl

/-- Settles O37: the start that is due is made alone, with its cluster or for a machine check; a machine check is a store and a
count, and a core that halts keeps no task. Rests on log entries 61, 75 and 128. -/
theorem castersAndMachineChecks : Obligations.CastersAndMachineChecks :=
  ⟨casterStarts, machineChecks⟩

end Sys2Proof.Machine
end

section
/-!
PROOFS. Results of cross-lane instructions (spec/14_progress_isa.md R259 to R265): what each form gives an active participant,
by the position its source names, by the votes, and by the reduction of the terms of its participants.
-/

namespace Sys2Proof.Machine

/-! ## Source positions (R259) -/

/-- What `shfl` gives where its source position is `p`. -/
theorem xresult_shfl (x : Arrival) {pos w grant p : Nat} (act : List (Nat × Arrival)) (g : Guard) {mode : ShflMode} (ty : Ty)
    (d : Reg) (a : Src) (b : SrcB) (hp : shflSource mode pos x.b.toNat = p) :
    xresult { x with instr := .shfl g mode ty d a b } pos w grant act =
      let y := (if p < w then lookup act p else none).getD x
      .value (maskTy ty y.a) (y.apois.zeroExtend 4) := by
  have hfrom : (if 0 ≤ (p : Int) && (p : Int) < w then lookup act (p : Int).toNat else none) =
      if p < w then lookup act p else none := by simp
  simp only [xresult, hp, hfrom]
  cases (if p < w then lookup act p else none) <;> rfl

/-- The position each mode of `shfl` names, where it is not below the segment. -/
theorem shflSource_eq {pos b p : Nat} :
    (b = p → shflSource .idx pos b = p) ∧ (pos = p + b → shflSource .up pos b = p) ∧
    (p = pos + b → shflSource .down pos b = p) ∧ (p = pos ^^^ b → shflSource .xor pos b = p) := by
  simp only [shflSource]
  refine ⟨fun h => ?_, fun h => ?_, fun h => ?_, fun h => ?_⟩ <;> omega

/-- `shfl.up` from below the segment gives the own value. -/
theorem xresult_shfl_below (x : Arrival) {pos w grant : Nat} (act : List (Nat × Arrival)) (g : Guard) (ty : Ty)
    (d : Reg) (a : Src) (b : SrcB) (h : pos < x.b.toNat) :
    xresult { x with instr := .shfl g .up ty d a b } pos w grant act = .value (maskTy ty x.a) (x.apois.zeroExtend 4) := by
  have hneg : (0 ≤ (pos - x.b.toNat : Int)) = False := by simp [h]
  simp only [xresult, shflSource, hneg, decide_false, Bool.false_and, Bool.false_eq_true, if_false]
  rfl

/-! ## Ballots (R260) -/

/-- The bits of a ballot over positions that rise: those of the votes, above the bits already there. -/
theorem ballot_bits (lo : Nat) : ∀ (l : List (Nat × Arrival)) (n k : Nat), k ≤ 32 → n < 2 ^ k →
    (l.map Prod.fst).Pairwise (· < ·) → (∀ y ∈ l, lo + k ≤ y.1 ∧ y.1 < lo + 32) →
    let v := l.foldl (fun n x => n + boolBit x.2.q (x.1 - lo)) n
    v < 2 ^ 32 ∧ ∀ i, v.testBit i = true ↔ n.testBit i = true ∨ ∃ y, (lo + i, y) ∈ l ∧ y.q = true
  | [], n, k, hk, hn, _, _ => ⟨Nat.lt_of_lt_of_le hn (Nat.pow_le_pow_right (by decide) hk), fun i => by simp⟩
  | (p, y) :: l, n, k, hk, hn, hrise, hin => by
    obtain ⟨hfirst, hrest⟩ := List.pairwise_cons.mp hrise
    obtain ⟨hkp, hp⟩ := hin _ (List.mem_cons_self ..)
    have hnp : n < 2 ^ (p - lo) := Nat.lt_of_lt_of_le hn (Nat.pow_le_pow_right (by decide) (by omega))
    have hbit (i : Nat) : (n + boolBit y.q (p - lo)).testBit i = true ↔
        n.testBit i = true ∨ (lo + i = p ∧ y.q = true) := by
      have hval : n + boolBit y.q (p - lo) = 2 ^ (p - lo) * (2 * 0 + y.q.toNat) + n := by
        cases y.q <;> simp [boolBit, Nat.add_comm]
      rw [hval, testBit_parts _ _ hnp]
      rcases Nat.lt_trichotomy i (p - lo) with hlt | heq | hgt
      · simp [hlt, Nat.ne_of_lt hlt, show lo + i ≠ p by omega]
      · subst heq
        simp [Nat.testBit_lt_two_pow hnp, show lo + (p - lo) = p by omega]
      · have hbig : n < 2 ^ i := Nat.lt_of_lt_of_le hnp (Nat.pow_le_pow_right (by decide) hgt.le)
        simp [Nat.ne_of_gt hgt, Nat.not_lt_of_gt hgt, Nat.testBit_lt_two_pow hbig, show lo + i ≠ p by omega]
    have hlt : n + boolBit y.q (p - lo) < 2 ^ (p - lo + 1) := by
      have : boolBit y.q (p - lo) ≤ 2 ^ (p - lo) := boolBit_le _ _
      rw [Nat.pow_succ]
      omega
    obtain ⟨hv, hbits⟩ := ballot_bits lo l _ (p - lo + 1) (by omega) hlt hrest fun z hz => by
      have := hfirst z.1 (List.mem_map_of_mem hz)
      have := (hin z (List.mem_cons_of_mem _ hz)).2
      omega
    refine ⟨hv, fun i => ?_⟩
    rw [List.foldl_cons, hbits i, hbit i, or_assoc]
    refine or_congr_right ⟨?_, ?_⟩
    · rintro (⟨rfl, hq⟩ | ⟨z, hz, hq⟩)
      · exact ⟨y, List.mem_cons_self .., hq⟩
      · exact ⟨z, List.mem_cons_of_mem _ hz, hq⟩
    · rintro ⟨z, hz, hq⟩
      rcases List.mem_cons.mp hz with heq | hz
      · obtain ⟨rfl, rfl⟩ := Prod.mk.inj heq
        exact .inl ⟨rfl, hq⟩
      · exact .inr ⟨z, hz, hq⟩

theorem xresult_voteBallot (x : Arrival) (pos w grant : Nat) {act : List (Nat × Arrival)} (g : Guard) (d : Reg) (qa : PredReg)
    (k : BitVec 2) (hrise : (act.map Prod.fst).Pairwise (· < ·)) :
    ∃ v, xresult { x with instr := .voteBallot g d qa k } pos w grant act = .value v 0 ∧ v < 2 ^ 32 ∧
      ∀ i < 32, v.testBit i = true ↔ ∃ y, (32 * k.toNat + i, y) ∈ act ∧ y.q = true := by
  let here := act.filter fun x => 32 * k.toNat ≤ x.1 && x.1 < 32 * k.toNat + 32
  have hrise' : (here.map Prod.fst).Pairwise (· < ·) := hrise.sublist (List.Sublist.map _ List.filter_sublist)
  obtain ⟨hv, hbits⟩ := ballot_bits (32 * k.toNat) here 0 0 (by decide) (by decide) hrise' fun y hy => by
    simpa using (List.mem_filter.mp hy).2
  refine ⟨_, rfl, hv, fun i hi => ?_⟩
  rw [hbits i]
  simp [here, List.mem_filter, hi]

/-! ## Reductions (R261 to R263) -/

theorem testBit_foldl_and (i : Nat) (l : List Nat) (a : Nat) :
    (l.foldl (· &&& ·) a).testBit i = (a.testBit i && l.all fun x => x.testBit i) := by
  induction l generalizing a with
  | nil => simp
  | cons x l ih => simp [ih, Bool.and_assoc]

theorem testBit_foldl_or (i : Nat) (l : List Nat) (a : Nat) :
    (l.foldl (· ||| ·) a).testBit i = (a.testBit i || l.any fun x => x.testBit i) := by
  induction l generalizing a with
  | nil => simp
  | cons x l ih => simp [ih, Bool.or_assoc]

theorem testBit_foldl_xor (i : Nat) (l : List Nat) (a : Nat) :
    (l.foldl (· ^^^ ·) a).testBit i = (a.testBit i ^^ (l.countP fun x => x.testBit i) % 2 == 1) := by
  induction l generalizing a with
  | nil => simp
  | cons x l ih =>
    rw [List.foldl_cons, ih, Nat.testBit_xor, List.countP_cons, Bool.xor_assoc]
    congr 1
    rcases Nat.mod_two_eq_zero_or_one (l.countP fun x => x.testBit i) with h | h <;> cases x.testBit i <;>
      simp [h, Nat.add_mod]

theorem Ty.isFloat_of_isInt {ty : Ty} (h : ty.isInt = true) : ty.isFloat = false := by
  revert h
  cases ty <;> decide

/-- The reduction of integers: the sum, the least and the greatest term, and the limits of the type for no term. -/
theorem reduce_int {ty : Ty} (hint : ty.isInt = true) (m : Rm) (xs : List Nat) :
    reduce .add ty m xs = .value (placeInt ty (xs.map (readInt ty)).sum) 0 ∧
    (∀ n ∈ xs.map (readInt ty), (∀ v ∈ xs.map (readInt ty), n ≤ v) → reduce .min ty m xs = .value (placeInt ty n) 0) ∧
    (∀ n ∈ xs.map (readInt ty), (∀ v ∈ xs.map (readInt ty), v ≤ n) → reduce .max ty m xs = .value (placeInt ty n) 0) := by
  have hfloat := Ty.isFloat_of_isInt hint
  have hrange : ∀ v ∈ xs.map (readInt ty), minI ty ≤ v ∧ v ≤ maxI ty := by
    simp only [List.mem_map]
    rintro _ ⟨x, _, rfl⟩
    exact readInt_mem_range ty x
  simp only [reduce, hfloat, Bool.false_eq_true, if_false, reduceInt]
  refine ⟨?_, fun n hn hle => ?_, fun n hn hle => ?_⟩
  · rw [List.sum_eq_foldl]
  · rw [foldl_min_eq hn hle (hrange n hn).2]
  · rw [foldl_max_eq hn hle (hrange n hn).1]

/-- The reduction of patterns of bits, bit by bit. -/
theorem reduce_bits {ty : Ty} (hfloat : ty.isFloat = false) (m : Rm) {op : RedOp} (hop : op = .and ∨ op = .or ∨ op = .xor)
    (xs : List Nat) : ∃ v, reduce op ty m xs = .value v 0 ∧ ∀ i < ty.width, v.testBit i = match op with
      | .and => xs.all fun x => x.testBit i
      | .or => xs.any fun x => x.testBit i
      | _ => (xs.countP fun x => x.testBit i) % 2 == 1 := by
  refine ⟨reduceInt op ty xs, by simp [reduce, hfloat], fun i hi => ?_⟩
  obtain rfl | rfl | rfl := hop
  · simp [reduceInt, testBit_foldl_and, Nat.testBit_two_pow_sub_one, hi]
  · simp [reduceInt, testBit_foldl_or]
  · simp [reduceInt, testBit_foldl_xor]

/-- The reduction of floats: the exact sum, and the encoding of the least and of the greatest term. -/
theorem reduce_float {ty : Ty} (hfloat : ty.isFloat = true) (m : Rm) (xs : List Nat) :
    (∃ fl, reduce .add ty m xs =
      .exact (exactSum (xs.map fun x => (ty.format.val (x % 2 ^ ty.format.width)).1) m).1 fl) ∧
    (∃ fl, reduce .max ty m xs =
      .exact (ty.format.val (reduceMinMax ty.format true (xs.map fun x => x % 2 ^ ty.format.width))).1 fl) ∧
    (∃ fl, reduce .min ty m xs =
      .exact (ty.format.val (reduceMinMax ty.format false (xs.map fun x => x % 2 ^ ty.format.width))).1 fl) := by
  simp only [reduce, hfloat, if_true, List.map_map]
  exact ⟨⟨_, rfl⟩, ⟨_, rfl⟩, ⟨_, rfl⟩⟩

/-- Settles O7: a form copies the value its source position names, counts or tests the active participants, or reduces their
terms. Rests on log entry 27. -/
theorem crossLaneResults : Obligations.CrossLaneResults := by
  intro x pos w grant act g ty d a res own terms
  refine ⟨fun y b p hy hp => ?_, fun b p hnone => ?_, fun b => xresult_shfl_below x act g ty d a b, fun qd qa => ?_,
    fun qa k => xresult_voteBallot x pos w grant g d qa k, fun op excl rm l r => ?_, fun y z hy hz => ?_,
    rfl, rfl, rfl, rfl, rfl, fun y hy => ?_⟩
  · obtain ⟨hidx, hup, hdown, hxor⟩ := shflSource_eq (pos := pos) (b := x.b.toNat) (p := p)
    have hgives {mode : ShflMode} (h : shflSource mode pos x.b.toNat = p) : res (.shfl g mode ty d a b) = own y := by
      refine (xresult_shfl x act g ty d a b h).trans ?_
      rw [if_pos hp, hy]
      rfl
    exact ⟨fun h => hgives (hidx h), fun h => hgives (hup h), fun h => hgives (hdown h), fun h => hgives (hxor h)⟩
  · obtain ⟨hidx, hup, hdown, hxor⟩ := shflSource_eq (pos := pos) (b := x.b.toNat) (p := p)
    have hgives {mode : ShflMode} (h : shflSource mode pos x.b.toNat = p) : res (.shfl g mode ty d a b) = own x := by
      refine (xresult_shfl x act g ty d a b h).trans ?_
      rw [ite_eq_right_iff.mpr hnone]
      rfl
    exact ⟨fun h => hgives (hidx h), fun h => hgives (hup h), fun h => hgives (hdown h), fun h => hgives (hxor h)⟩
  · simp [res, xresult]
  · intro bit vals hr
    have hterms : terms l = (l.map fun y => maskTy ty y.2.a).map (readInt ty) := by simp [terms]
    have hred : r = reduce op ty (arrivalRm x) (l.map fun y => maskTy ty y.2.a) := by
      obtain ⟨rfl, rfl⟩ | ⟨rfl, rfl⟩ := hr <;> rfl
    subst hred
    refine ⟨fun hint => ?_, fun hfloat hop => ?_, fun hfloat hop => ?_, fun hfloat hop => ?_, fun hfloat hop => ?_⟩
    · obtain ⟨hadd, hmin, hmax⟩ := reduce_int hint (arrivalRm x) (l.map fun y => maskTy ty y.2.a)
      rw [hterms]
      refine ⟨fun h => h ▸ hadd, fun h => h ▸ hmin, fun h => h ▸ hmax, fun h hl => ?_, fun h hl => ?_⟩ <;>
        simp [h, hl, reduce, Ty.isFloat_of_isInt hint, reduceInt]
    · obtain ⟨v, hv, hbits⟩ := reduce_bits hfloat (arrivalRm x) hop (l.map fun y => maskTy ty y.2.a)
      refine ⟨v, hv, fun i hi => (hbits i hi).trans ?_⟩
      obtain rfl | rfl | rfl := hop <;> simp [bit, List.countP_map, Function.comp_def]
    · obtain ⟨hadd, -, -⟩ := reduce_float hfloat (arrivalRm x) (l.map fun y => maskTy ty y.2.a)
      simpa [hop, vals, Function.comp_def] using hadd
    · obtain ⟨-, hmax, -⟩ := reduce_float hfloat (arrivalRm x) (l.map fun y => maskTy ty y.2.a)
      simpa [hop, Function.comp_def] using hmax
    · obtain ⟨-, -, hmin⟩ := reduce_float hfloat (arrivalRm x) (l.map fun y => maskTy ty y.2.a)
      simpa [hop, Function.comp_def] using hmin
  · simp [res, own, xresult, hy, hz]
  · exact congrArg (fun o : Option (Nat × Arrival) => XResult.value ((o.map Prod.fst).getD pos) 0) hy

end Sys2Proof.Machine
end

section
/-!
PROOFS. Barriers (spec/14_progress_isa.md R266, R267): `barinit` and `arrive` are one operation at the word's target, `barwait`
is a read of the word, and an arrival is arithmetic on its fields.
-/

namespace Sys2Proof.Machine

/-- An instruction past steps 7 and 8 of R42 ends as its own checks and effects say. -/
theorem issue_finishes {s : State} {t : Thread} {g : Guard} {srcs dsts qs} {body : Thread → Eff} {e : Eff}
    (h : Issues s t g srcs dsts qs) (hbody : body t = e) : issue s g srcs dsts qs body = .next (State.finish s.issuer e) := by
  rw [issue_eq body h, hbody]

/-! ## The instructions (R267) -/

section
variable {s s₁ : State} {t : Thread} {g : Guard} {scope : Scope} {m : MemRef} {b : Src} {target : Target}

/-- A barrier operation on a word of no peer: performed at once in the own scratchpad, else joined to its thread's work. -/
theorem issueBar_home (hhome : ∀ dev off, target ≠ .peer dev off) (r : ThreadRef) (va : DWord) (rel : Bool) (kind : PendKind)
    (d : Reg) (words : Nat) (o : BarOp) :
    issueBar s r va scope rel kind d words o target =
      let p := opPend s kind d words none va (some (target, .bar o)) false rel scope .b32 none
      .next (if ownScratch target then doOwn s r p else s.modThread r fun t => t.pending p) := by
  cases target with
  | peer dev off => exact absurd rfl (hhome dev off)
  | _ => rfl

variable (htarget : s.formTarget s.issuer t (barAccess m) = (.ok target, s₁))
include htarget

theorem exec_barinit (h : Clean s t g (baseSrc m ++ [(b, 1)]) [] []) (hmay : s₁.opMayIssue s.issuer t none = true) :
    exec (.barinit g scope m b) s = .next (State.finish s.issuer
      (issueBar s₁ s.issuer (formAddr t m) scope false .noReturn 0 0 (.init (t.reg b.reg).toNat) target)) := by
  refine issue_finishes h.issues ?_
  simp [htarget, h.firstPoison_right, hmay]

theorem exec_arrive {d : Reg} (h : Issues s t g (baseSrc m) [(d, 1)] [])
    (hmay : s₁.opMayIssue s.issuer t (some scope) = true) (hgoes : s₁.arriveHolds s.issuer target = false) :
    exec (.arrive g scope d m) s = .next (State.finish s.issuer
      (issueBar s₁ s.issuer (formAddr t m) scope true .atomic d 1 .arrive target)) := by
  refine issue_finishes h ?_
  simp [htarget, hmay, hgoes]

theorem exec_barwait {bs : List Byte} {s₂ : State} (h : Clean s t g (baseSrc m ++ [(b, 1)]) [] [])
    (hmay : s₁.opMayIssue s.issuer t none = true) (hfree : s₁.busy target = false) (hhome : ∀ dev off, target ≠ .peer dev off)
    (hread : s₁.opRead s.issuer.core true target 8 = (bs, false, s₂)) :
    exec (.barwait g scope m b) s =
      if (leNat bs).testBit 63 = (t.reg b.reg).getLsbD 0 then Parks s s₂ (.barrier target scope (formAddr t m))
      else Completes s (if wideScope scope then s₂.dropClean s.issuer.core else s₂) := by
  have hends : exec (.barwait g scope m b) s = .next (State.finish s.issuer
      (if (leNat bs).testBit 63 != (t.reg b.reg).getLsbD 0
        then .next (if wideScope scope then s₂.dropClean s.issuer.core else s₂)
        else .park s₂ (.barrier target scope (formAddr t m)))) := by
    refine issue_finishes h.issues ?_
    cases target with
    | peer dev off => exact absurd rfl (hhome dev off)
    | _ => simp [htarget, h.firstPoison_right, hmay, hfree, hread]
  rw [hends]
  by_cases hphase : (leNat bs).testBit 63 = (t.reg b.reg).getLsbD 0
  · rw [if_neg (by rw [bne_iff_ne]; exact not_not_intro hphase), if_pos hphase, Parks]
  · rw [if_pos (bne_iff_ne.mpr hphase), if_neg hphase, Completes]

end

theorem barrierInstructions : Claim.BarrierInstructions := by
  intro s s₁ t g scope m b target r va go htarget hhome
  refine ⟨fun h hmay => ?_, fun d h hmay hgoes => ?_, fun h hmay hfree => ?_⟩
  · rw [exec_barinit htarget h hmay, issueBar_home hhome]
    rfl
  · rw [exec_arrive htarget h hmay hgoes, issueBar_home hhome]
    rfl
  · intro x hclean
    have hread : s₁.opRead s.issuer.core true target 8 = (x.1, false, x.2.2) := by rw [← hclean]
    exact exec_barwait htarget h hmay hfree hhome hread

/-! ## An arrival at a word (R266, R267) -/

/-- A barrier word by its phase, its bits 62 to 56, EXPECT and the arrivals. -/
def barrierWord (phase : Bool) (rest expect n : Nat) : Nat :=
  (if phase then 2 ^ 63 else 0) + rest * 2 ^ 56 + expect * 2 ^ 28 + n

section
variable {rest expect n : Nat} (hn : n < 2 ^ 28) (hexpect : expect < 2 ^ 28)
include hn

theorem bits_barrierWord_arrivals (phase : Bool) : bits (barrierWord phase rest expect n) 0 28 = n := by
  rw [bits_zero, barrierWord]
  cases phase <;> simp only [if_true, if_false, Bool.false_eq_true] <;> omega

include hexpect

theorem bits_barrierWord_expect (phase : Bool) : bits (barrierWord phase rest expect n) 28 28 = expect := by
  rw [bits, barrierWord]
  cases phase <;> simp only [if_true, if_false, Bool.false_eq_true] <;> omega

theorem testBit_barrierWord_phase (hrest : rest < 2 ^ 7) (phase : Bool) :
    (barrierWord phase rest expect n).testBit 63 = phase := by
  rw [Nat.testBit_eq_decide_div_mod_eq, barrierWord]
  cases phase <;> simp only [if_true, if_false, Bool.false_eq_true, decide_eq_true_eq, decide_eq_false_iff_not] <;> omega

end

theorem arriveWord_eq {w expect n : Nat} {phase : Bool} (hn : bits w 0 28 = n) (hexpect : bits w 28 28 = expect)
    (hphase : w.testBit 63 = phase) : State.arriveWord w =
      if expect ≤ n + 1 then ((if phase then 0 else 2 ^ 63) + expect * 2 ^ 28, phase, true)
      else ((if phase then 2 ^ 63 else 0) + expect * 2 ^ 28 + (n + 1), phase, false) := by
  rw [State.arriveWord, hn, hexpect, hphase]

theorem barrierWord_rest_zero (phase : Bool) (expect n : Nat) :
    barrierWord phase 0 expect n = (if phase then 2 ^ 63 else 0) + expect * 2 ^ 28 + n := by
  rw [barrierWord, Nat.zero_mul]
  omega

theorem barrierWord_flip (phase : Bool) (expect : Nat) :
    barrierWord (!phase) 0 expect 0 = (if phase then 0 else 2 ^ 63) + expect * 2 ^ 28 := by
  rw [barrierWord_rest_zero]
  cases phase <;> simp

theorem arriveWord_barrierWord {phase : Bool} {rest expect n : Nat} (hn : n < 2 ^ 28) (hexpect : expect < 2 ^ 28)
    (hrest : rest < 2 ^ 7) : State.arriveWord (barrierWord phase rest expect n) =
      if expect ≤ n + 1 then (barrierWord (!phase) 0 expect 0, phase, true)
      else (barrierWord phase 0 expect (n + 1), phase, false) := by
  rw [barrierWord_flip, barrierWord_rest_zero]
  exact arriveWord_eq (bits_barrierWord_arrivals hn phase) (bits_barrierWord_expect hn hexpect phase)
    (testBit_barrierWord_phase hn hexpect hrest phase)

theorem barrierWordArrival : Claim.BarrierWordArrival :=
  fun _ _ _ _ hn hexpect hrest => arriveWord_barrierWord hn hexpect hrest

/-- Settles O15: each instruction is one operation or one read at its word's target, and an arrival counts in the word's fields.
Rests on log entry 86. -/
theorem barriers : Obligations.Barriers :=
  ⟨barrierInstructions, barrierWordArrival⟩

end Sys2Proof.Machine
end

section
/-!
PROOFS. Deques and waits on addresses (spec/14_progress_isa.md R268 to R270): a deque instruction is one operation joined to its
thread's work, its performance is what its descriptor's fields make of it, and a wait on an address is a read of its word, at the
instruction and again at each wake.
-/

namespace Sys2Proof.Machine

/-! ## The deque instructions (R268) -/

section
variable {s s₁ : State} {t : Thread} {g : Guard} {scope : Scope} {base : Src} {off : Word} {target : Target}
  {data : List (Src × Nat)} {dsts : List (Reg × Nat)} {qd : Option PredReg} {kind : PendKind} {acq rel : Bool}
  {f : Thread → Except Trap DqOp}
  (htarget : s.dequeTarget s.issuer t (lineRef base off) = (.ok target, s₁))
  (h : Issues s t g (baseSrc (lineRef base off) ++ data) dsts qd.toList) (hclean : firstPoison t data = none)
include htarget h hclean

/-- A deque instruction whose own checks fail traps. -/
theorem issueDeque_error {x : Trap} (hf : f t = .error x) :
    issueDeque s g scope base off data dsts qd kind acq rel f = .next (s₁.takeTrap s.issuer x) := by
  refine issue_finishes (e := .trap s₁ x) h ?_
  simp [htarget, hclean, hf]

/-- A deque instruction past its checks and waits joins its operation to its thread's work. -/
theorem issueDeque_ok {o : DqOp} (hf : f t = .ok o)
    (hmay : s₁.opMayIssue s.issuer t (if rel then some scope else none) = true) :
    issueDeque s g scope base off data dsts qd kind acq rel f =
      Completes s (s₁.modThread s.issuer fun th => th.pending (opPend s₁ kind (dsts.headD (0, 0)).1 (dsts.headD (0, 0)).2 qd
        (formAddr t (lineRef base off)) (some (target, .dq o (qd.getD 0) (s₁.accessor s.issuer))) acq rel scope .b64 none)) := by
  refine issue_completes h ?_
  simp [htarget, hclean, hf, hmay]

end

theorem dequeInstructions : Claim.DequeInstructions := by
  intro s s₁ t g scope base off target r m goes htarget
  refine ⟨fun b c h => ⟨fun hcap => ?_, fun hlo hhi hbuf => ?_, fun hlo hhi hbuf hmay => ?_⟩, fun hmay b qd h => ?_,
    fun hmay d qd h => ?_⟩
  · refine issueDeque_error (qd := none) htarget h.issues h.firstPoison_right (if_pos ?_)
    simpa only [Bool.or_eq_true, decide_eq_true_eq] using hcap
  · refine issueDeque_error (qd := none) htarget h.issues h.firstPoison_right ((if_neg ?_).trans (if_pos ?_))
    · simp only [Bool.or_eq_true, decide_eq_true_eq]
      omega
    · exact bne_iff_ne.mpr hbuf
  · refine issueDeque_ok (qd := none) (rel := true) htarget h.issues h.firstPoison_right ((if_neg ?_).trans (if_neg ?_)) hmay
    · simp only [Bool.or_eq_true, decide_eq_true_eq]
      omega
    · rw [bne_iff_ne]
      exact not_not_intro hbuf
  · exact issueDeque_ok (qd := some qd) (rel := true) (f := fun t => .ok (.push (t.reg64 b.reg))) htarget h.issues
      h.firstPoison_right rfl hmay
  · have hi : Issues s t g (baseSrc (lineRef base off) ++ []) [(d, 2)] [qd] := by rwa [List.append_nil]
    exact ⟨issueDeque_ok (qd := some qd) (rel := false) (f := fun _ => .ok .pop) htarget hi rfl rfl hmay,
      issueDeque_ok (qd := some qd) (rel := false) (f := fun _ => .ok .steal) htarget hi rfl rfl hmay⟩

/-! ## A deque operation performed (R269) -/

/-- The oldest operation of a thread, where it is one of a deque in a page that is not busy. -/
theorem State.performOp_deque {s : State} {r : ThreadRef} {t : Thread} {p : Pend} {k pa : Nat} {o : DqOp} {q : PredReg}
    {a : Accessor} (ht : s.thread? r = some t) (holdest : (t.pend.zipIdx.find? fun (p, _) => p.op.isSome) = some (p, k))
    (hop : p.op = some (.mem pa, .dq o q a)) (hfree : s.pageBusy pa = false) : s.performOp r = s.performDeque r p pa := by
  have hbusy : s.busy (.mem pa) = false := hfree
  simp only [State.performOp, ht, Option.bind_some, holdest, hop, hbusy]
  rfl

/-- A deque operation of one lane that is done answers, with the acquire of one that took or put an entry. -/
theorem State.performDeque_done {s s₁ : State} {r : ThreadRef} {p : Pend} {k pa v : Nat} {o : DqOp} {q : PredReg} {a : Accessor}
    {b pois : Bool} (hop : p.op = some (.mem pa, .dq o q a)) (hlanes : s.lanesOf r p = [(r, k, p)])
    (hstep : s.dequeStep a pa p.va o = (.done v b pois, s₁)) :
    s.performDeque r p pa =
      let s₂ := s₁.answerPend r k p v (if pois then 0x3 else 0) (some b)
      if b then s₂.opAcquire r p else s₂ := by
  simp only [State.performDeque, hlanes, List.foldl_cons, List.foldl_nil, State.dequeLane, hop, hstep, Option.getD_some]

section
variable {s : State} {a : Accessor} {pa cap buf top bottom : Nat} {va : DWord} {bs : List Byte}

/-- The place of entry `n` of a deque. -/
def dequePlace (buf cap n : Nat) : DWord := BitVec.ofNat 64 (buf + 8 * (n % 2 ^ cap))

/-- An entry taken: read at its home, and the descriptor's word written. -/
theorem State.dequeTake_ok {s s₂ : State} {e off new : Nat} {desc va : DWord}
    (hentry : s.dequeEntry a desc va .read = (.ok e, s₂)) :
    s.dequeTake a pa off new desc va =
      let s₃ := s₂.homeReady (some a.core) (lineOf e)
      let x := s₃.readHomeBytes e 8
      (.done (leNat x.1) true x.2, s₃.storeHomeBy (some a.core) (pa + off) (leBytes 4 new) 0) := by
  simp only [State.dequeTake, hentry]

variable (hread : (s.homeReady (some a.core) pa).readHome pa 64 = (bs, false))
  (hdeque : State.dequeOf? bs = some (cap, buf, top, bottom))
include hread hdeque

theorem State.dequeStep_push (x : DWord) : s.dequeStep a pa va (.push x) =
    if (bottom + 2 ^ 32 - top) % 2 ^ 32 = 2 ^ cap then (.done 0 false false, s.homeReady (some a.core) pa)
    else match (s.homeReady (some a.core) pa).dequeEntry a va (dequePlace buf cap bottom) .write with
      | (.error e, s) => (e, s)
      | (.ok e, s) =>
        (.done 0 true false, (s.storeHomeBytesBy (some a.core) e (leBytes 8 x.toNat) false).storeHomeBy (some a.core)
          (pa + 24) (leBytes 4 ((bottom + 1) % 2 ^ 32)) 0) := by
  simp only [State.dequeStep, hread, hdeque, Bool.false_eq_true, if_false]
  rfl

theorem State.dequeStep_pop : s.dequeStep a pa va .pop =
    if bottom = top then (.done 0 false false, s.homeReady (some a.core) pa)
    else (s.homeReady (some a.core) pa).dequeTake a pa 24 ((bottom + 2 ^ 32 - 1) % 2 ^ 32) va
      (dequePlace buf cap ((bottom + 2 ^ 32 - 1) % 2 ^ 32)) := by
  simp only [State.dequeStep, hread, hdeque, Bool.false_eq_true, if_false]
  rfl

theorem State.dequeStep_steal : s.dequeStep a pa va .steal =
    if bottom = top then (.done 0 false false, s.homeReady (some a.core) pa)
    else (s.homeReady (some a.core) pa).dequeTake a pa 16 ((top + 1) % 2 ^ 32) va (dequePlace buf cap top) := by
  simp only [State.dequeStep, hread, hdeque, Bool.false_eq_true, if_false]
  rfl

end

theorem dequesArePerformed : Claim.DequesArePerformed := by
  refine ⟨fun s s₁ r t p k pa v o q a b pois hrun ht holdest hop hfree hlanes hstep => ?_,
    fun s s₂ a pa va bs cap buf top bottom e => ?_⟩
  · rw [exec, execAtomicAtHome, State.ifRuns_eq hrun, State.performOp_deque ht holdest hop hfree,
      State.performDeque_done hop hlanes hstep]
  · intro core s₁ at_ taken hread hdeque
    refine ⟨fun x hfull => ?_, fun x hroom hentry => ?_, fun hempty => ⟨?_, ?_⟩, fun hsome hentry => ?_, fun hsome hentry => ?_⟩
    · rw [State.dequeStep_push hread hdeque, if_pos hfull]
    · rw [State.dequeStep_push hread hdeque, if_neg hroom, show (s.homeReady (some a.core) pa).dequeEntry a va
        (dequePlace buf cap bottom) .write = (.ok e, s₂) from hentry]
    · rw [State.dequeStep_pop hread hdeque, if_pos hempty]
    · rw [State.dequeStep_steal hread hdeque, if_pos hempty]
    · rw [State.dequeStep_pop hread hdeque, if_neg hsome]
      exact State.dequeTake_ok hentry
    · rw [State.dequeStep_steal hread hdeque, if_neg hsome]
      exact State.dequeTake_ok hentry

/-! ## Waits on addresses (R270) -/

/-- `waitaddr` at its first issue on a clean word at hand: it waits where the word is the one expected. -/
theorem exec_waitaddr {s s₁ s₂ : State} {t : Thread} {g : Guard} {acq : Bool} {scope : Scope} {size : Size} {d : Reg}
    {m : MemRef} {b c : Src} {target : Target} {x : Nat}
    (h : Clean s t g (baseSrc m ++ [(b, sizeWords size), (c, 1)]) [(d, 1)] []) (hfirst : t.woken ≠ some t.pc)
    (htarget : s.formTarget s.issuer t { m, size := sizeBytes size, watch := .rd, kind := .read, atom := true } =
      (.ok target, s₁))
    (hwaits : State.accessWaits t = false) (hread : s₁.waitRead s.issuer target size = (some (x, false), s₂)) :
    exec (.waitaddr g size acq scope d m b c) s =
      let w : AddrWait := { target, va := formAddr t m, size, acq, scope, dst := d
                            expected := BitVec.ofNat 64 (t.regsNat b.reg (sizeWords size)), timeout := t.reg c.reg, asked := none }
      .next (State.finish s.issuer (if x = w.expected.toNat then .park s₂ (.waitaddr w)
        else let s₃ := s₂.modThread s.issuer fun t => t.setReg d 0
          .next (if acq && wideScope scope then s₃.dropClean s.issuer.core else s₃))) := by
  have hnew : (t.woken == some t.pc) = false := beq_eq_false_iff_ne.mpr hfirst
  refine issue_finishes h.issues ?_
  simp only [htarget, h.firstPoison_right, hwaits, hread, hnew, Bool.false_eq_true, if_false]

theorem waitaddrCompletes : Claim.WaitaddrCompletes := by
  intro s s₁ s₂ t g acq scope size d m b c target x r n w h hfirst htarget hwaits hread
  rw [exec_waitaddr h hfirst htarget hwaits hread]
  exact ⟨fun hne => congrArg (fun e => Host.Outcome.next (State.finish s.issuer e)) (if_neg hne),
    fun heq => congrArg (fun e => Host.Outcome.next (State.finish s.issuer e)) (if_pos heq)⟩

/-- A wake of a waiter whose word is at hand: the wait ends. -/
theorem State.wakeWait_eq {s s₁ s₂ : State} {t : Thread} {r : ThreadRef} {w v : AddrWait} {x : Nat} (ht : s.thread? r = some t)
    (hstate : t.state = .waitaddr w) (hasked : w.asked = none) (hword : s.retarget r w = (.ok v, s₁))
    (hread : s₁.waitRead r v.target v.size = (some (x, false), s₂)) (why : Nat) :
    s.wakeWait r why = (s₂.waitDone r v (if x = v.expected.toNat then why else 1)).countIssue r := by
  simp [State.wakeWait, ht, hstate, hasked, hword, hread, State.waitEnds]

theorem waitsOnAddressesEnd : Claim.WaitsOnAddressesEnd := by
  intro s s₁ s₂ t r w v x hrun ht hstate hasked hword hread done
  have hwake := State.wakeWait_eq ht hstate hasked hword hread
  refine ⟨?_, ?_, ?_⟩
  · rw [exec, execWaitaddrWake, State.ifRuns_eq hrun, hwake 3]
  · rw [exec, execSpuriousWake, State.ifRuns_eq hrun, hwake 3]
  · simp only [exec, execWaitaddrTimeout, State.ifRuns_eq hrun, ht, Option.map_some, hstate, hwake 2]
    rfl

/-- Settles O16: a deque instruction joins one operation to its thread's work, the operation is what its descriptor makes of it,
and a wait ends with the read of its word. -/
theorem dequesAndWaits : Obligations.DequesAndWaits :=
  ⟨dequeInstructions, dequesArePerformed, waitaddrCompletes, waitsOnAddressesEnd⟩

end Sys2Proof.Machine
end

section
/-!
PROOFS. Control flow and allowances (spec/14_progress_isa.md R249 to R253; spec/15_allowances.md R282, R283): a transfer is one
check of its target, a join, `yield` or `exit` is one update of the issuing thread, and an allowance instruction acts on the word
of its destination.
-/

namespace Sys2Proof.Machine

/-! ## Transfers (R249, R250) -/

/-- A transfer whose target passes R27. -/
theorem transfer_ok {s s₁ : State} {r : ThreadRef} {target : DWord} (hcheck : s.checkTarget r target = (.ok, s₁))
    (put : State → State) : transfer s r target put = .jump (put s₁) target := by
  simp only [transfer, hcheck]

/-- A transfer through a clean register pair whose target passes R27. -/
theorem transferReg_ok {s s₁ : State} {t : Thread} {a : Src} (hclean : firstPoison t [(a, 2)] = none)
    (hcheck : s.checkTarget s.issuer (t.reg64 a.reg) = (.ok, s₁)) (put : State → State) :
    transferReg s t a put = .jump (put s₁) (t.reg64 a.reg) := by
  simp only [transferReg, hclean, transfer_ok hcheck]

theorem transfersOfControl : Claim.TransfersOfControl := by
  intro s s₁ t g imm a link hissuer
  have hlink : putLink s.issuer t s₁ = link s₁ := by
    simp only [link, hissuer]
    rfl
  refine ⟨fun hcheck => ⟨fun h => ?_, fun h => ?_⟩, fun hcheck => ⟨fun h => ?_, fun h => ?_⟩, fun hcheck h => ?_⟩
  · exact issue_finishes h (transfer_ok hcheck id)
  · rw [← hlink]
    exact issue_finishes h (transfer_ok hcheck _)
  · exact issue_finishes h.issues (transferReg_ok h.clean hcheck id)
  · rw [← hlink]
    exact issue_finishes h.issues (transferReg_ok h.clean hcheck _)
  · exact issue_finishes h.issues (transferReg_ok (a := linkSrc) h.clean hcheck id)

/-! ## Joins, `yield` and `exit` (R251 to R253) -/

/-- `exit` of a thread with nothing outstanding ends the thread. -/
theorem exec_exit {s : State} {t : Thread} {g : Guard} {place tidx : Nat} (hwho : s.issuer.who = .user place tidx)
    (h : Issues s t g [] [] []) (hpend : t.pend = []) (hqueue : t.queue = []) (hpeer : s.peerOpen s.issuer = false)
    (hcopy : copyOpen s s.issuer = false) : exec (.exit g) s = Stays s (exitThread s s.issuer) := by
  have hwaits : exitWaits s s.issuer t = false := by simp [exitWaits, hpend, hqueue, hpeer]
  refine issue_finishes (e := .stay (exitThread s s.issuer)) h ?_
  simp [hwho, hwaits, hcopy]

theorem joinsYieldAndExit : Claim.JoinsYieldAndExit := by
  intro s t g r width waitAt
  refine ⟨fun h => ⟨issue_finishes h rfl, issue_finishes h rfl, issue_completes h rfl⟩, fun a base h => ?_,
    fun place tidx hwho h hpend hqueue hpeer hcopy => ?_⟩
  · refine issue_finishes (e := arriveJoin s s.issuer (.mask base.toNat (t.reg a.reg))) h.issues ?_
    simp only [h.clean]
  · have hkey : keyOf s.issuer.who = (place, tidx) := by rw [hwho, keyOf]
    rw [exec_exit hwho h hpend hqueue hpeer hcopy, exitThread, hkey]

/-- Settles O9: a transfer past the check of its target is a jump, and a join, `yield` and `exit` each end in one update. -/
theorem controlFlow : Obligations.ControlFlow :=
  ⟨transfersOfControl, joinsYieldAndExit⟩

/-! ## Allowances (R282, R283) -/

/-- An allowance instruction on a destination number up to 63 acts on its word. -/
theorem alwOp_eq {s : State} {t : Thread} {g : Guard} {rsp : Bool} {a : Src} {dsts : List (Reg × Nat)} {qs : List PredReg}
    (f : Nat → Word → Eff) (hdest : (t.reg a.reg).toNat ≤ 63) (h : Clean s t g [(a, 1)] dsts qs) :
    alwOp s g rsp a dsts qs f = .next (State.finish s.issuer
      (f (t.reg a.reg).toNat (s.allowanceWord (t.reg a.reg).toNat rsp))) := by
  refine issue_finishes h.issues ?_
  simp only [h.clean, if_neg (Nat.not_lt_of_le hdest)]

/-- Settles O17: each instruction is one action on the word of its destination. -/
theorem allowanceInstructions : Obligations.AllowanceInstructions := by
  intro s t g rsp a n dev w enough hdest
  have hgrants : State.wordGrants w n.toNat = enough := by rw [State.wordGrants, bits_zero]
  refine ⟨fun d h => ?_, fun qd h => ?_, fun h => ?_⟩
  · rw [exec, execAlw, alwOp_eq _ hdest h]
    rfl
  · rw [exec, execAlwq, alwOp_eq _ hdest h, ← hgrants]
    rfl
  have hends : exec (.alwwait g rsp a n) s = .next (State.finish s.issuer
      (if w.getLsbD 31 then .trap s { kind := .unreach, sub := BitVec.ofNat 8 dev }
        else if enough then .next s else .park s (.allowance dev 0 (some (rsp, n.toNat))))) := by
    rw [exec, execAlwwait, alwOp_eq _ hdest h, ← hgrants]
  rw [hends]
  refine ⟨fun henough => ?_, fun hreach hshort => ?_, fun hunreach => ?_⟩
  · have hreach : w.getLsbD 31 = false := by
      simp only [enough, Bool.and_eq_true, Bool.not_eq_true'] at henough
      obtain ⟨⟨hreach, -⟩, -⟩ := henough
      exact hreach
    simp only [hreach, henough, Bool.false_eq_true, if_true, if_false, Completes]
  · simp only [hreach, hshort, Bool.false_eq_true, if_false, Parks]
  · simp only [hunreach, if_true, Traps, State.finish]

end Sys2Proof.Machine
end

section
/-!
PROOFS. Control registers (spec/14_progress_isa.md R255, R256; spec/20_system_isa.md R314; spec/12_threads_groups.md R225):
`ctlrd` writes what `readCtl` finds, and `ctlwr` ends as `writeCtl` says, register by register.
-/

namespace Sys2Proof.Machine

section
variable {s : State} {t : Thread} {g : Guard} {creg : BitVec 12}

/-! ## Reads (R255, R256, R314, R384) -/

theorem exec_ctlrd_ok {d : Reg} {v : Nat} (h : Issues s t g [] [(d, ctlWords creg)] [])
    (hread : readCtl s s.issuer t creg.toNat = .ok v) :
    exec (.ctlrd g d creg) s = Writes s fun t => t.setRegs d (ctlWords creg) v 0 := by
  refine issue_completes h ?_
  simp only [hread]

theorem exec_ctlrd_error {d : Reg} {x : Trap} (h : Issues s t g [] [(d, ctlWords creg)] [])
    (hread : readCtl s s.issuer t creg.toNat = .error x) : exec (.ctlrd g d creg) s = Traps s x := by
  refine issue_finishes (e := .trap s x) h ?_
  simp only [hread]

variable {r : ThreadRef} {n : Nat}

/-- No user register has a number above 0x040. -/
theorem userReg_eq_none (hn : 0x041 ≤ n) : userReg s r t n = none := by
  simp only [userReg]
  split <;> (try omega)
  rfl

/-- No register of the system has a number above 0x80B. -/
theorem privReg_eq_none (core i : Nat) (hn : 0x80C ≤ n) : privReg s core i n = none := by
  simp only [privReg]
  split
  · rfl
  · split <;> (try omega)
    rfl

theorem readCtl_user (hn : n < 0x800) {v : Nat} (hv : userReg s r t n = some v) : readCtl s r t n = .ok v := by
  simp only [readCtl, hn, if_true, hv]

theorem readCtl_unlisted (hlo : 0x041 ≤ n) (hhi : n < 0x800) : readCtl s r t n = .error { kind := .illegal, sub := 0x09 } := by
  simp only [readCtl, hhi, if_true, userReg_eq_none hlo]

theorem readCtl_priv {place tidx : Nat} (hwho : r.who = .user place tidx) (hn : 0x800 ≤ n) :
    readCtl s r t n = .error privTrap := by
  simp only [readCtl, Nat.not_lt_of_le hn, if_false, hwho]

theorem readCtl_caster {i v : Nat} (hwho : r.who = .caster i) (hn : 0x800 ≤ n) (hv : privReg s r.core i n = some v) :
    readCtl s r t n = .ok v := by
  simp only [readCtl, Nat.not_lt_of_le hn, if_false, hwho, hv]

theorem readCtl_casterUnlisted {i : Nat} (hwho : r.who = .caster i) (hn : 0x80C ≤ n) :
    readCtl s r t n = .error { kind := .illegal, sub := 0x09 } := by
  have hlo : ¬ n < 0x800 := by omega
  simp only [readCtl, hlo, if_false, hwho, privReg_eq_none _ _ hn]

theorem controlRegistersRead : Claim.ControlRegistersRead := by
  intro s t g d creg r reads h
  have hgives {v : Nat} (hn : creg.toNat < 0x800) (hv : userReg s s.issuer t creg.toNat = some v) : reads v :=
    exec_ctlrd_ok h (readCtl_user hn hv)
  refine ⟨?_, ?_, ?_, ?_, ?_, fun place tidx k hwho hk hplace => ?_, fun place tidx hwho hn => ?_, fun hlo hhi => ?_,
    fun n c k hwho hc hk => ?_⟩
  iterate 5 exact fun hreg => by subst hreg; exact hgives (by decide) rfl
  · have htask : s.taskOf? s.issuer = some k := by simpa only [State.taskOf?, show s.issuer.who = _ from hwho] using hk
    have hkey : keyOf s.issuer.who = (place, tidx) := by rw [show s.issuer.who = _ from hwho, keyOf]
    have hgrant : s.groupGrant s.issuer.core place = k.grant := by
      rw [State.groupGrant, if_neg hplace, show s.task? s.issuer.core place = _ from hk]
      rfl
    refine ⟨?_, ?_, ?_, ?_, ?_, ?_, ?_, ?_, ?_, ?_, ?_, ?_, ?_⟩
    all_goals
      rintro rfl
      exact hgives (by decide) (by simp [userReg, hkey, hgrant, htask])
  · exact exec_ctlrd_error h (readCtl_priv hwho hn)
  · exact exec_ctlrd_error h (readCtl_unlisted hlo hhi)
  · have htask : s.taskOf? s.issuer = none := by simp only [State.taskOf?, show s.issuer.who = _ from hwho]
    have hkey : keyOf s.issuer.who = (casterPlace, n) := by rw [show s.issuer.who = _ from hwho, keyOf]
    have hgrant : s.groupGrant s.issuer.core casterPlace = 8 := if_pos rfl
    have hpriv {v : Nat} (hn : 0x800 ≤ creg.toNat) (hv : privReg s s.issuer.core n creg.toNat = some v) : reads v :=
      exec_ctlrd_ok h (readCtl_caster hwho hn hv)
    refine ⟨?_, ?_, ?_, ?_, ?_, fun hreg => ?_, fun hn => exec_ctlrd_error h (readCtl_casterUnlisted hwho hn), ?_, ?_, ?_, ?_,
      ?_, ?_, ?_, ?_, ?_, ?_, ?_, ?_⟩
    iterate 5 exact fun hreg => by subst hreg; exact hgives (by decide) (by simp [userReg, hkey, hgrant, htask])
    · simp only [List.mem_cons, List.not_mem_nil, or_false] at hreg
      obtain rfl | rfl | rfl | rfl | rfl | rfl | rfl | rfl := hreg <;> exact hgives (by decide) (by simp [userReg, htask])
    all_goals
      rintro rfl
      refine hpriv (by decide) ?_
      simp only [privReg, show s.core? s.issuer.core = _ from hc, hk]
      rfl

/-! ## Writes (R225, R255, R256, R314, R348, R384) -/

/-- A source that is checked for poison is one register. -/
theorem firstPoison_of_checked {a : Src} {p : Bool} (h : firstPoison t [(a, ctlWords creg)] = none) :
    (if creg == 0x001 || (creg == 0x003 && p) then firstPoison t [(a, 1)] else none) = none := by
  by_cases hcheck : creg = 0x001 ∨ creg = 0x003
  · have hwords : ctlWords creg = 1 := by
      obtain rfl | rfl := hcheck <;> rfl
    rw [hwords] at h
    rw [h, ite_self]
  · obtain ⟨h1, h3⟩ := not_or.mp hcheck
    rw [beq_false_of_ne h1, beq_false_of_ne h3]
    rfl

/-- `ctlwr` from a clean register. -/
theorem exec_ctlwr {a : Src} (h : Clean s t g [(a, ctlWords creg)] [] []) :
    exec (.ctlwr g creg a) s =
      .next (State.finish s.issuer (writeCtl s s.issuer creg.toNat (t.regsNat a.reg (ctlWords creg)))) := by
  refine issue_finishes h.issues ?_
  simp only [firstPoison_of_checked h.clean]

theorem exec_ctlwrImm {v : BitVec 20} (h : Issues s t g [] [] []) :
    exec (.ctlwrImm g creg v) s = .next (State.finish s.issuer (writeCtl s s.issuer creg.toNat v.toNat)) :=
  issue_finishes h rfl

section
variable {r : ThreadRef} {n : Nat} (v : Nat) (ht : s.thread? r = some t) (hallowed : n < 0x800 ∨ (keyOf r.who).1 = casterPlace)
  (hn : n ∉ [0x001, 0x003, 0x020, 0x021, 0x022, 0x023, 0x801, 0x802, 0x803, 0x804, 0x805, 0x806])
include ht hallowed hn

/-- A register that is read and is not among those `writeCtl` writes is only read. -/
theorem writeCtl_readOnly {x : Nat} (hread : readCtl s r t n = .ok x) :
    writeCtl s r n v = .trap s { kind := .illegal, sub := 0x0A } := by
  have hpriv : (decide (0x800 ≤ n) && !decide ((keyOf r.who).1 = casterPlace)) = false := by
    rcases hallowed with h | h <;> simp [h]
  simp only [List.mem_cons, not_or] at hn
  obtain ⟨h1, h3, h20, h21, h22, h23, h801, h802, h803, h804, h805, h806, -⟩ := hn
  simp only [writeCtl, hpriv, Bool.false_eq_true, if_false, ht, hread]

/-- A register that is not read raises at a write what it raises at a read. -/
theorem writeCtl_unread {x : Trap} (hread : readCtl s r t n = .error x) : writeCtl s r n v = .trap s x := by
  have hpriv : (decide (0x800 ≤ n) && !decide ((keyOf r.who).1 = casterPlace)) = false := by
    rcases hallowed with h | h <;> simp [h]
  simp only [List.mem_cons, not_or] at hn
  obtain ⟨h1, h3, h20, h21, h22, h23, h801, h802, h803, h804, h805, h806, -⟩ := hn
  simp only [writeCtl, hpriv, Bool.false_eq_true, if_false, ht, hread]

end

/-- A privileged register of a user thread raises PRIV. -/
theorem writeCtl_priv {r : ThreadRef} {n v : Nat} (hn : 0x800 ≤ n) (hplace : (keyOf r.who).1 ≠ casterPlace) :
    writeCtl s r n v = .trap s privTrap := by
  simp [writeCtl, hn, hplace]

/-- A register of a task written by a Caster thread raises ILLEGAL 0x0A. -/
theorem writeCtl_taskReg_caster {r : ThreadRef} {n v : Nat} (hplace : (keyOf r.who).1 = casterPlace)
    (hn : n ∈ [0x003, 0x020, 0x021, 0x022, 0x023]) : writeCtl s r n v = .trap s { kind := .illegal, sub := 0x0A } := by
  simp only [List.mem_cons, List.not_mem_nil, or_false] at hn
  obtain rfl | rfl | rfl | rfl | rfl := hn <;> simp [writeCtl, hplace]

/-- A register of the system that is only read, written by a Caster thread, raises ILLEGAL 0x0A. -/
theorem writeCtl_privReadOnly {r : ThreadRef} {n v i : Nat} {c : Core} (ht : s.thread? r = some t) (hwho : r.who = .caster i)
    (hc : s.core? r.core = some c) (hn : n ∈ [0x800, 0x807, 0x808, 0x809, 0x80A, 0x80B]) :
    writeCtl s r n v = .trap s { kind := .illegal, sub := 0x0A } := by
  have hplace : (keyOf r.who).1 = casterPlace := by rw [hwho, keyOf]
  simp only [List.mem_cons, List.not_mem_nil, or_false] at hn
  obtain rfl | rfl | rfl | rfl | rfl | rfl := hn <;>
    exact writeCtl_readOnly v ht (.inr hplace) (by decide) (readCtl_caster hwho (by decide) (by simp only [privReg, hc]; rfl))

theorem segwOk_iff (v : Nat) : segwOk v = true ↔ v ∈ [0, 8, 16, 32, 64, 128] := by
  rw [segwOk, List.contains_iff_mem]

/-- SEGW written by a thread of a task: a value it cannot hold, the value it has, and another one with no cross-lane arrival open. -/
theorem writeCtl_segw {r : ThreadRef} {v place tidx : Nat} (hwho : r.who = .user place tidx) (hplace : place ≠ casterPlace) :
    (v ∉ [0, 8, 16, 32, 64, 128] → writeCtl s r 0x003 v = .trap s { kind := .illegal, sub := 0x03 }) ∧
    ∀ k, s.task? r.core place = some k → v ∈ [0, 8, 16, 32, 64, 128] →
      (k.segw = v → writeCtl s r 0x003 v = .next s) ∧
      (k.segw ≠ v → k.insts = [] → writeCtl s r 0x003 v = .next ((s.modTask r.core place fun k => undoSegment k tidx).modTask
        r.core place fun k => { k with segw := v })) := by
  have hkey : keyOf r.who = (place, tidx) := by rw [hwho, keyOf]
  have hwrite : writeCtl s r 0x003 v = writeSegw s r v := by simp [writeCtl, hkey, hplace]
  rw [hwrite]
  refine ⟨fun hbad => ?_, fun k hk hgood => ?_⟩
  · rw [← segwOk_iff, Bool.not_eq_true] at hbad
    simp [writeSegw, hbad]
  · have hok := (segwOk_iff v).mpr hgood
    have htask : s.taskOf? r = some k := by simpa only [State.taskOf?, hwho] using hk
    refine ⟨fun hsame => ?_, fun hnew hinsts => ?_⟩
    · simp [writeSegw, hok, htask, hsame]
    · have hclosed : (undoSegment k tidx).insts = [] := by simp [undoSegment, hinsts]
      simp [writeSegw, hok, htask, hnew, hkey, hclosed]

end

theorem controlRegistersWritten : Claim.ControlRegistersWritten := by
  intro s s' t g creg a n v r both refused readOnly core task
  have hboth {e : Eff} (hwrite : s.thread? s.issuer = some t → writeCtl s s.issuer creg.toNat v = e) :
      both (.next (State.finish s.issuer e)) := by
    refine ⟨fun h hv => ?_, fun h hv => ?_⟩
    · rw [exec_ctlwr h, ← hv, hwrite h.issues.thread]
    · rw [exec_ctlwrImm h, ← hv, hwrite h.thread]
  have htraps {x : Trap} (hwrite : s.thread? s.issuer = some t → writeCtl s s.issuer creg.toNat v = .trap s x) :
      both (Traps s x) := hboth hwrite
  refine ⟨fun hreg => htraps fun ht => ?_, fun hlo hhi => htraps fun ht => ?_, fun place tidx hwho hplace => ?_,
    fun c k hwho hk => ?_, fun hreg => hboth fun _ => ?_⟩
  · simp only [readOnly, List.mem_cons, List.not_mem_nil, or_false] at hreg
    obtain rfl | rfl | rfl | rfl | rfl | rfl | rfl | rfl | rfl | rfl | rfl | rfl := hreg <;>
      exact writeCtl_readOnly v ht (.inl (by decide)) (by decide) rfl
  · exact writeCtl_unread v ht (.inl hhi) (by simp only [List.mem_cons, List.not_mem_nil, or_false]; omega) (readCtl_unlisted hlo hhi)
  · have hkey : keyOf s.issuer.who = (place, tidx) := by rw [show s.issuer.who = _ from hwho, keyOf]
    obtain ⟨hbad, hgood⟩ := writeCtl_segw (s := s) (v := v) hwho hplace
    refine ⟨fun hn => htraps fun _ => writeCtl_priv hn (by rwa [hkey]), fun hreg hv => htraps fun _ => ?_,
      fun k hk hreg hv hsame => hboth fun _ => ?_⟩
    · subst hreg
      exact hbad hv
    · subst hreg
      obtain ⟨hsameWidth, -⟩ := hgood k hk hv
      exact hsameWidth hsame
  · have hkey : (keyOf s.issuer.who).1 = casterPlace := by rw [show s.issuer.who = _ from hwho, keyOf]
    refine ⟨fun hreg => htraps fun ht => ?_, fun hn => htraps fun ht => ?_⟩
    · have hsplit : creg.toNat ∈ [0x003, 0x020, 0x021, 0x022, 0x023] ∨
          creg.toNat ∈ [0x800, 0x807, 0x808, 0x809, 0x80A, 0x80B] := by
        simp only [List.mem_cons, List.not_mem_nil, or_false] at hreg
        obtain rfl | rfl | rfl | rfl | rfl | rfl | rfl | rfl | rfl | rfl | rfl := hreg <;> decide
      rcases hsplit with htask | hpriv
      · exact writeCtl_taskReg_caster hkey htask
      · exact writeCtl_privReadOnly ht hwho hk hpriv
    · exact writeCtl_unread v ht (.inr hkey) (by simp only [List.mem_cons, List.not_mem_nil, or_false]; omega)
        (readCtl_casterUnlisted hwho hn)
  · obtain ⟨place, tidx, hwho, hplace, hreg⟩ | ⟨rfl, rfl⟩ | ⟨c, hwho, hreg⟩ := hreg
    · have hkey : keyOf s.issuer.who = (place, tidx) := by rw [show s.issuer.who = _ from hwho, keyOf]
      obtain ⟨rfl, rfl⟩ | ⟨rfl, rfl⟩ | ⟨rfl, rfl⟩ | ⟨rfl, rfl⟩ | ⟨rfl, hv, k, hk, hnew, hinsts, rfl⟩ := hreg
      iterate 4 · simp [writeCtl, hkey, hplace, task, r, wpMask]
      · obtain ⟨-, hgood⟩ := writeCtl_segw (s := s) (v := v) hwho hplace
        obtain ⟨-, hnewWidth⟩ := hgood k hk hv
        refine (hnewWidth hnew hinsts).trans ?_
        simp only [task, r, hkey]
    · rfl
    · have hkey : (keyOf s.issuer.who).1 = casterPlace := by rw [show s.issuer.who = _ from hwho, keyOf]
      obtain ⟨rfl, rfl⟩ | ⟨rfl, rfl⟩ | ⟨rfl, rfl⟩ | ⟨rfl, rfl⟩ | ⟨rfl, rfl⟩ | ⟨rfl, rfl⟩ := hreg <;>
        simp [writeCtl, hkey, core, r]

/-- Settles O10: a read is what `readCtl` finds at its number, and a write the update, the trap or nothing that `writeCtl` makes
of it. -/
theorem controlRegisters : Obligations.ControlRegisters :=
  ⟨controlRegistersRead, controlRegistersWritten⟩

end Sys2Proof.Machine
end

section
/-!
PROOFS. Flits and lanes (spec/15_allowances.md R279; spec/23_errors_degraded_checkpoint.md R352, R357, R362): what one event of
the link layer does to a lane, and how a flit stands in the sequence of its source and hash lane.
-/

namespace Sys2Proof.Machine

namespace State

/-! ## A lane counts as down (R362) -/

theorem laneKey_transmit (plane slot : Nat) : laneKey plane slot false = plane * 8 + slot := by
  rw [laneKey, if_neg Bool.false_ne_true, Nat.zero_add]

section
variable {s : State} {plane slot : Nat} {receive : Bool}

theorem fab_of_linksUp (hup : s.linksUp = true) : s.part.fab = true := by
  simp only [linksUp, Bool.and_eq_true] at hup
  obtain ⟨⟨⟨hfab, -⟩, -⟩, -⟩ := hup
  exact hfab

theorem laneOut_down (hdown : s.health.lanesDown.has (laneKey plane slot receive) = true) :
    s.laneOut plane slot receive = s := by
  simp [laneOut, hdown]

theorem laneOut_up (hfab : s.part.fab = true) (hplane : plane < 64) (hslot : slot < 8)
    (hup : s.health.lanesDown.has (laneKey plane slot receive) = false) :
    s.laneOut plane slot receive = if receive then s.rxDown plane slot else s.txDown plane slot := by
  simp [laneOut, hfab, Nat.not_le_of_lt hplane, Nat.not_le_of_lt hslot, hup]

end

/-! ## The sequence of a source and hash lane (R279) -/

section
variable {s : State} {src lane : Nat}

theorem laneSeq_dev_lane : (s.laneSeq src lane).dev = src ∧ (s.laneSeq src lane).lane = lane := by
  rw [laneSeq]
  cases hfind : s.seqs.find? fun e => e.dev == src && e.lane == lane with
  | none => exact ⟨rfl, rfl⟩
  | some e => simpa using List.find?_some hfind

/-- The sequence of a source and lane put is the one that is found. -/
theorem laneSeq_putSeq {e : LaneSeq} (hdev : e.dev = src) (hlane : e.lane = lane) : (s.putSeq e).laneSeq src lane = e := by
  simp [laneSeq, putSeq, hdev, hlane]

variable {seq : Nat} {x : FlitBody}

theorem takeFlit_old (hold : seq < (s.laneSeq src lane).next) : s.takeFlit src lane seq x = s := if_pos hold

/-- A flit with a new number, not below the next one, joins those held, and what is next is delivered. -/
theorem takeFlit_new (hseq : (s.laneSeq src lane).next ≤ seq) (hnew : ∀ h ∈ (s.laneSeq src lane).held, h.1 ≠ seq) :
    s.takeFlit src lane seq x =
      (s.putSeq { s.laneSeq src lane with held := (s.laneSeq src lane).held ++ [(seq, x)] }).deliverFlits src lane
        ((s.laneSeq src lane).held.length + 1) := by
  have hany : ((s.laneSeq src lane).held.any fun h => h.1 == seq) = false := by simpa using hnew
  simp [takeFlit, Nat.not_lt_of_le hseq, hany]

/-- No flit held has the next number: nothing is delivered. -/
theorem deliverFlits_none (hnone : ∀ h ∈ (s.laneSeq src lane).held, h.1 ≠ (s.laneSeq src lane).next) (n : Nat) :
    s.deliverFlits src lane n = s := by
  cases n with
  | zero => rfl
  | succ n =>
    have hfind : ((s.laneSeq src lane).held.find? fun h => h.1 == (s.laneSeq src lane).next) = none := by simpa using hnone
    simp [deliverFlits, hfind]

/-- The flit held with the next number is performed, unless what it reaches waits, and then those after it. -/
theorem deliverFlits_next {h : Nat × FlitBody} {n : Nat}
    (hfind : ((s.laneSeq src lane).held.find? fun h => h.1 == (s.laneSeq src lane).next) = some h)
    (hgoes : ((flitReach h.2).any fun y => s.serveWaits src y.1 y.2) = false) :
    s.deliverFlits src lane (n + 1) =
      ((s.putSeq { s.laneSeq src lane with
          next := (s.laneSeq src lane).next + 1, held := (s.laneSeq src lane).held.filter fun y => y.1 != h.1 }).performFlit
        src h.2).deliverFlits src lane n := by
  simp [deliverFlits, hfind, hgoes]

end

end State

theorem exec_flitReceive {s : State} {src lane : Nat} (seq : Nat) (payload : FlitBody) (hserves : s.servesPeer src = true)
    (hlane : lane < 8) : exec (.flitReceive src lane seq payload) s =
      let s₁ := if (s.laneSeq src lane).held.any fun h => h.1 == seq then s
        else { s with count := { s.count with received := bump s.count.received src } }
      .next (s₁.takeFlit src lane seq payload).settle := by
  simp [exec, execFlitReceive, hserves, Nat.not_le_of_lt hlane]

/-! ## The events of a lane (R352, R357, R362, R374) -/

/-- A resent flit counted, of its own resends and of those of its lane. -/
def State.countResend (s : State) (lane : Nat) : State :=
  { s with health := { s.health with resends := bump s.health.resends lane, lanes := bump s.health.lanes lane } }

section
variable {s : State} {plane slot : Nat}

theorem exec_flitResend_linksDown (hlinks : s.linksUp = false) : exec (.flitResend plane slot) s = .next s := by
  simp [exec, execFlitResend, hlinks]

theorem exec_laneDown_linksDown (hlinks : s.linksUp = false) (receive : Bool) :
    exec (.laneDown plane slot receive) s = .next s := by
  simp [exec, execLaneDown, hlinks]

theorem exec_laneDown (hlinks : s.linksUp = true) (receive : Bool) :
    exec (.laneDown plane slot receive) s = .next (s.laneOut plane slot receive).goDark.settle := by
  simp [exec, execLaneDown, hlinks]

theorem exec_flitResend_down (hdown : s.health.lanesDown.has (laneKey plane slot false) = true) :
    exec (.flitResend plane slot) s = .next s := by
  rw [State.laneKey_transmit] at hdown
  simp [exec, execFlitResend, hdown]

variable (hlinks : s.linksUp = true) (hplane : plane < 64) (hslot : slot < 8)
  (hup : s.health.lanesDown.has (laneKey plane slot false) = false)
include hlinks hplane hslot hup

/-- The failure after the 8th resend of a flit takes its lane out of service. -/
theorem exec_flitResend_failed (hresends : 8 ≤ countAt s.health.resends (plane * 8 + slot)) :
    exec (.flitResend plane slot) s = .next (State.txDown
      { s with health := { s.health with resends := eraseKey s.health.resends (plane * 8 + slot) } } plane slot).goDark.settle := by
  have hout := State.laneOut_up (s := { s with health := { s.health with
    resends := eraseKey s.health.resends (plane * 8 + slot) } }) (State.fab_of_linksUp hlinks) hplane hslot hup
  rw [if_neg Bool.false_ne_true] at hout
  rw [State.laneKey_transmit] at hup
  simp only [exec, execFlitResend, hlinks, Nat.not_le_of_lt hplane, Nat.not_le_of_lt hslot, hup, hresends, ← hout]
  rfl

/-- A flit sent again, and the lane out of service at the threshold of resent flits. -/
theorem exec_flitResend_again (hresends : countAt s.health.resends (plane * 8 + slot) < 8) :
    exec (.flitResend plane slot) s = .next
      (if State.reached (countAt (s.countResend (plane * 8 + slot)).health.lanes (plane * 8 + slot)) s.thresholds.optical
        then (((s.countResend (plane * 8 + slot)).send (.flitResent (plane * 8 + slot))).txDown plane slot).goDark.settle
        else (s.countResend (plane * 8 + slot)).send (.flitResent (plane * 8 + slot))) := by
  have hout := State.laneOut_up (s := (s.countResend (plane * 8 + slot)).send (.flitResent (plane * 8 + slot)))
    (State.fab_of_linksUp hlinks) hplane hslot hup
  rw [if_neg Bool.false_ne_true] at hout
  rw [State.laneKey_transmit] at hup
  simp only [exec, execFlitResend, hlinks, Nat.not_le_of_lt hplane, Nat.not_le_of_lt hslot, hup,
    Nat.not_le_of_lt hresends, ← hout]
  rfl

end

theorem flitsOfLanes : Claim.FlitsAndLanes := by
  intro s
  refine ⟨fun src lane seq payload hserves hlane => exec_flitReceive seq payload hserves hlane,
    fun plane slot hplane hslot => ⟨fun hlinks => ⟨exec_flitResend_linksDown hlinks, exec_laneDown_linksDown hlinks⟩,
      fun hlinks => ⟨exec_flitResend_down, fun hup => ⟨exec_flitResend_failed hlinks hplane hslot hup,
        exec_flitResend_again hlinks hplane hslot hup⟩, fun receive hdown => ?_, fun hup => ?_, fun hup => ?_⟩⟩⟩
  · rw [exec_laneDown hlinks, State.laneOut_down hdown]
  · rw [exec_laneDown hlinks, State.laneOut_up (State.fab_of_linksUp hlinks) hplane hslot hup, if_neg Bool.false_ne_true]
  · rw [exec_laneDown hlinks, State.laneOut_up (State.fab_of_linksUp hlinks) hplane hslot hup, if_pos rfl]

theorem flitOrder : Claim.FlitOrder := by
  intro s src lane seq x e
  obtain ⟨hdev, hlane⟩ := State.laneSeq_dev_lane (s := s) (src := src) (lane := lane)
  have hput (l : List (Nat × FlitBody)) (n : Nat) (s' : State) :
      (s'.putSeq { e with next := n, held := l }).laneSeq src lane = { e with next := n, held := l } :=
    State.laneSeq_putSeq hdev hlane
  refine ⟨State.takeFlit_old, fun hlater hheld => ?_, fun hnext hheld hgoes => ?_⟩
  · rw [State.takeFlit_new hlater.le fun h hh => (hheld h hh).2]
    refine State.deliverFlits_none (fun h hh => ?_) _
    rw [hput] at hh ⊢
    rcases List.mem_append.mp hh with hh | hh
    · exact ne_of_gt (hheld h hh).1
    · rw [List.mem_singleton.mp hh]
      exact ne_of_gt hlater
  · let s' := s.putSeq { e with held := e.held ++ [(seq, x)] }
    have hseq' : s'.laneSeq src lane = { e with held := e.held ++ [(seq, x)] } := hput _ _ _
    have hbefore : ∀ h ∈ e.held, h.1 ≠ e.next := fun h hh => ne_of_gt (hheld h hh)
    have hfind : ((s'.laneSeq src lane).held.find? fun h => h.1 == (s'.laneSeq src lane).next) = some (seq, x) := by
      have hnone : e.held.find? (fun h => h.1 == e.next) = none := by simpa using hbefore
      simp [hseq', List.find?_append, hnone, hnext]
    have hreach : ((State.flitReach x).any fun y => s'.serveWaits src y.1 y.2) = false := by
      cases hr : State.flitReach x with
      | none => rfl
      | some y => exact hgoes y.1 y.2 hr
    have hrest : (e.held ++ [(seq, x)]).filter (fun y => y.1 != seq) = e.held := by
      have hkept : e.held.filter (fun y => y.1 != seq) = e.held := by simpa [hnext] using hbefore
      simp [List.filter_append, hkept]
    refine ⟨s'.putSeq { e with next := e.next + 1 }, hput _ _ _, rfl, rfl, rfl, ?_⟩
    rw [State.takeFlit_new hnext.ge (by simpa [hnext] using hbefore), State.deliverFlits_next hfind hreach, hseq', hrest]

/-- Settles O32: an event of a lane is one step of its resends or its one end, and a flit is discarded, held or delivered by its
number. Rests on log entries 65, 66 and 67. -/
theorem flitsAndLanes : Obligations.FlitsAndLanes :=
  ⟨flitsOfLanes, flitOrder⟩

end Sys2Proof.Machine
end

section
/-!
PROOFS. Credits, responses and re-planning (spec/14_progress_isa.md R272; spec/15_allowances.md R280, R281;
spec/25_prog_ring_split.md R371): what an answer does to its request, and what the steps of a change of lanes leave.
-/

namespace Sys2Proof.Machine

/-! ## Credits and responses (R272, R212) -/

theorem creditsReturn : Claim.CreditsReturn := fun _ _ => rfl

namespace State

section
variable {s : State} {tag : Nat}

theorem takeResponse_none (hnone : (s.reqs.find? fun q => q.tag == tag) = none) (a : PeerAnswer) : s.takeResponse tag a = s := by
  simp only [takeResponse, hnone]

theorem responseKept_of_owner {q : PeerReq} {r : ThreadRef} (howner : q.owner = .thread r ∨ q.owner = .sub r) :
    responseKept q = true := by
  rcases howner with h | h <;> simp only [responseKept, h]

variable {q : PeerReq} {r : ThreadRef} (hopen : (s.reqs.find? fun q => q.tag == tag) = some q)
  (howner : q.owner = .thread r ∨ q.owner = .sub r)
include hopen howner

/-- A response with success to a request of a thread or of its subscription. -/
theorem takeResponse_ok (bs : List Byte) (marks : BitVec 4) : s.takeResponse tag (.ok bs marks) =
    ((answerOk { s.responseBack q.dev with reqs := (s.responseBack q.dev).reqs.filter fun x => x.tag != tag } q bs marks).wakeDest
      q.dev).goDark := by
  simp only [takeResponse, hopen, responseKept_of_owner howner, if_true]

/-- A response with an error to a request of a thread or of its subscription. -/
theorem takeResponse_error {e : PeerAnswer} (he : e = .unmapped ∨ e = .refused ∨ e = .notPresent) : s.takeResponse tag e =
    (((s.responseBack q.dev).failRequest q { kind := .remoteFault, sub := failSub q.kind q.dst, addr := q.va }).wakeDest
      q.dev).goDark := by
  obtain rfl | rfl | rfl := he <;> simp only [takeResponse, hopen, responseKept_of_owner howner, if_true] <;>
    rcases howner with h | h <;> simp only [h]

end

/-- A request of a subscription that fails: the subscription goes, and its failure waits for its report. -/
theorem failRequest_sub {q : PeerReq} {r : ThreadRef} (howner : q.owner = .sub r) (s : State) (f : Trap) :
    s.failRequest q f = (State.modCore { s with reqs := s.reqs.filter fun x => x.tag != q.tag } r.core fun c =>
      { c with subs := c.subs.filter fun u => u.target != .peer q.dev (lineOf q.off) }).modThread r fun th =>
        th.addFail q.issue f := by
  simp only [failRequest, howner]

end State

theorem responsesArrive : Claim.ResponsesArrive := by
  intro s tag
  refine ⟨fun hnone x => ?_, fun q r hopen howner => ⟨fun bs marks => ?_, fun e he => ?_, fun f hsub =>
    State.failRequest_sub hsub _ f⟩⟩
  · rw [exec, execResponseArrival, State.takeResponse_none hnone]
  · rw [exec, execResponseArrival, State.takeResponse_ok hopen howner]
  · rw [exec, execResponseArrival, State.takeResponse_error hopen howner he]

/-- Settles O30: a credit frees one flit, and a response is taken by the request that awaits it. Rests on log entry 68. -/
theorem creditsAndResponses : Obligations.CreditsAndResponses :=
  ⟨creditsReturn, responsesArrive⟩

/-! ## The steps of a re-plan (R280, R371) -/

/-- The report of a peer taken, and answered with the lanes that come from it. -/
def State.reportTaken (s : State) (peer : Nat) (locked : List LaneRep) : State :=
  (s.takeReport peer locked).send
    (.relockReport (((s.takeReport peer locked).lockedIn.map Prod.fst).filter fun l => l.dev == peer))

section
variable {s : State} {c : Commit}

theorem exec_planResponseBound_light (hc : s.commit = some c) (hlight : c.dark = false) : exec .planResponseBound s =
    .next (s.failUnreach (s.reqs.filter fun q => q.lane.any c.changing.contains)).goDark.settle := by
  simp only [exec, execPlanResponseBound, hc, hlight, Bool.false_eq_true, if_false]

theorem exec_relock_early (hc : s.commit = some c) (hearly : c.dark = false ∨ c.late ≠ none) (locked : List LaneRep)
    (late : List Nat) : exec (.relock locked late) s = .next s := by
  have hpassed : (!c.dark || c.late.isSome) = true := by
    rcases hearly with h | h
    · rw [h]
      rfl
    · rw [Option.isSome_iff_ne_none.mpr h, Bool.or_true]
  simp only [exec, execRelock, hc, hpassed, if_true]

theorem exec_relock_dark (hc : s.commit = some c) (hdark : c.dark = true) (hlate : c.late = none) (locked : List LaneRep)
    (late : List Nat) :
    exec (.relock locked late) s = .next (s.passStep6 c (locked.filter fun l => l.dev != s.dev) late).settle := by
  simp only [exec, execRelock, hc, hdark, hlate, Bool.not_true, Option.isSome_none, Bool.or_false, Bool.false_eq_true, if_false]

/-- A commit ends where no destination waits for its step 7, and else keeps those that are late. -/
theorem endCommit_of_late {late : List Nat} (s : State) (hlate : c.late = some late) (n : Nat) :
    ({ s with commit := some { c with nunr := n } } : State).endCommit =
      if late = [] then { s with commit := none, planSeq := s.planSeq + 1, planNunr := BitVec.ofNat 8 (min n 255) }
      else { s with commit := some { c with nunr := n } } := by
  obtain ⟨plan, changing, affected, dark, _, nunr⟩ := c
  obtain rfl : _ = some late := hlate
  cases late <;> rfl

variable {peer : Nat} (hlinks : s.linksUp = true) (hpeer : peer < 64) (hother : peer ≠ s.dev)
include hlinks hpeer hother

/-- A handshake with a peer: its report is taken and answered, and the peer is decided by what waits for it. -/
theorem exec_relockHandshake (locked : List LaneRep) : exec (.relockHandshake peer locked) s =
    .next (if !(s.reportTaken peer locked).undecided peer then ((s.reportTaken peer locked).decideList [peer]).2.goDark.settle
      else if (s.reportTaken peer locked).commit.any fun c => c.late.isSome
        then ((s.reportTaken peer locked).decideLate peer).settle
      else s.reportTaken peer locked) := by
  simp only [exec, execRelockHandshake, hlinks, Nat.not_le_of_lt hpeer, hother, Bool.not_true, decide_false, Bool.or_false,
    Bool.false_eq_true, if_false]
  rfl

end

/-- Settles O33: each step is one event of the commit in progress, and a handshake decides its peer by what waits for it. Rests
on log entries 63 and 64. -/
theorem replanningOfLanes : Obligations.ReplanningOfLanes := by
  intro s
  refine ⟨fun hnone => ⟨?_, fun locked late => ?_⟩, fun c hc hlight => ⟨exec_planResponseBound_light hc hlight,
    exec_relock_early hc (.inl hlight)⟩, fun c locked late hc hdark hlate => exec_relock_early hc (.inr hlate) locked late,
    fun c locked late hc hdark hlate => ?_, fun peer locked hlinks hpeer hother => ?_⟩
  · simp only [exec, execPlanResponseBound, hnone]
  · simp only [exec, execRelock, hnone]
  · rw [exec_relock_dark hc hdark hlate, State.passStep6]
    exact congrArg (fun x => Host.Outcome.next (State.settle x)) (endCommit_of_late _ rfl _)
  · have hends := exec_relockHandshake hlinks hpeer hother locked
    refine ⟨fun (hdecided : (s.reportTaken peer locked).undecided peer = false) => ?_,
      fun (hwaits : (s.reportTaken peer locked).undecided peer = true) ⟨c, hc, hlate⟩ => ?_,
      fun (hwaits : (s.reportTaken peer locked).undecided peer = true) ⟨c, hc, hlate⟩ => ?_⟩
    · rw [hends, hdecided]
      rfl
    · have hpassed : ((s.reportTaken peer locked).commit.any fun c => c.late.isSome) = true := by
        rw [show (s.reportTaken peer locked).commit = some c from hc, Option.any_some, Option.isSome_iff_ne_none]
        exact hlate
      rw [hends, hwaits, hpassed]
      rfl
    · have hbefore : ((s.reportTaken peer locked).commit.any fun c => c.late.isSome) = false := by
        rw [show (s.reportTaken peer locked).commit = some c from hc, Option.any_some, hlate]
        rfl
      rw [hends, hwaits, hbefore]
      rfl

end Sys2Proof.Machine
end

section
/-!
PROOFS. Page slots, eviction marks and shoot-downs (spec/19_contexts_translation.md R296 to R299; spec/22_traps_restart.md R351;
spec/23_errors_degraded_checkpoint.md R360): the fields of a GO, the effect of a page-slot change at its end, the completion of a
mark, and the queue of invalidations.
-/

namespace Sys2Proof.Machine

/-! ## The fields of a GO (R299, R351) -/

/-- The bitwise AND of two numbers by their lower `n` bits and the bits above. -/
theorem and_of_parts {n x y : Nat} (a b : Nat) (hx : x < 2 ^ n) (hy : y < 2 ^ n) :
    (2 ^ n * a + x) &&& (2 ^ n * b + y) = 2 ^ n * (a &&& b) + (x &&& y) := by
  refine Nat.eq_of_testBit_eq fun i => ?_
  rw [Nat.testBit_and, Nat.testBit_two_pow_mul_add a hx, Nat.testBit_two_pow_mul_add b hy,
    Nat.testBit_two_pow_mul_add _ (Nat.and_lt_two_pow x hy)]
  split <;> rw [Nat.testBit_and]

/-- A value of a control register with a page in bits 12 to 38, a slot from bit 56 on and `low` below, under the mask of its
fields. -/
theorem and_mask_of_page {slot page low mask : Nat} (hpage : page < 2 ^ 27) (hlow : low < 2 ^ 12) (hmask : mask < 2 ^ 12)
    (slots : Nat) (hslots : slot &&& slots = slot) :
    (slot * 2 ^ 56 + page * 4096 + low) &&& (2 ^ 12 * (2 ^ 44 * slots + (2 ^ 27 - 1)) + mask) =
      slot * 2 ^ 56 + page * 4096 + (low &&& mask) := by
  have hvalue : slot * 2 ^ 56 + page * 4096 + low = 2 ^ 12 * (2 ^ 44 * slot + page) + low := by omega
  have hwide : page < 2 ^ 44 := Nat.lt_of_lt_of_le hpage (by decide)
  rw [hvalue, and_of_parts _ _ hlow hmask, and_of_parts slot slots hwide (by decide), hslots,
    Nat.and_two_pow_sub_one_eq_mod, Nat.mod_eq_of_lt hpage]
  omega

section
variable {page slot : Nat} (hpage : page < 2 ^ 27)
include hpage

theorem pslotGo_eq (hslot : slot < 256) : pslotGo page slot = BitVec.ofNat 64 (slot * 2 ^ 56 + page * 4096 + 1) := by
  rw [pslotGo, Nat.mod_eq_of_lt hslot, Nat.mod_eq_of_lt hpage]

theorem toNat_pslotGo (hslot : slot < 256) : (pslotGo page slot).toNat = slot * 2 ^ 56 + page * 4096 + 1 := by
  rw [pslotGo_eq hpage hslot, BitVec.toNat_ofNat, Nat.mod_eq_of_lt (by omega)]

/-- The fields of a GO in PSLOTCTL: the page, the slot, GO itself, and what the register keeps. -/
theorem pslotGo_fields (hslot : slot < 256) :
    bits (pslotGo page slot).toNat 12 27 = page ∧ (pslotGo page slot).extractLsb' 56 8 = BitVec.ofNat 8 slot ∧
    (pslotGo page slot).getLsbD 0 = true ∧
    pslotGo page slot &&& 0xFF00007FFFFFF000 = BitVec.ofNat 64 (slot * 2 ^ 56 + page * 4096) := by
  have hval := toNat_pslotGo hpage hslot
  refine ⟨?_, ?_, ?_, ?_⟩
  · rw [hval, bits]
    omega
  · refine BitVec.eq_of_toNat_eq ?_
    rw [BitVec.extractLsb'_toNat, hval, Nat.shiftRight_eq_div_pow, BitVec.toNat_ofNat]
    omega
  · rw [BitVec.getLsbD, hval, Nat.testBit_zero]
    simp
    omega
  · refine BitVec.eq_of_toNat_eq ?_
    have hslots : slot &&& 255 = slot := by
      rw [show (255 : Nat) = 2 ^ 8 - 1 from rfl, Nat.and_two_pow_sub_one_eq_mod, Nat.mod_eq_of_lt hslot]
    have hand := and_mask_of_page (low := 1) (mask := 0) hpage (by decide) (by decide) 255 hslots
    have hmask : (0xFF00007FFFFFF000 : DWord).toNat = 2 ^ 12 * (2 ^ 44 * 255 + (2 ^ 27 - 1)) + 0 := by decide
    rw [BitVec.toNat_and, hval, hmask, hand, BitVec.toNat_ofNat, Nat.mod_eq_of_lt (by omega), Nat.and_zero, Nat.add_zero]

theorem toNat_evictGo (unmark : Bool) : (evictGo page unmark).toNat = page * 4096 + boolBit unmark 1 + 1 := by
  have hbit := boolBit_le unmark 1
  rw [evictGo, Nat.mod_eq_of_lt hpage, BitVec.toNat_ofNat, Nat.mod_eq_of_lt (by omega)]

/-- The fields of a GO in EVICTCTL. -/
theorem evictGo_fields (unmark : Bool) :
    bits (evictGo page unmark).toNat 12 27 = page ∧ (evictGo page unmark).getLsbD 0 = true ∧
    (evictGo page unmark).getLsbD 1 = unmark ∧
    evictGo page unmark &&& 0x0000007FFFFFF002 = BitVec.ofNat 64 (page * 4096 + if unmark then 2 else 0) := by
  have hval := toNat_evictGo hpage unmark
  refine ⟨?_, ?_, ?_, ?_⟩
  · rw [hval, bits]
    cases unmark <;> simp [boolBit] <;> omega
  · rw [BitVec.getLsbD, hval, Nat.testBit_zero]
    cases unmark <;> simp [boolBit] <;> omega
  · rw [BitVec.getLsbD, hval, Nat.testBit_eq_decide_div_mod_eq]
    cases unmark <;> simp [boolBit] <;> omega
  · refine BitVec.eq_of_toNat_eq ?_
    have hlow : boolBit unmark 1 + 1 < 2 ^ 12 := by cases unmark <;> decide
    have hbits : (boolBit unmark 1 + 1) &&& 2 = if unmark then 2 else 0 := by cases unmark <;> rfl
    have hand := and_mask_of_page (slot := 0) (mask := 2) hpage hlow (by decide) 0 rfl
    have hsmall : page * 4096 + (if unmark then 2 else 0) < 2 ^ 64 := by
      cases unmark <;> simp <;> omega
    rw [BitVec.toNat_and, hval, BitVec.toNat_ofNat, Nat.mod_eq_of_lt hsmall, ← hbits]
    have hmask : (0x0000007FFFFFF002 : DWord).toNat = 2 ^ 12 * (2 ^ 44 * 0 + (2 ^ 27 - 1)) + 2 := by decide
    rw [Nat.zero_mul, Nat.zero_add, ← Nat.add_assoc] at hand
    rw [hmask, hand]

end

/-! ## Page-slot changes (R299) -/

/-- A write of PSLOTCTL with GO, by its fields. -/
theorem State.writePslotctl_go {v kept : DWord} {page : Nat} {slot : Byte} (s : State) (hpage : bits v.toNat 12 27 = page)
    (hslot : v.extractLsb' 56 8 = slot) (hgo : v.getLsbD 0 = true) (hkept : v &&& 0xFF00007FFFFFF000 = kept) :
    s.writePslotctl v =
      if s.pslotBusy.isSome || s.part.hbmBytes ≤ page * 4096 then
        { s with regs := { s.regs with pslotctl := kept, pslotErr := true } }
      else { s with regs := { s.regs with pslotctl := kept }, pslotBusy := some (page, slot) } := by
  simp only [writePslotctl, hpage, hslot, hgo, hkept, Bool.not_true, Bool.false_eq_true, if_false]

theorem pageSlotChanges : Claim.PageSlotChanges := by
  intro s page slot
  refine ⟨fun hpage hslot => ?_, rfl⟩
  obtain ⟨hfield, hbyte, hgo, hkept⟩ := pslotGo_fields hpage hslot
  rw [exec, execPageSlotChange, s.writePslotctl_go hfield hbyte hgo hkept]
  refine ⟨fun hfree hin => ?_, fun hbad => ?_⟩
  · rw [hfree, if_neg (by simpa using hin)]
  · rw [if_pos (by simpa [Option.isSome_iff_ne_none] using hbad)]

/-- What is left of a memory in its one form: the bytes at the addresses kept. -/
theorem Memory.get_filter {m : Memory} {lo : Nat} (hm : m.wfFrom lo = true) (p : Nat → Bool) (x : Nat) :
    Memory.get (m.filter fun c => p c.1) x = if p x then m.get x else 0 := by
  induction m generalizing lo with
  | nil => exact (ite_self _).symm
  | cons c m ih =>
    obtain ⟨a, b⟩ := c
    simp only [Memory.wfFrom, Bool.and_eq_true] at hm
    obtain ⟨-, hm⟩ := hm
    rw [List.filter_cons]
    by_cases hxa : x = a
    · subst hxa
      cases hp : p x <;> simp [Memory.get, ih hm, hp]
    · by_cases hlt : x < a
      · have hnone : Memory.get m x = 0 := Memory.get_below hm (by omega)
        split <;> simp [Memory.get, hxa, hlt, ih hm, hnone]
      · split <;> simp [Memory.get, hxa, hlt, ih hm]

theorem Memory.get_clear {m : Memory} (hm : m.wf = true) (a n x : Nat) :
    (m.clear a n).get x = if a ≤ x ∧ x < a + n then 0 else m.get x := by
  rw [Memory.clear, Memory.get_filter hm fun x => decide (x < a) || decide (a + n ≤ x)]
  by_cases h : a ≤ x ∧ x < a + n
  · rw [if_pos h, if_neg (by simp only [Bool.or_eq_true, decide_eq_true_eq]; omega)]
  · rw [if_neg h, if_pos (by simp only [Bool.or_eq_true, decide_eq_true_eq]; omega)]

namespace State

/-- A line pushed to those that subscribe it, and looked at by those that wait for it. -/
def announceLine (s : State) (la : Nat) : State := (s.pushLine la).touch (.line la)

section
variable (s : State) (la : Nat)

theorem touch_fields (t : Touch) : (s.touch t).mem = s.mem ∧ (s.touch t).regs = s.regs ∧ (s.touch t).pslots = s.pslots ∧
    (s.touch t).pslotBusy = s.pslotBusy ∧ (s.touch t).cores = s.cores := by
  rw [touch]
  split <;> exact ⟨rfl, rfl, rfl, rfl, rfl⟩

theorem announceLine_fields : (s.announceLine la).mem = s.mem ∧ (s.announceLine la).regs = s.regs ∧
    (s.announceLine la).pslots = s.pslots ∧ (s.announceLine la).pslotBusy = s.pslotBusy := by
  obtain ⟨hmem, hregs, hpslots, hbusy, -⟩ := touch_fields (s.pushLine la) (.line la)
  exact ⟨hmem, hregs, hpslots, hbusy⟩

/-- A line that no core subscribes is pushed to none. -/
theorem announceLine_cores {s : State} (h : ∀ c ∈ s.cores, c.subs = []) (la : Nat) : (s.announceLine la).cores = s.cores := by
  obtain ⟨-, -, -, -, hcores⟩ := touch_fields (s.pushLine la) (.line la)
  rw [announceLine, hcores]
  refine (List.map_congr_left (g := id) fun c hc => ?_).trans (List.map_id s.cores)
  rw [h c hc]
  rfl

theorem foldl_announceLine_fields (la : Nat → Nat) (l : List Nat) :
    let s' := l.foldl (fun s i => s.announceLine (la i)) s
    s'.mem = s.mem ∧ s'.regs = s.regs ∧ s'.pslots = s.pslots ∧ s'.pslotBusy = s.pslotBusy := by
  induction l generalizing s with
  | nil => exact ⟨rfl, rfl, rfl, rfl⟩
  | cons i l ih =>
    obtain ⟨hmem, hregs, hpslots, hbusy⟩ := ih (s.announceLine (la i))
    obtain ⟨hmem', hregs', hpslots', hbusy'⟩ := announceLine_fields s (la i)
    exact ⟨hmem.trans hmem', hregs.trans hregs', hpslots.trans hpslots', hbusy.trans hbusy'⟩

theorem foldl_announceLine_cores {s : State} (h : ∀ c ∈ s.cores, c.subs = []) (la : Nat → Nat) (l : List Nat) :
    (l.foldl (fun s i => s.announceLine (la i)) s).cores = s.cores := by
  induction l generalizing s with
  | nil => rfl
  | cons i l ih =>
    have hcores := announceLine_cores h (la i)
    rw [List.foldl_cons, ih (by rwa [hcores]), hcores]

end

/-- The state at the end of a page-slot change, before its lines are announced. -/
def slotChanged (s : State) (page : Nat) (slot : Byte) : State :=
  { s.dropPage page with
    lineKeys := s.lineKeys.filter fun p => p.1 / 4096 != page
    mem := s.mem.clear (page * 4096) 4096, mpois := s.mpois.delRange (page * 256) 256
    pslots := if slot = 0 then eraseKey s.pslots page else insertKey s.pslots page slot
    pslotBusy := none, regs := { s.regs with pslotSeq := s.regs.pslotSeq + 1 } }

theorem completePslot_busy {s : State} {page : Nat} {slot : Byte} (h : s.pslotBusy = some (page, slot)) :
    s.completePslot =
      (List.range 64).foldl (fun s i => s.announceLine (page * 4096 + 64 * i)) (s.slotChanged page slot) := by
  simp only [completePslot, h]
  rfl

/-- The slot of each page after a change of one. -/
theorem pageSlot_slotChanged (s : State) (page : Nat) (slot : Byte) (p : Nat) :
    (s.slotChanged page slot).pageSlot p = if p = page then slot else s.pageSlot p := by
  rw [pageSlot, pageSlot, slotChanged]
  by_cases hslot : slot = 0
  · simp only [hslot, if_true, lookup_eraseKey]
    split <;> rfl
  · simp only [hslot, if_false, lookup_insertKey]
    split <;> rfl

end State

theorem pageSlotsTakeEffect : Claim.PageSlotsTakeEffect := by
  intro s page k hbusy hwf s'
  have heq : s' = (List.range 64).foldl (fun s i => s.announceLine (page * 4096 + 64 * i)) (s.slotChanged page k) :=
    State.completePslot_busy hbusy
  obtain ⟨hmem, hregs, hpslots, hdone⟩ :=
    State.foldl_announceLine_fields (s.slotChanged page k) (fun i => page * 4096 + 64 * i) (List.range 64)
  rw [← heq] at hmem hregs hpslots hdone
  have hslot (p : Nat) : s'.pageSlot p = if p = page then k else s.pageSlot p := by
    rw [← State.pageSlot_slotChanged, State.pageSlot, hpslots, State.pageSlot]
  refine ⟨hdone, hregs, by rw [hslot, if_pos rfl], fun a => ?_, fun p hp => by rw [hslot, if_neg hp], fun hsubs c hc => ?_⟩
  · rw [hmem, State.slotChanged, Memory.get_clear hwf]
    congr 1
    exact propext ⟨fun h => by omega, fun h => by omega⟩
  · have hcores : s'.cores = (s.dropPage page).cores := by
      rw [heq, State.foldl_announceLine_cores]
      · rfl
      · intro c hc
        obtain ⟨c', hc', rfl⟩ := List.mem_map.mp hc
        exact hsubs c' hc'
    rw [hcores] at hc
    obtain ⟨c', -, rfl⟩ := List.mem_map.mp hc
    simp only [List.mem_append, List.mem_filter, bne_iff_ne]
    refine ⟨fun l hl => ?_, fun l hl => hl.2⟩
    rcases hl with ⟨-, hl⟩ | ⟨-, hl⟩ <;> exact hl

/-! ## Eviction marks (R351, R360) -/

namespace State

/-- A write of EVICTCTL with GO, by its fields. -/
theorem writeEvictctl_go {v kept : DWord} {page : Nat} {unmark : Bool} (s : State) (hpage : bits v.toNat 12 27 = page)
    (hgo : v.getLsbD 0 = true) (hunmark : v.getLsbD 1 = unmark) (hkept : v &&& 0x0000007FFFFFF002 = kept)
    (hin : page * 4096 < s.part.hbmBytes) : s.writeEvictctl v =
      let refuse : State := { s with regs := { s.regs with evictctl := kept, evictErr := true } }
      let r := { s.regs with evictctl := kept }
      if s.evicting.isSome then refuse
      else if unmark then if s.health.retired.has page then refuse else { s with regs := r, marked := s.marked.del page }
      else { s with regs := r, marked := s.marked.add page, evicting := some page } := by
  simp only [writeEvictctl, hpage, hgo, hunmark, hkept, Nat.not_le_of_lt hin, Bool.not_true, Bool.false_eq_true, decide_false,
    Bool.or_false, if_false]

/-- A health event queues or counts what it tells, and may send it. -/
theorem healthEvent_eq (s : State) (kind arg : Nat) : ∃ events lost outbox,
    s.healthEvent kind arg = { s with health := { s.health with events, lost }, outbox } := by
  simp only [healthEvent]
  split
  · split <;> exact ⟨_, _, _, rfl⟩
  · exact ⟨_, _, _, rfl⟩

/-- REPLACE_REQUESTED is set, and is a health event where it was not. -/
theorem replaceRequested_eq (s : State) : ∃ events lost outbox,
    s.replaceRequested = { s with health := { s.health with events, lost, rr := true }, outbox } := by
  rw [replaceRequested]
  split
  · next hrr => exact ⟨s.health.events, s.health.lost, s.outbox, by rw [← hrr]⟩
  · exact healthEvent_eq _ 7 0

/-- What the completion of a mark is about: the mark that waits, the pages retired, and those the health record holds. -/
def marking (s : State) : Option Nat × NatSet × NatSet := (s.evicting, s.health.retired, s.record.pages)

theorem marking_healthEvent (s : State) (kind arg : Nat) : (s.healthEvent kind arg).marking = s.marking := by
  obtain ⟨events, lost, outbox, heq⟩ := healthEvent_eq s kind arg
  rw [heq]
  rfl

theorem marking_replaceRequested (s : State) : s.replaceRequested.marking = s.marking := by
  obtain ⟨events, lost, outbox, heq⟩ := replaceRequested_eq s
  rw [heq]
  rfl

/-- A mark completed on a page pending retirement retires it. -/
theorem marking_completeMark {s : State} {page : Nat} (hmark : s.evicting = some page) (hnone : s.holdCount page = 0)
    (hpending : s.health.pendingPages.has page = true) :
    s.completeMark.marking = (none, s.health.retired.add page, s.record.pages.add page) := by
  simp only [completeMark, hmark, hnone, hpending, if_true, bne_self_eq_false, Bool.false_eq_true, if_false]
  have hcounted (t : State) (channels : List (Nat × Nat)) :
      { t with health := { t.health with channels } : State }.marking = t.marking := rfl
  split
  · rw [marking_replaceRequested, marking_healthEvent, hcounted, marking_healthEvent]
    rfl
  · rw [hcounted, marking_healthEvent]
    rfl

end State

theorem evictionMarks : Claim.EvictionMarks := by
  intro s page hpage hin r
  obtain ⟨hfield, hset, hmark, hkept⟩ := evictGo_fields hpage false
  obtain ⟨hfield', hset', hunmark, hkept'⟩ := evictGo_fields hpage true
  rw [exec, exec, execEvictMark, execEvictUnmark, s.writeEvictctl_go hfield hset hmark hkept hin,
    s.writeEvictctl_go hfield' hset' hunmark hkept' hin]
  refine ⟨fun hnone => ?_, fun p hp => ?_, fun hp => ⟨fun h => ?_, fun h hpending => ?_, fun h hpending => ?_⟩⟩
  · rw [hnone]
    refine ⟨rfl, ?_⟩
    cases s.health.retired.has page <;> rfl
  · rw [hp]
    exact ⟨rfl, rfl⟩
  · simp [exec, execEvictMarkComplete, State.completeMark, hp, h]
  · simp [exec, execEvictMarkComplete, State.completeMark, hp, h, hpending]
  · have hmarking := State.marking_completeMark hp h hpending
    simp only [State.marking, Prod.mk.injEq] at hmarking
    exact ⟨_, rfl, hmarking⟩

/-! ## Shoot-downs (R296 to R298) -/

namespace State

theorem hostDoes_of_accepts {s : State} (hlink : s.linkUp = true) (hok : s.health.failed = false) (f : State → State) :
    s.hostDoes f = (f s).settle := by
  simp [hostDoes, accepts, hlink, hok]

/-- The invalidation at the head of the queue, once nothing it selects is in use. -/
theorem completeShoot_ready {s : State} {k : Shoot} {ks : List Shoot} (h : s.shoots = k :: ks) (hready : s.shootWaits k = false) :
    s.completeShoot.shoots = ks ∧ s.completeShoot.regs = { s.regs with sdDone := s.regs.sdDone + 1 } ∧
    s.completeShoot.tlb = s.tlb.filter (fun e => !shootHits k e) ∧
    s.completeShoot.outbox = s.outbox ++ (if s.regs.sdack = 0 then []
      else [.hostWrite s.regs.sdack ((s.regs.sdDone + 1).zeroExtend 64) 4]) := by
  simp only [completeShoot, h, hready, Bool.false_eq_true, if_false]
  by_cases hack : s.regs.sdack = 0
  · rw [if_pos (show (s.invalidate k).regs.sdack = 0 from hack), if_pos hack]
    exact ⟨rfl, rfl, rfl, (List.append_nil _).symm⟩
  · rw [if_neg (show (s.invalidate k).regs.sdack ≠ 0 from hack), if_neg hack]
    exact ⟨rfl, rfl, rfl, rfl⟩

end State

theorem shootdowns : Claim.Shootdowns := by
  intro s
  refine ⟨?_, fun k ks hq => ⟨fun hwaits => ?_, fun hready => ?_⟩⟩
  · intro hlink hok post all
    have hdoes := State.hostDoes_of_accepts hlink hok
    refine ⟨fun value hgo hroom => ?_, fun value hgo hfull => ?_, fun hroom hq => ?_, fun hq => ?_, fun hq => ?_, fun k hq => ?_⟩
    · rw [exec, execShootdownPost, hdoes, State.writeSdcmd, if_pos hgo, State.postShoot, if_neg (Nat.not_le_of_lt hroom)]
      rfl
    · rw [exec, execShootdownPost, hdoes, State.writeSdcmd, if_pos hgo, State.postShoot, if_pos hfull]
      rfl
    · rw [exec, execImsicInvalidateAll, hdoes, State.imsicWrite, if_pos rfl, State.postShoot, if_neg (Nat.not_le_of_lt hroom)]
      simp only [List.isEmpty_eq_false_iff.mpr hq]
      rfl
    · rw [exec, execImsicInvalidateAll, hdoes, State.imsicWrite, if_pos rfl, State.postShoot, if_neg (by simp [hq])]
      simp only [show s.shoots.isEmpty = true from List.isEmpty_iff.mpr hq]
      rfl
    · rw [exec, execImsicProcessQueue, hdoes, State.imsicWrite, if_neg (by decide), if_pos rfl, hq]
      rfl
    · rw [exec, execImsicProcessQueue, hdoes, State.imsicWrite, if_neg (by decide), if_pos rfl, hq]
      rfl
  · rw [exec, execShootdownComplete, State.completeShoot, hq]
    exact congrArg Host.Outcome.next (if_pos hwaits)
  · obtain ⟨hshoots, hregs, htlb, houtbox⟩ := State.completeShoot_ready hq hready
    refine ⟨_, rfl, hshoots, hregs, fun e he => ?_, fun e he hkeep => ?_, houtbox⟩
    · rw [htlb, List.mem_filter] at he
      simpa using he.2
    · rw [htlb, List.mem_filter]
      exact ⟨he, by simpa using hkeep⟩

/-- Settles O39: the fields of a GO read back, the end of a page-slot change clears the page and nothing else, a mark waits for
the copies that hold its page, and the head of the queue of invalidations waits for the accesses it selects. Rests on log
entries 34 and 106. -/
theorem pagesMarksAndShootdowns : Obligations.PagesMarksAndShootdowns :=
  ⟨pageSlotChanges, pageSlotsTakeEffect, evictionMarks, shootdowns⟩

end Sys2Proof.Machine
end

section
/-!
PROOFS. `rfe`, `halt` and `tlbinv` of a Caster thread, and the keys (spec/20_system_isa.md R318 to R320, R324): each comes to its
own body once its sources are clean, and the bodies split on the state they look at.
-/

namespace Sys2Proof.Machine

/-- A privileged instruction of a Caster thread with clean sources ends as its body says. -/
theorem privOp_finishes {s : State} {t : Thread} {g : Guard} {srcs dsts} {n : Nat} {body : Nat → Thread → Eff} {e : Eff}
    (hwho : s.issuer.who = .caster n) (h : Clean s t g srcs dsts []) (hbody : body n t = e) :
    privOp s g srcs [] dsts body = .next (State.finish s.issuer e) := by
  have hissues : Issues s t g (srcs ++ []) dsts [] := by
    rw [List.append_nil]
    exact h.issues
  rw [privOp_eq body hwho hissues h.clean, hbody]

theorem returnHaltAndInvalidate : Claim.ReturnHaltAndInvalidate := by
  intro s t g n hwho r
  refine ⟨fun h => ⟨fun hready hdrained => ?_, ?_⟩, fun sel hready => ?_⟩
  · refine privOp_finishes hwho h.clean_of_no_source ?_
    simp only [show s.releaseReady s.issuer .dev = true from hready, show s.drained s.issuer = true from hdrained, Bool.not_true,
      Bool.false_eq_true, if_false]
    rfl
  · exact privOp_finishes hwho h.clean_of_no_source rfl
  · intro asid va k h hdone
    refine privOp_finishes hwho h ?_
    simp only [show s.releaseReady s.issuer .sys = true from hready, Bool.not_true, Bool.false_eq_true, if_false]
    have hk : tlbShoot t sel = k := by cases sel <;> rfl
    rw [hk, if_neg (ne_true_of_eq_false hdone)]

/-! ## Keys (R324) -/

section
variable {s : State} {t : Thread} {g : Guard} {d : Reg} {a : Src} {n : Nat} (f : KeySlot → Status × State)
  (hwho : s.issuer.who = .caster n) (h : Clean s t g [(a, 1)] [(d, 1)] [])
include hwho h

/-- A key operation on a slot number that is none. -/
theorem keyOp_invalid (hslot : (t.reg a.reg).toNat = 0 ∨ 255 < (t.reg a.reg).toNat) :
    keyOp s g d a f = Completes s (s.answer d .invalid) := by
  refine privOp_finishes hwho h ?_
  rw [if_pos (by simpa using hslot)]

/-- A key operation on a slot gives the status it comes to, in the state it leaves. -/
theorem keyOp_slot {x : Status} {s' : State} (hlow : 1 ≤ (t.reg a.reg).toNat) (hhigh : (t.reg a.reg).toNat ≤ 255)
    (hf : f (s.keySlot (t.reg a.reg).toNat) = (x, s')) : keyOp s g d a f = Completes s (s'.answer d x) := by
  refine privOp_finishes hwho h ?_
  rw [if_neg (by simp only [Bool.or_eq_true, decide_eq_true_eq]; omega), hf]

end

theorem keySlots : Claim.KeySlots := by
  intro s t g d a n hwho k slot used gives h
  refine ⟨fun hbad => ⟨keyOp_invalid (loadKey s) hwho h hbad, keyOp_invalid (clearKey s) hwho h hbad⟩, fun hlow hhigh => ?_⟩
  have hload {x : Status} {s' : State} (hf : loadKey s slot = (x, s')) : gives (.kload g d a) s' x :=
    keyOp_slot (loadKey s) hwho h hlow hhigh hf
  have hclear {x : Status} {s' : State} (hf : clearKey s slot = (x, s')) : gives (.kclr g d a) s' x :=
    keyOp_slot (clearKey s) hwho h hlow hhigh hf
  refine ⟨fun hnone => hload ?_, fun key hkey => ⟨fun hfull => hload ?_, fun hfree => hload ?_⟩,
    fun hused => hclear (if_pos hused), fun hunused hempty => hclear ?_, fun key hunused hfull => hclear ?_⟩
  · simp only [loadKey, hnone]
  · simp only [loadKey, hkey, hfull, if_true]
  · simp only [loadKey, hkey, hfree, Option.isSome_none, Bool.false_eq_true, if_false]
  · rw [clearKey, if_neg (ne_true_of_eq_false hunused), hempty]
  · rw [clearKey, if_neg (ne_true_of_eq_false hunused), hfull]

/-- Settles O25: each instruction comes to its body, and the key operations split on the staged key, the slot's own and the tasks
that use it. Rests on log entries 55, 118 and 119. -/
theorem returnHaltAndKeys : Obligations.ReturnHaltAndKeys := ⟨returnHaltAndInvalidate, keySlots⟩

end Sys2Proof.Machine
end

section
/-!
PROOFS. `sigpost`, `planset`, `plancommit` and `biasset` of a Caster thread (spec/20_system_isa.md R327 to R329;
spec/15_allowances.md R278, R280).
-/

namespace Sys2Proof.Machine

section
variable {s : State} {t : Thread} {g : Guard} {d : Reg} {a b : Src} {n : Nat} (hwho : s.issuer.who = .caster n)
include hwho

/-! ## Signals (R327) -/

section
variable (h : Clean s t g [(a, 1), (b, 1)] [(d, 1)] [])
include h

theorem exec_sigpost_large (hno : 63 < (t.reg b.reg).toNat) : exec (.sigpost g d a b) s = Completes s (s.answer d .invalid) := by
  refine privOp_finishes hwho h ?_
  rw [if_pos hno]

variable (hno : (t.reg b.reg).toNat ≤ 63)
include hno

theorem exec_sigpost_none (hnone : liveNamed? s s.issuer.core (t.reg a.reg) = none) :
    exec (.sigpost g d a b) s = Completes s (s.answer d .noTask) := by
  refine privOp_finishes hwho h ?_
  rw [if_neg (Nat.not_lt_of_le hno), hnone]

theorem exec_sigpost_live {q : ThreadRef} {u : Thread} (hlive : liveNamed? s s.issuer.core (t.reg a.reg) = some (q, u)) :
    exec (.sigpost g d a b) s = Completes s (if u.signal.isSome then s.answer d .pending
      else (s.modThread q fun u => { u with signal := some ((t.reg b.reg).extractLsb' 0 6) }).answer d .ok) := by
  refine privOp_finishes hwho h ?_
  rw [if_neg (Nat.not_lt_of_le hno), hlive]
  exact (apply_ite Eff.next _ _ _).symm

end

/-! ## The wavelength plan (R278, R280, R328) -/

section
variable (h : Clean s t g [(a, 2)] [(d, 1)] [])
include h

theorem exec_planset_held (hcommit : s.commit.isSome = true) : exec (.planset g d a) s = Holds s := by
  refine privOp_finishes (e := .hold s) hwho h ?_
  rw [if_pos hcommit]

variable (hcommit : s.commit = none)
include hcommit

theorem exec_planset_badAddr (hbad : s.paOk (t.reg64 a.reg).toNat 1024 = false) :
    exec (.planset g d a) s = Completes s (s.answer d .badAddr) := by
  refine privOp_finishes hwho h ?_
  simp only [hcommit, hbad, Option.isSome_none, Bool.not_false, Bool.false_eq_true, if_false, if_true]

theorem exec_planset_read {bs : List Byte} {pois : Bool} {s₁ : State} (hok : s.paOk (t.reg64 a.reg).toNat 1024 = true)
    (hread : s.devLoad (t.reg64 a.reg).toNat 1024 = (bs, pois, s₁)) :
    exec (.planset g d a) s =
      if s₁.devWaits then Holds s
      else Completes s (if planOk (planOf bs) && planZero bs && !pois
        then State.answer { s₁ with staged := some (planOf bs), planErr := false } d .ok
        else State.answer { s₁ with planErr := true } d .invalid) := by
  rw [exec, execPlanset, privOp_finishes hwho h rfl]
  simp only [hcommit, hok, hread, Option.isSome_none, Bool.not_true, Bool.false_eq_true, if_false]
  split
  · rfl
  · split <;> rfl

end

theorem exec_plancommit (h : Issues s t g [] [(d, 1)] []) :
    exec (.plancommit g d) s =
      if s.commit.isSome then Holds s
      else Completes s (s.staged.elim (s.answer d .noPlan) fun p => (startCommit s p).answer d .ok) := by
  rw [exec, execPlancommit, privOp_finishes hwho h.clean_of_no_source rfl]
  split
  · rfl
  · cases s.staged <;> rfl

/-! ## Bias (R329) -/

theorem biasOp_eq (h : Clean s t g [(a, 1)] [(d, 1)] []) (hnew : ∀ f ∈ s.flips, f.waiter ≠ some (s.issuer, d)) (toHost : Bool) :
    biasOp s g toHost d a =
      if 2 ^ 27 ≤ (t.reg a.reg).toNat ∨ s.part.hbmBytes ≤ (t.reg a.reg).toNat * 4096 then Completes s (s.answer d .invalid)
      else Stays s (s.requestFlip
        { page := (t.reg a.reg).toNat, toHost, byHost := false, waiter := some (s.issuer, d), lines := [] }) := by
  have hnone : (s.flips.any fun f => f.waiter == some (s.issuer, d)) = false := by
    rw [List.any_eq_false]
    intro f hf
    simpa using hnew f hf
  rw [biasOp, privOp_finishes hwho h rfl]
  simp only [hnone, Bool.false_eq_true, if_false, Bool.or_eq_true, decide_eq_true_eq]
  split <;> rfl

end

/-- Settles O27: each instruction's own body, split on what it looks at in the order of its checks. Rests on log entries 54, 62,
111 and 126: that `planset` holds while a page of the plan is in a change is the model's choice (entry 111). -/
theorem signalsPlansAndBias : Obligations.SignalsPlansAndBias := by
  intro s t g d a n hwho r gives
  refine ⟨fun b h => ⟨exec_sigpost_large hwho h, exec_sigpost_none hwho h, fun q u hno hlive =>
      ⟨fun hsig => ?_, fun hsig => ?_⟩⟩,
    fun hcommit => ⟨fun h => ?_, fun h => ?_⟩, fun hcommit => ⟨?_, fun h => ?_⟩, ?_⟩
  · exact (exec_sigpost_live hwho h hno hlive).trans (by rw [if_pos hsig])
  · rw [exec_sigpost_live hwho h hno hlive, hsig]
    rfl
  · exact exec_planset_held hwho h hcommit
  · rw [exec_plancommit hwho h, if_pos hcommit]
  · intro h pa x s₁ good
    exact ⟨exec_planset_badAddr hwho h hcommit, fun hok => exec_planset_read hwho h hcommit hok rfl⟩
  · have hends := exec_plancommit hwho h
    rw [hcommit] at hends
    refine ⟨fun hnone => hends.trans ?_, fun p hp => hends.trans ?_⟩
    · rw [hnone]
      rfl
    · rw [hp]
      rfl
  · intro h page hnew
    have hends := biasOp_eq hwho h hnew
    refine ⟨fun hbad => ⟨(hends false).trans (if_pos hbad), (hends true).trans (if_pos hbad)⟩, fun hpage hin => ?_⟩
    have hgood : ¬ (2 ^ 27 ≤ page ∨ s.part.hbmBytes ≤ page * 4096) := by
      rintro (h | h)
      · exact absurd hpage (Nat.not_lt_of_le h)
      · exact absurd hin (Nat.not_lt_of_le h)
    exact ⟨(hends false).trans (if_neg hgood), (hends true).trans (if_neg hgood)⟩

end Sys2Proof.Machine
end

section
/-!
PROOFS. The Riser, the forms of `resume`, `ctxsave` and `ctxload` of a Caster thread (spec/20_system_isa.md R321, R322, R325, R326;
spec/22_traps_restart.md R344).
-/

namespace Sys2Proof.Machine

section
variable {s : State} {t : Thread} {g : Guard} {d : Reg} {a : Src} {n : Nat} (hwho : s.issuer.who = .caster n)
include hwho

/-- A privileged instruction of a Caster thread, some of whose sources may travel with their marks, ends as its body says. -/
theorem privOp_travels {srcs travels dsts} {body : Nat → Thread → Eff} {e : Eff} (h : Issues s t g (srcs ++ travels) dsts [])
    (hclean : firstPoison t srcs = none) (hbody : body n t = e) :
    privOp s g srcs travels dsts body = .next (State.finish s.issuer e) := by
  rw [privOp_eq body hwho h hclean, hbody]

/-! ## The Riser (R325) -/

section
variable {c : Core} (hcore : s.core? s.issuer.core = some c) (h : Clean s t g [(a, 2)] [(d, 1)] [])
include hcore h

theorem exec_riserpop_none (hnone : State.shownRecords c = [] ∨ s.paOk (t.reg64 a.reg).toNat 64 = false) :
    exec (.riserpop g d a) s = Completes s (s.giveReg d 0) := by
  refine privOp_finishes hwho h ?_
  simp only [hcore, Option.map_some, Option.getD_some]
  cases hshown : State.shownRecords c with
  | nil => rfl
  | cons f l =>
    rw [hshown] at hnone
    simp only [hnone.resolve_left (List.cons_ne_nil f l), Bool.not_false, if_true]

theorem exec_riserpop_oldest {f : FaultRec} {l : List FaultRec} (hshown : State.shownRecords c = f :: l)
    (hok : s.paOk (t.reg64 a.reg).toNat 64 = true) :
    exec (.riserpop g d a) s =
      let s₁ := popRiser s s.issuer.core (t.reg64 a.reg).toNat f
      if s₁.devWaits then Holds s else Completes s (s₁.giveReg d f.handle) := by
  rw [exec, execRiserpop, privOp_finishes hwho h rfl]
  simp only [hcore, Option.map_some, Option.getD_some, hshown, hok, Bool.not_true, Bool.false_eq_true, if_false]
  split <;> rfl

end

/-! ## Resume (R326, R344) -/

section
variable {travels : List (Src × Nat)} (fits : Thread → Bool) (f : Word → ThreadRef → Thread → Thread → Bool × State)
  (h : Issues s t g ([(a, 1)] ++ travels) [(d, 1)] []) (hclean : firstPoison t [(a, 1)] = none)
include h hclean

theorem resumeWith_none (hnone : liveNamed? s s.issuer.core (t.reg a.reg) = none) :
    resumeWith s g d a travels fits f = Completes s (s.answer d .noTask) := by
  refine privOp_travels hwho h hclean ?_
  simp only [hnone]

variable {r : ThreadRef} {u : Thread} (hlive : liveNamed? s s.issuer.core (t.reg a.reg) = some (r, u))
include hlive

theorem resumeWith_unfit (hfits : fits u = false) : resumeWith s g d a travels fits f = Completes s (s.answer d .invalid) := by
  refine privOp_travels hwho h hclean ?_
  simp only [hlive, hfits, Bool.not_false, if_true]

theorem resumeWith_fits (hfits : fits u = true) {s' : State} (hf : f (t.reg a.reg) r u t = (true, s')) :
    resumeWith s g d a travels fits f = Completes s (s'.answer d .ok) := by
  refine privOp_travels hwho h hclean ?_
  simp only [hlive, hfits, Bool.not_true, Bool.false_eq_true, if_false, hf]

end

end

theorem exec_resumeRetry (s : State) (g : Guard) (d : Reg) (a : Src) : exec (.resumeRetry g d a) s =
    resumeWith s g d a [] inRiser fun h r u _ => (true, s.resumeAt r h u.pc) := rfl

theorem exec_resumeSkip (s : State) (g : Guard) (d : Reg) (a : Src) : exec (.resumeSkip g d a) s =
    resumeWith s g d a [] inRiser fun h r u _ => match successor s r u.pc with
      | (none, s) => (false, s)
      | (some pc, s) => (true, (s.resumeAt r h pc).modThread r fun t => { t with kept := none, starting := false }) := rfl

theorem exec_resumeSys (s : State) (g : Guard) (d : Reg) (a b : Src) : exec (.resumeSys g d a b) s =
    resumeWith s g d a [(b, 2)] inCall fun _ r u t => match s.checkTarget r u.pc with
      | (.wait, s) => (false, s)
      | (.trap e, s) => (true, ((returnSys s r (t.reg64 b.reg).toNat (valueMarks t b 2)).modThread r fun u =>
          { u with pc := prevPC u.pc }).takeTrap r e)
      | (.check, s) => (false, s.fetchCheck r (pcLine u.pc))
      | (.ok, s) => (true, returnSys s r (t.reg64 b.reg).toNat (valueMarks t b 2)) := rfl

theorem exec_resumeSetv (s : State) (g : Guard) (d : Reg) (a b : Src) (v : Reg) : exec (.resumeSetv g d a b v) s =
    resumeWith s g d a [(b, 1)] (fun t => inRiser t || inCall t) fun _ r _ t =>
      (true, s.modThread r fun u => u.setReg v (t.reg b.reg) (t.isPois b.reg)) := rfl

theorem riserAndResume : Claim.RiserAndResume := by
  intro s t g d a n hwho core pa h gives
  refine ⟨fun c hcore hc => ⟨exec_riserpop_none hwho hcore hc, fun f l => exec_riserpop_oldest hwho hcore hc⟩, fun hc => ?_,
    fun b hi hclean => ?_, fun b v hi hclean => ?_⟩
  · have hretry := exec_resumeRetry s g d a
    have hskip := exec_resumeSkip s g d a
    have hi : Issues s t g ([(a, 1)] ++ []) [(d, 1)] [] := hc.issues
    refine ⟨fun hnone => ⟨hretry.trans (resumeWith_none hwho _ _ hi hc.clean hnone),
        hskip.trans (resumeWith_none hwho _ _ hi hc.clean hnone)⟩,
      fun r u hlive => ⟨fun hfits => ⟨hretry.trans (resumeWith_unfit hwho _ _ hi hc.clean hlive hfits),
        hskip.trans (resumeWith_unfit hwho _ _ hi hc.clean hlive hfits)⟩, fun hfits =>
        ⟨hretry.trans (resumeWith_fits hwho _ _ hi hc.clean hlive hfits rfl), fun pc s₁ hnext =>
          hskip.trans (resumeWith_fits hwho _ _ hi hc.clean hlive hfits ?_)⟩⟩⟩
    rw [hnext]
  · have hsys := exec_resumeSys s g d a b
    refine ⟨fun hnone => hsys.trans (resumeWith_none hwho _ _ hi hclean hnone), fun r u hlive =>
      ⟨fun hfits => hsys.trans (resumeWith_unfit hwho _ _ hi hclean hlive hfits), fun s₁ hfits hcheck =>
        hsys.trans (resumeWith_fits hwho _ _ hi hclean hlive hfits ?_)⟩⟩
    rw [hcheck]
    rfl
  · have hsetv := exec_resumeSetv s g d a b v
    refine ⟨fun hnone => hsetv.trans (resumeWith_none hwho _ _ hi hclean hnone), fun r u hlive =>
      ⟨fun hriser hcall => hsetv.trans (resumeWith_unfit hwho _ _ hi hclean hlive ?_), fun hfits =>
        hsetv.trans (resumeWith_fits hwho _ _ hi hclean hlive ?_ rfl)⟩⟩
    · rw [hriser, hcall, Bool.or_self]
    · rwa [Bool.or_eq_true]

/-! ## Contexts (R321, R322) -/

section
variable {s : State} {t : Thread} {g : Guard} {d : Reg} {a b : Src} {n : Nat} (hwho : s.issuer.who = .caster n)
include hwho

section
variable {c : Core} (h : Clean s t g [(a, 2), (b, 1)] [(d, 1)] []) (hcore : s.core? s.issuer.core = some c)
include h hcore

theorem exec_ctxsave_none (hnone : s.named? s.issuer.core (t.reg b.reg) = none) :
    exec (.ctxsave g d a b) s = Completes s (s.answer d .noTask) := by
  refine privOp_finishes hwho h ?_
  simp only [hcore, hnone]

/-- `ctxsave` of a task: its two checks, unless the thread has stopped issue for it before, and then the wait for what its
threads and copies have under way. -/
theorem exec_ctxsave_task {place tidx : Nat} {k : Task} (hnamed : s.named? s.issuer.core (t.reg b.reg) = some (place, tidx))
    (htask : s.task? s.issuer.core place = some k) (hthreads : k.threads ≠ []) :
    exec (.ctxsave g d a b) s =
      let core := s.issuer.core
      let pa := (t.reg64 a.reg).toNat
      let refs := State.threadRefs core place k
      let s₁ := refs.foldl State.quiet (s.stopIssue core place n k)
      if k.saver ≠ some n ∧ s.paOk pa (256 + (s.shellSizes core place c k).body) = false then Completes s (s.answer d .badAddr)
      else if k.saver ≠ some n ∧ k.ctx.kslot ≠ 0 ∧ (s.keySlot k.ctx.kslot.toNat).key = none then Completes s (s.answer d .noKey)
      else if refs.all s₁.quietNow = true ∧ s₁.copySends core place = false then
        if (s₁.saveTask core place pa).devWaits then Holds s₁ else Completes s ((s₁.saveTask core place pa).answer d .ok)
      else Holds s₁ := by
  have hnonempty : k.threads.isEmpty = false := List.isEmpty_eq_false_iff.mpr hthreads
  rw [exec, execCtxsave, privOp_finishes hwho h rfl]
  simp only [hcore, hnamed, htask, hnonempty, Bool.false_eq_true, if_false, Bool.and_eq_true, Bool.not_eq_true', bne_iff_ne,
    Option.isNone_iff_eq_none, and_assoc]
  split
  · rfl
  split
  · rfl
  split
  · split <;> rfl
  · rfl

end

/-- `ctxload` at an address that is no place for a header. -/
theorem exec_ctxload_badAddr (h : Clean s t g [(a, 2)] [(d, 2)] []) (hbad : s.paOk (t.reg64 a.reg).toNat 256 = false) :
    exec (.ctxload g d a) s = Completes s ((s.answer d .badAddr).giveReg (d + 1) 0) := by
  refine privOp_finishes hwho h ?_
  simp only [hbad, Bool.not_false, if_true]

/-- The state after `ctxload` has read what the header gives. -/
def shellRead (s₁ : State) (pa : Nat) (head : List Byte) : State :=
  let size := (State.headerSizes head).body
  if State.headerOk head && s₁.paOk pa (256 + size) then (s₁.devLoad (pa + 256) size).2.2 else s₁

section
variable {s₁ s' : State} {head : List Byte} {torn : Bool} (h : Clean s t g [(a, 2)] [(d, 2)] [])
  (hok : s.paOk (t.reg64 a.reg).toNat 256 = true) (hread : s.devLoad (t.reg64 a.reg).toNat 256 = (head, torn, s₁))
  (hbody : shellRead s₁ (t.reg64 a.reg).toNat head = s')
include h hok hread hbody

/-- `ctxload` of a shell that fails a check. -/
theorem exec_ctxload_error {why : Status} (hcheck : s'.shellCheck s.issuer.core (t.reg64 a.reg).toNat head torn = .error why) :
    exec (.ctxload g d a) s = if s'.devWaits then Holds s else Completes s ((s'.answer d why).giveReg (d + 1) 0) := by
  simp only [shellRead] at hbody
  rw [exec, execCtxload, privOp_finishes hwho h rfl]
  simp only [hok, hread, hbody, hcheck, Bool.not_true, Bool.false_eq_true, if_false]
  split <;> rfl

/-- `ctxload` of a shell that passes its checks. -/
theorem exec_ctxload_ok {body : List Byte} {x : Word × State}
    (hcheck : s'.shellCheck s.issuer.core (t.reg64 a.reg).toNat head torn = .ok body)
    (hload : s'.loadTask s.issuer.core (t.reg64 a.reg).toNat head body = x) :
    exec (.ctxload g d a) s =
      if x.2.devWaits then Holds s else Completes s ((x.2.answer d .ok).giveReg (d + 1) x.1) := by
  simp only [shellRead] at hbody
  rw [exec, execCtxload, privOp_finishes hwho h rfl]
  simp only [hok, hread, hbody, hcheck, hload, Bool.not_true, Bool.false_eq_true, if_false]
  split <;> rfl

end

end

theorem contextsSaved : Claim.ContextsSaved := by
  intro s t g d a b n c hwho core pa gives h hcore
  refine ⟨exec_ctxsave_none hwho h hcore, ?_⟩
  intro place tidx k hnamed htask hthreads room keyed threads s₁ done
  have hends := exec_ctxsave_task hwho h hcore hnamed htask hthreads
  have hpassed (hgo : k.saver = some n ∨ room = true ∧ keyed) : exec (.ctxsave g d a b) s =
      if done then
        if (s₁.saveTask core place pa).devWaits then Holds s₁ else Completes s ((s₁.saveTask core place pa).answer d .ok)
      else Holds s₁ := by
    refine hends.trans ((if_neg ?_).trans (if_neg ?_))
    · rintro ⟨hsaver, hroom⟩
      obtain ⟨hfits, -⟩ := hgo.resolve_left hsaver
      exact absurd (hfits.symm.trans hroom) (by decide)
    · rintro ⟨hsaver, hslot, hkey⟩
      obtain ⟨-, hkeyed⟩ := hgo.resolve_left hsaver
      rcases hkeyed with hzero | hsome
      · exact hslot hzero
      · rw [hkey] at hsome
        exact absurd hsome (by decide)
  refine ⟨fun hsaver hroom => hends.trans (if_pos ⟨hsaver, hroom⟩), fun hsaver hroom hkeyed => ?_,
    fun hgo hdone => ?_, fun hgo hdone => ?_⟩
  · have hslot : k.ctx.kslot ≠ 0 := fun hzero => hkeyed (.inl hzero)
    have hkey : (s.keySlot k.ctx.kslot.toNat).key = none := by
      simpa using fun hsome => hkeyed (.inr hsome)
    exact hends.trans ((if_neg fun hbad => absurd (hroom.symm.trans hbad.2) (by decide)).trans (if_pos ⟨hsaver, hslot, hkey⟩))
  · exact (hpassed hgo).trans (if_pos hdone)
  · exact (hpassed hgo).trans (if_neg hdone)

theorem contextsLoaded : Claim.ContextsLoaded := by
  intro s s₁ t g d a n head torn hwho core pa size s₂ gives h hread
  refine ⟨exec_ctxload_badAddr hwho h, fun why hok hcheck => ?_, fun body hok hcheck => ?_⟩
  · exact exec_ctxload_error hwho h hok hread rfl hcheck
  · exact exec_ctxload_ok hwho h hok hread rfl hcheck rfl

/-- Settles O26: each instruction's own body, split on what it looks at in the order of its checks. Rests on log entries 20, 44
and 113; that an instruction holds where `devWaits` is the model's choice (entry 111). -/
theorem riserResumeAndContexts : Obligations.RiserResumeAndContexts := ⟨riserAndResume, contextsSaved, contextsLoaded⟩

end Sys2Proof.Machine
end

section
/-!
PROOFS. `sys`, `brk`, `trap` and `trap.sret` (spec/22_traps_restart.md R343 to R347).
-/

namespace Sys2Proof.Machine

section
variable {s : State} {t : Thread} {g : Guard}

/-! ## The instructions that raise a trap (R343, R347) -/

section
variable {n : BitVec 16} (h : Clean s t g [({ reg := 2, trap := false }, 6)] [(0, 2)] [])
include h

theorem exec_sys_noRing (hring : callRingOf s s.issuer = 0) : exec (.sys g n) s = Traps s { kind := .sys, sub := 0 } := by
  refine issue_finishes (e := .trap s { kind := .sys, sub := 0 }) h.issues ?_
  simp only [show firstPoison t sysSrcs = none from h.clean, hring, if_true]

theorem exec_sys_ring (hring : callRingOf s s.issuer ≠ 0) (hdrained : s.drained s.issuer = true) :
    exec (.sys g n) s = Stays s (enterCall s s.issuer n) := by
  refine issue_finishes (e := .stay (enterCall s s.issuer n)) h.issues ?_
  simp only [show firstPoison t sysSrcs = none from h.clean, hring, hdrained, Bool.not_true, Bool.false_eq_true, if_false]

end

theorem exec_trap {m : BitVec 8} {a : Src} (h : Clean s t g [(a, 1)] [] []) :
    exec (.trap g m a) s = Traps s { kind := .trap, sub := m, addr := (t.reg a.reg).zeroExtend 64 } := by
  refine issue_finishes (e := .trap s _) h.issues ?_
  simp only [h.clean]

theorem trapRaisingInstructions : Claim.TrapRaisingInstructions := by
  intro s t g n m a r
  exact ⟨fun h => ⟨fun hring hdrained => exec_sys_ring h hring hdrained, fun hring => exec_sys_noRing h hring⟩,
    fun h => issue_finishes (e := .trap s { kind := .brk, sub := m }) h rfl, exec_trap⟩

/-! ## `trap.sret` (R346, R347) -/

/-- Registers written one after the other, no one twice, each hold their value. -/
theorem Thread.reg_foldl_setReg (value : Nat → Word) (mark : Nat → Bool) :
    ∀ (l : List (Reg × Nat)) (t : Thread) (x : Reg × Nat), (l.map Prod.fst).Nodup → x ∈ l →
      (l.foldl (fun (t : Thread) y => t.setReg y.1 (value y.2) (mark y.2)) t).reg x.1 = value x.2 := by
  have hother (l : List (Reg × Nat)) (t : Thread) (r : Reg) (hr : r ∉ l.map Prod.fst) :
      (l.foldl (fun (t : Thread) y => t.setReg y.1 (value y.2) (mark y.2)) t).reg r = t.reg r := by
    induction l generalizing t with
    | nil => rfl
    | cons y l ih =>
      rw [List.map_cons, List.mem_cons, not_or] at hr
      obtain ⟨hy, hl⟩ := hr
      rw [List.foldl_cons, ih _ hl, Thread.reg_setReg, if_neg hy]
  intro l t x hnodup hx
  induction l generalizing t with
  | nil => cases hx
  | cons y l ih =>
    rw [List.map_cons, List.nodup_cons] at hnodup
    obtain ⟨hy, hl⟩ := hnodup
    rw [List.foldl_cons]
    rcases List.mem_cons.mp hx with rfl | hx
    · rw [hother _ _ _ hy, Thread.reg_setReg, if_pos rfl]
    · exact ih _ hl hx

/-- The registers of a frame. -/
theorem unframe_reg (t : Thread) (bs : List Byte) (ps : List Bool) (x : Reg × Nat) (hx : x ∈ frameWords) :
    (unframe t bs ps).reg x.1 = BitVec.ofNat 32 (leNat ((bs.drop x.2).take 4)) :=
  Thread.reg_foldl_setReg (fun o => BitVec.ofNat 32 (leNat ((bs.drop o).take 4))) (fun o => ((ps.drop o).take 4).any id)
    frameWords t x (by decide) hx

/-- `trap.sret` of a frame that passes its checks. -/
theorem exec_trapSret {k : Task} {place tidx f : Nat} {rd fw : List Byte × List Bool} {pc : DWord}
    (hwho : s.issuer.who = .user place tidx) (htask : s.task? s.issuer.core place = some k)
    (h : Clean s t g [({ reg := 61, trap := false }, 1)] [(0, 4), (61, 3)] [1, 2, 3, 4, 5, 6, 7])
    (hf : (t.reg 61).toNat % 2 ^ 20 = f) (halign : f % 16 = 0) (hbound : f + 64 ≤ k.scratch)
    (hready : State.accessWaits t = false) (hrd : s.scratchRead s.issuer.core place f 64 = rd)
    (hfw : forwarded t.queue (.scratch s.issuer.core place f false) rd.1 rd.2 = fw) (hclean : (fw.2.take 12).any id = false)
    (hpc : BitVec.ofNat 64 (leNat (fw.1.take 8)) = pc) (hgood : pcBad pc = false) :
    exec (.trapSret g) s = Jumps s (s.modThread s.issuer fun t => unframe t fw.1 fw.2) pc := by
  refine issue_finishes (e := .jump (s.modThread s.issuer fun t => unframe t fw.1 fw.2) pc) h.issues ?_
  have hkey : (keyOf s.issuer.who).1 = place := by rw [hwho, keyOf]
  have hscratch : ((s.taskOf? s.issuer).map Task.scratch).getD 0 = k.scratch := by
    rw [State.taskOf?, hwho]
    simp only [htask, Option.map_some, Option.getD_some]
  simp only [show firstPoison t frameSrcs = none from h.clean, hf, halign, hscratch, Nat.not_lt_of_le hbound, hready, hkey, hrd, hfw,
    hclean, hpc, hgood, bne_self_eq_false, Bool.false_eq_true, if_false]

end

theorem signalReturn : Claim.SignalReturn := by
  intro s t g k place tidx r f rd fw pc hwho htask h halign hbound hready hclean hgood
  exact ⟨exec_trapSret hwho htask h rfl halign hbound hready rfl rfl hclean rfl hgood, unframe_reg t fw.1 fw.2, rfl, rfl⟩

/-- Settles O23: each instruction's own body, and a fold over the frame's registers, none of which it writes twice. -/
theorem trapsRaisedByInstructions : Obligations.TrapsRaisedByInstructions := ⟨trapRaisingInstructions, signalReturn⟩

end Sys2Proof.Machine
end

section
/-!
PROOFS. Shards (spec/23_errors_degraded_checkpoint.md R366, R368): the image of a shard is the concatenation of its fields, each of
which the reader finds at the sum of the lengths before it.
-/

namespace Sys2Proof.Machine

/-! ## Lengths -/

theorem length_beBytes (n x : Nat) : (beBytes n x).length = n := by
  rw [beBytes, List.length_reverse, length_leBytes]

theorem length_shaBytes (h : List (BitVec 64)) : (shaBytes h).length = 8 * h.length := by
  induction h with
  | nil => rfl
  | cons x h ih =>
    rw [shaBytes] at ih ⊢
    rw [List.map_cons, List.flatten_cons, List.length_append, ih, length_beBytes, List.length_cons]
    omega

/-- A hash state keeps its eight words. -/
theorem length_foldl_shaBlock (blocks : List (List Byte)) (h : List (BitVec 64)) (hlen : h.length = 8) :
    (blocks.foldl shaBlock h).length = 8 := by
  induction blocks generalizing h with
  | nil => exact hlen
  | cons b blocks ih => exact ih (shaBlock h b) rfl

theorem length_sha512 (l : List Byte) : (sha512 l).length = 64 := by
  rw [sha512, length_shaBytes, shaState, length_foldl_shaBlock _ _ rfl]

theorem Shard.length_padded (l : List Byte) : (Shard.padded l).length = Shard.l16 l.length := by
  rw [Shard.padded, List.length_append, List.length_replicate, Shard.l16]
  omega

/-! ## Fields -/

section
variable {parts : List (List Byte)} {i o : Nat} (ho : ((parts.map List.length).take i).sum = o)
include ho

/-- A field of a concatenation, at the sum of the lengths before it. -/
theorem take_drop_field {x : List Byte} {n : Nat} (hx : parts[i]? = some x) (hn : x.length = n) :
    (parts.flatten.drop o).take n = x := by
  obtain ⟨hi, hget⟩ := List.getElem?_eq_some_iff.mp hx
  rw [← ho, List.drop_sum_flatten, List.drop_eq_getElem_cons hi, List.flatten_cons, hget, List.take_left' hn]

/-- A number among the fields of a concatenation. -/
theorem leNat_take_drop_field {n v : Nat} (hx : parts[i]? = some (leBytes n v)) (hv : v < 256 ^ n) :
    leNat ((parts.flatten.drop o).take n) = v := by
  rw [take_drop_field ho hx (length_leBytes n v), leNat_leBytes, Nat.mod_eq_of_lt hv]

end

namespace Shard

/-- The numbers of a shard's shape and box, in their order. -/
def words (s : Shard) : List Nat := s.shape ++ s.box.lo ++ s.box.hi

/-- The fields of a shard's image, in their order (R366). -/
def fields (s : Shard) : List (List Byte) :=
  [leBytes 4 magic, leBytes 2 1, leBytes 1 s.ty.code.toNat, leBytes 1 s.rank, nameh s.name] ++
    s.words.map (leBytes 8) ++ [leBytes 8 s.data.length, leBytes 8 0, padded s.data, s.digest]

theorem flatten_fields (s : Shard) : s.fields.flatten = s.image := by
  simp [fields, words, image, four]

/-- What a reader needs of a shard: four dimensions, and values of 64 bits. -/
structure Encodable (s : Shard) : Prop where
  shape : s.shape.length = 4
  lo : s.box.lo.length = 4
  hi : s.box.hi.length = 4
  small : ∀ x ∈ s.words, x < 2 ^ 64
  data : s.data.length < 2 ^ 64
  rank : s.rank ≤ 4

/-- A number of an image, as the reader takes it. -/
def num (bs : List Byte) (o n : Nat) : Nat := leNat ((bs.drop o).take n)

/-- Four numbers of an image. -/
def nums (bs : List Byte) (o : Nat) : List Nat := (List.range 4).map fun i => num bs (o + 8 * i) 8

/-- What an image holds, whatever its form. -/
def view (bs : List Byte) : View :=
  { nameh := (bs.drop 8).take 8, ty := Ty.ofCode (BitVec.ofNat 4 (num bs 6 1)), rank := num bs 7 1, shape := nums bs 0x10
    box := { lo := nums bs 0x30, hi := nums bs 0x50 }, len := num bs 0x70 8, data := (bs.drop 0x80).take (l16 (num bs 0x70 8))
    digest := (bs.drop (digestAt (num bs 0x70 8))).take 64 }

/-- A reader takes what an image of the form of R366 holds. -/
theorem read_eq_view {bs : List Byte} {v : View} (hv : view bs = v) (hmagic : num bs 0 4 = magic) (hversion : num bs 4 2 = 1)
    (htype : num bs 6 1 < 16) (hzero : num bs 0x78 8 = 0) (hlow : 1 ≤ v.rank) (hhigh : v.rank ≤ 4)
    (hones : (v.shape.drop v.rank).all (· == 1) = true) (hwithin : v.box.within v.shape = true)
    (hlen : v.len = v.box.volume * elemBytes v.ty) (hlength : bs.length = digestAt v.len + 64) : read bs = some v := by
  subst hv
  exact if_pos ⟨hmagic, hversion, htype, hlow, hhigh, hones, hwithin, hlen, hzero, hlength⟩

section
variable {s : Shard} (h : s.Encodable)
include h

theorem Encodable.length_words : s.words.length = 12 := by
  rw [words, List.length_append, List.length_append, h.shape, h.lo, h.hi]

theorem Encodable.length_fields :
    s.fields.map List.length = [4, 2, 1, 1, 8, 8, 8, 8, 8, 8, 8, 8, 8, 8, 8, 8, 8, 8, 8, l16 s.data.length, 64] := by
  simp [fields, words, Function.comp_def, List.map_const', h.shape, h.lo, h.hi, length_padded, digest, nameh, length_sha512,
    List.replicate]

theorem Encodable.image_take_drop {x : List Byte} (i : Nat) {o n : Nat} (hx : s.fields[i]? = some x) (hn : x.length = n)
    (ho : (([4, 2, 1, 1, 8, 8, 8, 8, 8, 8, 8, 8, 8, 8, 8, 8, 8, 8, 8, l16 s.data.length, 64] : List Nat).take i).sum = o) :
    (s.image.drop o).take n = x := by
  rw [← h.length_fields] at ho
  rw [← flatten_fields, take_drop_field ho hx hn]

theorem Encodable.num_image (i : Nat) {o n v : Nat} (hx : s.fields[i]? = some (leBytes n v)) (hv : v < 256 ^ n)
    (ho : (([4, 2, 1, 1, 8, 8, 8, 8, 8, 8, 8, 8, 8, 8, 8, 8, 8, 8, 8, l16 s.data.length, 64] : List Nat).take i).sum = o) :
    num s.image o n = v := by
  rw [num, h.image_take_drop i hx (length_leBytes n v) ho, leNat_leBytes, Nat.mod_eq_of_lt hv]

theorem Encodable.num_word (j : Nat) (hj : j < s.words.length) : num s.image (0x10 + 8 * j) 8 = s.words[j] := by
  have hsmall : s.words[j] < 256 ^ 8 := by
    have := h.small _ (List.getElem_mem hj)
    norm_num at this ⊢
    exact this
  refine h.num_image (5 + j) ?_ hsmall ?_
  · rw [fields, List.append_assoc, List.getElem?_append_right (by simp), List.getElem?_append_left (by simpa using hj)]
    simp [hj]
  · rw [h.length_words] at hj
    interval_cases j <;> simp

theorem Encodable.nums_words (k : Nat) (hk : k ≤ 8) : nums s.image (0x10 + 8 * k) = (s.words.drop k).take 4 := by
  have hlen := h.length_words
  refine List.ext_getElem (by simp [nums]; omega) fun i hi hi' => ?_
  rw [List.length_take, List.length_drop] at hi'
  have hword := h.num_word (k + i) (by omega)
  simp only [nums, List.getElem_map, List.getElem_range, List.getElem_take, List.getElem_drop]
  rw [← hword, Nat.mul_add, Nat.add_assoc]

/-- The fields that follow the shape and the box. -/
theorem Encodable.fields_after (k : Nat) :
    s.fields[17 + k]? = [leBytes 8 s.data.length, leBytes 8 0, padded s.data, s.digest][k]? := by
  have hlen := h.length_words
  rw [fields, List.getElem?_append_right (by simp [hlen])]
  simp [hlen]

theorem Encodable.length_image : s.image.length = digestAt s.data.length + 64 := by
  rw [← flatten_fields, List.length_flatten, h.length_fields]
  simp only [List.sum_cons, List.sum_nil, digestAt]
  omega

/-- The digest of an image lies behind its data. -/
theorem Encodable.take_digest : (s.image.drop (digestAt s.data.length)).take 64 = s.digest := by
  refine h.image_take_drop 20 (h.fields_after 3) (length_sha512 _) ?_
  simp only [List.take, List.sum_cons, List.sum_nil, digestAt]
  omega

/-- The shape and the box of an image. -/
theorem Encodable.nums_image : nums s.image 0x10 = s.shape ∧ nums s.image 0x30 = s.box.lo ∧ nums s.image 0x50 = s.box.hi := by
  refine ⟨(h.nums_words 0 (by decide)).trans ?_, (h.nums_words 4 (by decide)).trans ?_, (h.nums_words 8 (by decide)).trans ?_⟩ <;>
    rw [words]
  · rw [List.append_assoc, List.drop_zero, List.take_left' h.shape]
  · rw [List.append_assoc, List.drop_left' h.shape, List.take_left' h.lo]
  · rw [List.drop_left' (by rw [List.length_append, h.shape, h.lo]), List.take_of_length_le (by rw [h.hi])]

end

/-- A shard of the form of R366 is one whose image can be read. -/
theorem encodable_of_ok {s : Shard} (hok : s.ok = true) (hshape : ∀ n ∈ s.shape, n < 2 ^ 64) (hdata : s.data.length < 2 ^ 64) :
    s.Encodable := by
  simp only [ok, Bool.and_eq_true, decide_eq_true_eq, beq_iff_eq] at hok
  obtain ⟨⟨⟨⟨⟨⟨⟨-, hrank⟩, hlen⟩, hlo⟩, hhi⟩, -⟩, hwithin⟩, -⟩ := hok
  refine ⟨hlen, hlo, hhi, ?_, hdata, hrank⟩
  rw [Box.within, List.all_eq_true] at hwithin
  have hbox (i : Nat) (hi : i < 4) : s.box.lo[i] ≤ s.box.hi[i] ∧ s.box.hi[i] ≤ s.shape[i] := by
    have := hwithin ((s.box.lo[i], s.box.hi[i]), s.shape[i]) (List.mem_iff_getElem.mpr ⟨i, by simp [hlen, hlo, hhi, hi], by simp⟩)
    simpa using this
  have hhigh (i : Nat) (hi : i < 4) : s.box.hi[i] < 2 ^ 64 := by
    obtain ⟨-, hle⟩ := hbox i hi
    exact Nat.lt_of_le_of_lt hle (hshape _ (List.getElem_mem _))
  intro x hx
  simp only [words, List.mem_append] at hx
  rcases hx with (hx | hx) | hx
  · exact hshape x hx
  · obtain ⟨i, hi, rfl⟩ := List.mem_iff_getElem.mp hx
    rw [hlo] at hi
    obtain ⟨hle, -⟩ := hbox i hi
    exact Nat.lt_of_le_of_lt hle (hhigh i hi)
  · obtain ⟨i, hi, rfl⟩ := List.mem_iff_getElem.mp hx
    rw [hhi] at hi
    exact hhigh i hi

/-- The types' codes are read back (R33). -/
theorem ofCode_code (ty : Ty) : Ty.ofCode (BitVec.ofNat 4 ty.code.toNat) = ty := by cases ty <;> rfl

theorem Encodable.read_image {s : Shard} (h : s.Encodable) (hok : s.ok = true) : read s.image = some
    { nameh := nameh s.name, ty := s.ty, rank := s.rank, shape := s.shape, box := s.box, len := s.data.length
      data := padded s.data, digest := s.digest } := by
  simp only [ok, Bool.and_eq_true, decide_eq_true_eq, beq_iff_eq] at hok
  obtain ⟨⟨⟨⟨⟨⟨⟨hlow, hhigh⟩, -⟩, -⟩, -⟩, hones⟩, hwithin⟩, hlen⟩ := hok
  obtain ⟨hshape, hlo, hhi⟩ := h.nums_image
  have hcode : s.ty.code.toNat < 16 := s.ty.code.isLt
  have hmagic : num s.image 0 4 = magic := h.num_image 0 rfl (by decide) rfl
  have hversion : num s.image 4 2 = 1 := h.num_image 1 rfl (by decide) rfl
  have hty : num s.image 6 1 = s.ty.code.toNat := h.num_image 2 rfl (by omega) rfl
  have hrank : num s.image 7 1 = s.rank := h.num_image 3 rfl (by omega) rfl
  have hname : (s.image.drop 8).take 8 = nameh s.name := h.image_take_drop 4 rfl (by simp [nameh, length_sha512]) rfl
  have hsize : s.data.length < 256 ^ 8 := by
    norm_num
    exact h.data
  have hdata : num s.image 0x70 8 = s.data.length := h.num_image 17 (h.fields_after 0) hsize (by simp)
  have hzero : num s.image 0x78 8 = 0 := h.num_image 18 (h.fields_after 1) (by decide) (by simp)
  have hbytes : (s.image.drop 0x80).take (l16 (num s.image 0x70 8)) = padded s.data := by
    rw [hdata]
    exact h.image_take_drop 19 (h.fields_after 2) (length_padded s.data) (by simp)
  have hdigest : (s.image.drop (digestAt (num s.image 0x70 8))).take 64 = s.digest := by
    rw [hdata]
    exact h.take_digest
  have htype : Ty.ofCode (BitVec.ofNat 4 (num s.image 6 1)) = s.ty := by rw [hty, ofCode_code]
  have hview : view s.image = View.mk (nameh s.name) s.ty s.rank s.shape s.box s.data.length (padded s.data) s.digest := by
    rw [view, hname, htype, hrank, hshape, hlo, hhi, hbytes, hdigest, hdata]
  exact read_eq_view hview hmagic hversion (hty.trans_lt hcode) hzero hlow hhigh hones hwithin hlen h.length_image

end Shard

/-- Settles O60: the fields of an image stand at the sums of the lengths before them, and each reads back. -/
theorem shardsReadBack : Obligations.ShardsReadBack := by
  intro s hok hshape hdata
  have hread := (Shard.encodable_of_ok hok hshape hdata).read_image hok
  refine ⟨hread, fun v hv => ?_⟩
  rw [hread, Option.some_inj] at hv
  subst hv
  simp [Shard.verified, Shard.digest]

end Sys2Proof.Machine
end

section
/-!
PROOFS. Counter latches, the clock, management and the test access port (spec/26_device.md R375, R377, R380 to R382;
spec/19_contexts_translation.md R308).
-/

namespace Sys2Proof.Machine

/-! ## Counter records (R382) -/

namespace State

/-- A page that is in no change is left as it is. -/
theorem afterChange_of_idle {s : State} {pas : List Nat} (h : ∀ pa ∈ pas, s.pageBusy pa = false) : s.afterChange pas = s := by
  have hslot : (s.pslotBusy.any fun p => pas.any fun pa => pa / 4096 == p.1) = false := by
    cases hbusy : s.pslotBusy with
    | none => rfl
    | some p =>
      rw [Option.any_some, List.any_eq_false]
      intro pa hpa
      have hidle := h pa hpa
      rw [pageBusy, hbusy, Option.any_some, Bool.or_eq_false_iff] at hidle
      obtain ⟨-, hne⟩ := hidle
      rw [beq_eq_false_iff_ne] at hne
      simpa using Ne.symm hne
  have hflip (pa : Nat) (hpa : pa ∈ pas) : (s.flips.find? fun f => f.page == pa / 4096) = none := by
    have hidle := h pa hpa
    rw [pageBusy, Bool.or_eq_false_iff] at hidle
    obtain ⟨hnone, -⟩ := hidle
    rw [List.find?_eq_none]
    exact List.any_eq_false.mp hnone
  simp only [afterChange, hslot, Bool.false_eq_true, if_false]
  clear hslot h
  induction pas with
  | nil => rfl
  | cons pa pas ih =>
    rw [List.foldl_cons, hflip pa List.mem_cons_self]
    exact ih fun q hq => hflip q (List.mem_cons_of_mem _ hq)

/-- One record on its way, to a place whose pages are in no change and which is not barred. -/
theorem writeRecords_one {s : State} {r : CounterRec} (hrec : s.records = [r])
    (hfree : (recordPages r.pa).any s.pageBusy = false) (hopen : s.recordBarred r.pa = false) :
    s.writeRecords =
      let core := s.cores.findIdx? fun c => c.service != .out
      let s₁ : State := { s with records := [] }
      let s₂ := (s₁.storeHomeBytesBy core (r.pa + 8) (r.bytes.drop 8) false).storeHomeBytesBy core r.pa (r.bytes.take 8) false
      { s₂ with regs := { s₂.regs with prod := s₂.regs.prod + 1 } } := by
  have hopen' : ({ s with records := [] } : State).recordBarred r.pa = false := hopen
  simp only [writeRecords, hrec, List.foldl_cons, List.foldl_nil, hfree, Bool.or_self, Bool.false_eq_true, if_false, List.drop_one,
    List.tail_cons, hopen']

/-- A record whose pages are in no change is written at once. -/
theorem streamRecord_idle {s : State} {isLocal : Bool} (hrec : s.records = [])
    (hidle : ∀ p ∈ recordPages s.recordAt, s.pageBusy p = false) (hopen : s.recordBarred s.recordAt = false) :
    s.streamRecord isLocal =
      let core := s.cores.findIdx? fun c => c.service != .out
      let s₁ : State := { s with cntLost := 0 }
      let s₂ := (s₁.storeHomeBytesBy core (s.recordAt + 8) ((s.counterRecord isLocal).drop 8) false).storeHomeBytesBy core
        s.recordAt ((s.counterRecord isLocal).take 8) false
      { s₂ with regs := { s₂.regs with prod := s₂.regs.prod + 1 } } := by
  have hfree : ((recordPages s.recordAt).any s.pageBusy) = false := by
    rw [List.any_eq_false]
    intro p hp
    rw [hidle p hp]
    decide
  have hsame : ({ s with records := [], cntLost := 0 } : State) = { s with cntLost := 0 } := by rw [← hrec]
  rw [streamRecord, hrec, afterChange_of_idle (s := { s with records := _, cntLost := 0 }) hidle]
  refine (writeRecords_one (r := { pa := s.recordAt, bytes := s.counterRecord isLocal }) ?_ ?_ ?_).trans ?_
  · rfl
  · exact hfree
  · exact hopen
  · simp only [hsame]

end State

/-- Ticks, beacons and their timeout of a device with power: it latches on its own time, sends the beacon, or waits for it. -/
theorem latchEvents {s : State} (tick : DWord) (hrails : s.rails = .up) :
    exec .counterTick s = .next (if !s.part.fab || s.isDark then s.latch (s.tick + 1) true
      else if s.sendsBeacon then (s.latch (s.tick + 1) false).send (.beacon (s.tick + 1)) else s) ∧
    exec (.timeBeacon tick) s = .next (if !s.part.fab || s.isDark || s.sendsBeacon then s else s.latch tick false) ∧
    exec .beaconTimeout s = .next (if s.part.fab && !s.isDark && s.sendsBeacon then s else s.latch (s.tick + 1) true) := by
  have hlatches : s.latches = true := by rw [State.latches, hrails]; rfl
  simp [exec, execCounterTick, execTimeBeacon, execBeaconTimeout, hlatches]

/-- Each latch takes its tick and a written CNTCTL; then it streams a record, or counts one as lost. -/
theorem latch_eq (s : State) (tick : DWord) (isLocal : Bool) :
    s.latch tick isLocal =
      let r := { s.regs with cntctl := s.regs.cntNext.getD s.regs.cntctl, cntNext := none }
      let s₁ := State.advanceCounters { s with tick, regs := r }
      let s₂ := if !r.cntctl.getLsbD 8 then s₁ else if s₁.recordDropped then { s₁ with cntLost := s₁.cntLost + 1 }
        else s₁.streamRecord isLocal
      { s₂ with mhzChanged := false } := rfl

theorem counterLatches : Claim.CounterLatches := by
  intro s tick
  refine ⟨fun hrails => ?_, fun hrails => ?_, fun b => ?_, fun b => State.streamRecord_idle⟩
  · obtain ⟨htick, hbeacon, htimeout⟩ := latchEvents tick hrails
    rw [htick, hbeacon, htimeout]
    refine ⟨fun hlocal => ?_, fun hfab hdark hsends => ?_, fun hfab hdark hsends => ?_⟩
    · rcases hlocal with hfab | hdark
      · simp [hfab]
      · simp [hdark]
    · simp [hfab, hdark, hsends]
    · simp [hfab, hdark, hsends]
  · have hlatches : s.latches = false := by rw [State.latches, beq_eq_false_iff_ne]; exact hrails
    simp [exec, execCounterTick, execTimeBeacon, execBeaconTimeout, hlatches]
  · intro r s₁
    rw [latch_eq]
    refine ⟨fun hoff => ?_, fun hon hdropped => ?_, fun hon hgoes => ?_⟩
    · exact congrArg (fun t : State => { t with mhzChanged := false }) (if_pos ((Bool.not_eq_true' _).mpr hoff))
    · have hstreams : ¬ (!r.cntctl.getLsbD 8) = true := by rw [hon]; decide
      exact congrArg (fun t : State => { t with mhzChanged := false }) ((if_neg hstreams).trans (if_pos hdropped))
    · have hstreams : ¬ (!r.cntctl.getLsbD 8) = true := by rw [hon]; decide
      exact congrArg (fun t : State => { t with mhzChanged := false })
        ((if_neg hstreams).trans (if_neg (ne_true_of_eq_false hgoes)))

/-! ## The clock (R375) -/

theorem throttleAndThermalTrip : Claim.ThrottleAndThermalTrip := by
  intro s hrails
  refine ⟨by simp [exec, execThrottleStepDown, hrails], by simp [exec, execThrottleStepUp, hrails],
    fun htherm => ?_, fun htherm => ?_⟩
  · rw [exec, execThermalTrip, hrails, htherm]
    exact ⟨_, rfl, rfl, rfl, rfl⟩
  · have hruns : s.coresRun = false := by rw [State.coresRun, htherm]; rfl
    refine ⟨by simp [exec, execThermalTrip, htherm], fun r t => by simp [State.canIssue, hruns], fun r core place id k => ?_⟩
    have hidle (t : State) : s.ifRuns t = s := by rw [State.ifRuns, hruns]; rfl
    refine ⟨?_, congrArg Host.Outcome.next (hidle _), congrArg Host.Outcome.next (hidle _), congrArg Host.Outcome.next (hidle _),
      congrArg Host.Outcome.next (hidle _)⟩
    rw [exec, execStoreLeavesQueue, hruns]
    rfl

/-- Settles O41: a latch is its definition split on the written CNTCTL and the ring, and a record whose pages are in no change is
written at once; after the trip the cores do not run. Rests on log entries 72, 76 and 99. -/
theorem countersAndClock : Obligations.CountersAndClock := ⟨counterLatches, throttleAndThermalTrip⟩

end Sys2Proof.Machine
end

section
/-!
PROOFS. Management and the test access port (spec/26_device.md R377, R380; spec/19_contexts_translation.md R308;
spec/23_errors_degraded_checkpoint.md R356).
-/

namespace Sys2Proof.Machine

/-! ## Key slots (R308) -/

namespace State

/-- A slot that is read carries the number it is read by. -/
theorem slot_keySlot (s : State) (k : Nat) : (s.keySlot k).slot = k := by
  rw [keySlot]
  cases hfound : s.keys.find? fun e => e.slot == k with
  | none => rfl
  | some e =>
    have hslot := List.find?_some hfound
    exact beq_iff_eq.mp hslot

theorem keySlot_putKeySlot_same (s : State) (x : KeySlot) : (s.putKeySlot x).keySlot x.slot = x := by
  rw [keySlot, putKeySlot, List.find?_cons_of_pos (by simp)]
  rfl

theorem keySlot_putKeySlot_ne (s : State) {x : KeySlot} {k : Nat} (h : k ≠ x.slot) : (s.putKeySlot x).keySlot k = s.keySlot k := by
  rw [keySlot, putKeySlot, List.find?_cons_of_neg (by simpa using h.symm), List.find?_filter, keySlot]
  congr 2
  funext e
  by_cases he : e.slot = k
  · simp [he, h]
  · simp [he]

end State

/-- A key staged in a session, and one that comes outside. -/
theorem exec_keyDelivery {s : State} {slot : Nat} (key : BitVec 256) (hmanaged : s.managed = true) (hlow : 0 < slot)
    (hhigh : slot < 256) (hok : s.health.failed = false) :
    exec (.keyDelivery slot key true) s = .next (s.putKeySlot { s.keySlot slot with staged := some key }) ∧
    exec (.keyDelivery slot key false) s = .next s := by
  have hslot : ¬ (slot = 0 ∨ 255 < slot) := by omega
  have hstage : s.stageKey slot key = s.putKeySlot { s.keySlot slot with staged := some key } := by
    rw [State.stageKey, if_neg (by simpa using hslot)]
  rw [exec, exec, execKeyDelivery, execKeyDelivery, hmanaged, hok, hstage]
  exact ⟨rfl, rfl⟩

/-- Settles O43: each management message is answered where `managed` holds, and a staged key changes its slot alone. Rests on log
entries 5 and 78; that a failed device still answers management (entry 79) enters through `managed`. -/
theorem managementAndTestPort : Obligations.ManagementAndTestPort := by
  intro s
  refine ⟨fun hmanaged => ⟨fun slot key hlow hhigh hok => ?_, fun m => ?_, fun item => ?_, ?_, fun slot key b hfailed => ?_⟩,
    fun hdown m => ?_, fun hrails => ?_⟩
  · obtain ⟨hin, hout⟩ := exec_keyDelivery key hmanaged hlow hhigh hok
    have hslot := s.slot_keySlot slot
    refine ⟨⟨_, hin, ?_, fun k hk => State.keySlot_putKeySlot_ne s (by rwa [hslot])⟩, hout⟩
    have hsame := s.keySlot_putKeySlot_same { s.keySlot slot with staged := some key }
    rwa [hslot] at hsame
  · rw [exec, exec, execSpdmRequest, execMctpControl, hmanaged]
    exact ⟨rfl, rfl⟩
  · rw [exec, execVendorRead, hmanaged]
    rfl
  · rw [exec, execHealthRecordClear, hmanaged]
    cases s.health.failed <;> rfl
  · rw [exec, execKeyDelivery, hmanaged, hfailed]
    rfl
  · rw [exec, exec, exec, execSpdmRequest, execMctpControl, execHealthRecordClear, hdown]
    exact ⟨rfl, rfl, rfl⟩
  · rw [exec, exec, exec, exec, execBypass, execIdcode, execSamplePreload, execExtest, if_neg hrails, if_neg hrails, if_neg hrails,
      if_neg hrails]
    have hcode : idcodeOf s.part = if s.part = .tk840 then 0x184004B7 else 0x188004B7 := by
      cases s.part <;> rfl
    rw [hcode]
    exact ⟨rfl, rfl, rfl, rfl⟩

end Sys2Proof.Machine
end

section
/-!
PROOFS. Rails, reset, the stages of a boot and firmware updates (spec/26_device.md R374, R378;
spec/23_errors_degraded_checkpoint.md R361): what a reset keeps, and what the lanes that count as down at boot leave alone.
-/

namespace Sys2Proof.Machine

/-! ## Sets of numbers -/

theorem NatSet.has_add (s : NatSet) (x y : Nat) : (s.add x).has y = (decide (y = x) || s.has y) := by
  simp only [NatSet.has]
  induction s with
  | nil => simp [NatSet.add]
  | cons z s ih =>
    rw [NatSet.add]
    split
    · simp
    · split
      · next h => subst h; simp
      · simp only [List.contains_cons, ih]
        cases decide (y = x) <;> cases y == z <;> rfl

/-! ## What a reset leaves of memory (R374) -/

/-- A memory with no byte at an address reads zero there. -/
theorem Memory.get_of_forall_ne {m : Memory} {x : Nat} (h : ∀ c ∈ m, c.1 ≠ x) : m.get x = 0 := by
  induction m with
  | nil => rfl
  | cons c m ih =>
    obtain ⟨a, b⟩ := c
    have hne : x ≠ a := (h _ List.mem_cons_self).symm
    rw [Memory.get, if_neg hne, ih fun c hc => h c (List.mem_cons_of_mem _ hc), ite_self]

theorem afterReset_mem_low (s : State) (rails : Rails) {a : Nat} (h : a < hostBase) : (s.afterReset rails).mem.get a = 0 := by
  refine Memory.get_of_forall_ne fun c hc => ?_
  have hhost := of_decide_eq_true (List.mem_filter.mp hc).2
  omega

theorem afterReset_mem_host {s : State} (rails : Rails) (hwf : s.mem.wf = true) {a : Nat} (h : hostBase ≤ a) :
    (s.afterReset rails).mem.get a = s.mem.get a :=
  (Memory.get_filter hwf (fun a => decide (hostBase ≤ a)) a).trans (if_pos (decide_eq_true h))

theorem hbmBytes_le_hostBase (p : Part) : p.hbmBytes ≤ hostBase := by cases p <;> decide

theorem railsResetAndImages : Claim.RailsResetAndImages := by
  intro s
  refine ⟨fun order hrails => ?_, fun order hrails => ?_, fun order => rfl, fun f hrails => ?_, fun f hrails => ?_,
    fun image valid hrails hstage hok => ?_, fun image valid hbad => ?_, fun rails => ?_⟩
  · simp [exec, execPowerUp, hrails]
  · simp [exec, execPowerUp, hrails]
  · simp [exec, execDeviceReset, hrails]
  · simp [exec, execDeviceReset, hrails]
  · simp [exec, execFirmwareUpdate, hrails, hstage, hok]
  · rw [exec, execFirmwareUpdate, if_pos (by simpa [or_assoc] using hbad)]
  · exact ⟨rfl, rfl, rfl, rfl, rfl, rfl, rfl, rfl, rfl, rfl, rfl, rfl, rfl, rfl, fun a => afterReset_mem_low s rails,
      fun hwf a => afterReset_mem_host rails hwf⟩

/-! ## What a lane that counts as down at boot leaves alone (R278, R361) -/

/-- What a boot has set before its lanes lock. -/
structure BootView where
  part : Part
  cores : List Core
  mem : Memory
  firmware : Nat
  booted : Nat
  thresholds : Thresholds
  plan : Plan
  retired : NatSet
  lockedOut : List LaneRep
  lockedIn : List (LaneRep × Nat)

namespace State

def bootView (s : State) : BootView where
  part := s.part
  cores := s.cores
  mem := s.mem
  firmware := s.firmware
  booted := s.booted
  thresholds := s.thresholds
  plan := s.plan
  retired := s.health.retired
  lockedOut := s.lockedOut
  lockedIn := s.lockedIn

/-- A health event tells of the state, and leaves what a boot has set, the lanes in service and the record. -/
theorem healthEvent_keeps (s : State) (kind arg : Nat) : (s.healthEvent kind arg).bootView = s.bootView ∧
    (s.healthEvent kind arg).health.lanesDown = s.health.lanesDown ∧ (s.healthEvent kind arg).record = s.record := by
  obtain ⟨events, lost, outbox, heq⟩ := healthEvent_eq s kind arg
  rw [heq]
  exact ⟨rfl, rfl, rfl⟩

theorem replaceRequested_keeps (s : State) : s.replaceRequested.bootView = s.bootView ∧
    s.replaceRequested.health.lanesDown = s.health.lanesDown ∧ s.replaceRequested.record = s.record := by
  obtain ⟨events, lost, outbox, heq⟩ := replaceRequested_eq s
  rw [heq]
  exact ⟨rfl, rfl, rfl⟩

section
variable (s : State) (plane slot : Nat) (receive : Bool)

theorem laneRecord_keeps : (s.laneRecord plane slot receive).bootView = s.bootView ∧
    (s.laneRecord plane slot receive).health.lanesDown = s.health.lanesDown.add (laneKey plane slot receive) := by
  simp only [laneRecord]
  obtain ⟨hview, hdown, -⟩ := replaceRequested_keeps (healthEvent
    { s with health := { s.health with lanesDown := s.health.lanesDown.add (laneKey plane slot receive) }
             record := { s.record with lanes := s.record.lanes.add (laneKey plane slot receive) } }
    5 (plane + slot * 64 + boolBit receive 9))
  rw [hview, hdown]
  obtain ⟨hview', hdown', -⟩ := healthEvent_keeps
    { s with health := { s.health with lanesDown := s.health.lanesDown.add (laneKey plane slot receive) }
             record := { s.record with lanes := s.record.lanes.add (laneKey plane slot receive) } }
    5 (plane + slot * 64 + boolBit receive 9)
  rw [hview', hdown']
  exact ⟨rfl, rfl⟩

/-- With no lane locked, a lane that counts as down is recorded, and that is all. -/
theorem laneOut_unlocked {s : State} (hout : s.lockedOut = []) (hin : s.lockedIn = []) :
    s.laneOut plane slot receive =
      if !s.part.fab || 64 ≤ plane || 8 ≤ slot || s.health.lanesDown.has (laneKey plane slot receive) then s
      else s.laneRecord plane slot receive := by
  have hsameOut : ({ s with lockedOut := [] } : State) = s := by rw [← hout]
  have hsameIn : ({ s with lockedIn := [] } : State) = s := by rw [← hin]
  have htx : s.txDown plane slot = s.laneRecord plane slot false := by
    simp only [txDown, hout, List.find?_nil, List.filter_nil, Option.map_none, hsameOut, Option.isSome_none, Bool.false_eq_true,
      if_false]
  have hrx : s.rxDown plane slot = s.laneRecord plane slot true := by
    simp only [rxDown, hin, List.find?_nil, List.filter_nil, hsameIn]
  rw [laneOut]
  cases receive
  · rw [htx, if_neg Bool.false_ne_true]
  · rw [hrx, if_pos rfl]

end

/-- Lanes that do not lock at boot, none being locked before: they count as down, and what the boot has set stays. -/
theorem foldl_laneOut_keeps (l : List (Nat × Nat × Bool)) {s : State} (hout : s.lockedOut = []) (hin : s.lockedIn = []) :
    let s' := l.foldl (fun (s : State) x => s.laneOut x.1 x.2.1 x.2.2) s
    s'.bootView = s.bootView ∧ (∀ k, s.health.lanesDown.has k = true → s'.health.lanesDown.has k = true) ∧
    ∀ x ∈ l, s.part.fab = true → x.1 < 64 → x.2.1 < 8 → s'.health.lanesDown.has (laneKey x.1 x.2.1 x.2.2) = true := by
  induction l generalizing s with
  | nil => exact ⟨rfl, fun k hk => hk, fun x hx => absurd hx List.not_mem_nil⟩
  | cons x l ih =>
    have hlane := laneOut_unlocked x.1 x.2.1 x.2.2 hout hin
    have hone : (s.laneOut x.1 x.2.1 x.2.2).bootView = s.bootView ∧
        (∀ k, s.health.lanesDown.has k = true → (s.laneOut x.1 x.2.1 x.2.2).health.lanesDown.has k = true) ∧
        (s.part.fab = true → x.1 < 64 → x.2.1 < 8 →
          (s.laneOut x.1 x.2.1 x.2.2).health.lanesDown.has (laneKey x.1 x.2.1 x.2.2) = true) := by
      rw [hlane]
      split
      · next hskip =>
        refine ⟨rfl, fun k hk => hk, fun hfab hplane hslot => ?_⟩
        simpa [hfab, Nat.not_le_of_lt hplane, Nat.not_le_of_lt hslot] using hskip
      · obtain ⟨hview, hdown⟩ := laneRecord_keeps s x.1 x.2.1 x.2.2
        rw [hview, hdown]
        refine ⟨rfl, fun k hk => ?_, fun _ _ _ => ?_⟩
        · rw [NatSet.has_add, hk, Bool.or_true]
        · rw [NatSet.has_add, decide_eq_true rfl, Bool.true_or]
    obtain ⟨hview, hmono, hdown⟩ := hone
    have hout' : (s.laneOut x.1 x.2.1 x.2.2).lockedOut = [] := (congrArg BootView.lockedOut hview).trans hout
    have hin' : (s.laneOut x.1 x.2.1 x.2.2).lockedIn = [] := (congrArg BootView.lockedIn hview).trans hin
    have hpart : (s.laneOut x.1 x.2.1 x.2.2).part = s.part := congrArg BootView.part hview
    obtain ⟨hviews, hmonos, hdowns⟩ := ih hout' hin'
    rw [hpart] at hdowns
    refine ⟨hviews.trans hview, fun k hk => hmonos k (hmono k hk), fun y hy hfab hplane hslot => ?_⟩
    rcases List.mem_cons.mp hy with rfl | hy
    · exact hmonos _ (hdown hfab hplane hslot)
    · exact hdowns y hy hfab hplane hslot

/-- Cores with those of a health record, and its bays, out of service. -/
def restoredCores (r : HealthRecord) (cores : List Core) : List Core :=
  cores.zipIdx.map fun (c, n) =>
    { c with bays := c.bays.filter fun b => !(r.bays.contains (n, b))
             service := if r.cores.has n then .out else .running }

theorem restoredCores_service {r : HealthRecord} {cores : List Core} {n : Nat} {c : Core} (h : (restoredCores r cores)[n]? = some c) :
    (c.service = .out ↔ r.cores.has n = true) ∧ ∀ b ∈ c.bays, (n, b) ∉ r.bays := by
  rw [restoredCores, List.getElem?_map, List.getElem?_zipIdx, Nat.zero_add, Option.map_eq_some_iff] at h
  obtain ⟨⟨c', m⟩, hget, rfl⟩ := h
  obtain ⟨c'', -, hpair⟩ := Option.map_eq_some_iff.mp hget
  cases hpair
  refine ⟨?_, fun b hb => ?_⟩
  · by_cases hout : r.cores.has n = true
    · simp [hout]
    · simp [hout]
  · simpa using (List.mem_filter.mp hb).2

/-- The health record restored: its cores, bays, lanes and pages are out of service, and it stays as it is. -/
theorem restoreHealth_keeps (s : State) :
    s.restoreHealth.bootView = { s.bootView with
      cores := restoredCores s.record s.cores
      retired := s.record.pages } ∧
    s.restoreHealth.health.lanesDown = s.record.lanes ∧ s.restoreHealth.record = s.record := by
  simp only [restoreHealth]
  split
  · exact ⟨rfl, rfl, rfl⟩
  · obtain ⟨hview, hdown, hrecord⟩ := replaceRequested_keeps { s with
      cores := restoredCores s.record s.cores
      health := { s.health with lanesDown := s.record.lanes, retired := s.record.pages }
      marked := s.record.pages }
    exact ⟨hview, hdown, hrecord⟩

/-- The state of a boot once HBM is checked, before its lanes lock. -/
def bootPlanned (s : State) (t : Thresholds) : State :=
  let u := ({ s with thresholds := t } : State).restoreHealth
  { u with plan := if u.part.fab then defaultPlan else [] }

/-- What the stages of a boot have set once HBM is checked. -/
theorem bootPlanned_keeps (s : State) (t : Thresholds) :
    (s.bootPlanned t).bootView = { s.bootView with
      thresholds := t
      cores := restoredCores s.record s.cores
      plan := if s.part.fab then defaultPlan else []
      retired := s.record.pages } ∧
    (s.bootPlanned t).health.lanesDown = s.record.lanes ∧ (s.bootPlanned t).record = s.record := by
  obtain ⟨hview, hdown, hrecord⟩ := restoreHealth_keeps { s with thresholds := t }
  have hpart : ({ s with thresholds := t } : State).restoreHealth.part = s.part := congrArg BootView.part hview
  refine ⟨?_, hdown, hrecord⟩
  have hplanned : (s.bootPlanned t).bootView = { ({ s with thresholds := t } : State).restoreHealth.bootView with
      plan := if ({ s with thresholds := t } : State).restoreHealth.part.fab then defaultPlan else [] } := rfl
  rw [hplanned, hpart, hview]
  rfl

end State

/-! ## The stages of a boot (R378) -/

section
variable {s : State} {f : BootFacts}

theorem boot_firmware (h : s.firmwareOk = false) : s.boot f = s.bootFails 1 := by
  simp [State.boot, h]

theorem boot_config (hfirmware : s.firmwareOk = true) (h : f.config = none) : s.boot f = s.bootFails 2 := by
  simp [State.boot, hfirmware, h]

section
variable {t : Thresholds} (hfirmware : s.firmwareOk = true) (hconfig : f.config = some t)
include hfirmware hconfig

theorem boot_health (h : f.healthOk = false) : s.boot f = s.bootFails 4 := by
  simp [State.boot, hfirmware, hconfig, h]

variable (hhealth : f.healthOk = true)
include hhealth

theorem boot_hbm (h : f.hbmOk = false) : s.boot f = ({ s with thresholds := t } : State).restoreHealth.bootFails 3 := by
  simp [State.boot, hfirmware, hconfig, hhealth, h]

theorem boot_locks (h : f.hbmOk = true) : s.boot f =
    { f.unlocked.foldl (fun (s : State) x => s.laneOut x.1 x.2.1 x.2.2) (s.bootPlanned t) with stage := 6 } := by
  rw [State.boot, if_neg (by rw [hfirmware]; decide), hconfig]
  exact (if_neg (by rw [hhealth]; decide)).trans (if_neg (by rw [h]; decide))

end

end

theorem powerResetAndBootStages : Claim.PowerResetAndBoot := by
  intro s f hrails fails
  have hexec : exec (.deviceReset f) s = .next ((s.afterReset .up).boot f) := by simp [exec, execDeviceReset, hrails]
  refine ⟨fun hfirmware => ?_, fun hfirmware hconfig => ?_, fun t hfirmware hconfig => ⟨fun hhealth => ?_, fun hhealth hhbm => ?_,
    fun hhealth hhbm => ?_⟩⟩
  · exact ⟨_, hexec.trans (congrArg Host.Outcome.next (boot_firmware hfirmware)), rfl, rfl, rfl, rfl⟩
  · exact ⟨_, hexec.trans (congrArg Host.Outcome.next (boot_config hfirmware hconfig)), rfl, rfl, rfl, rfl⟩
  · exact ⟨_, hexec.trans (congrArg Host.Outcome.next (boot_health hfirmware hconfig hhealth)), rfl, rfl, rfl, rfl⟩
  · obtain ⟨hview, -, hrecord⟩ := State.restoreHealth_keeps { s.afterReset .up with thresholds := t }
    exact ⟨_, hexec.trans (congrArg Host.Outcome.next (boot_hbm hfirmware hconfig hhealth hhbm)), rfl, rfl, hrecord,
      congrArg BootView.firmware hview⟩
  · obtain ⟨hplanned, hdown, hrecord⟩ := State.bootPlanned_keeps (s.afterReset .up) t
    have hout : ((s.afterReset .up).bootPlanned t).lockedOut = [] := congrArg BootView.lockedOut hplanned
    have hin : ((s.afterReset .up).bootPlanned t).lockedIn = [] := congrArg BootView.lockedIn hplanned
    have hpart : ((s.afterReset .up).bootPlanned t).part = s.part := congrArg BootView.part hplanned
    obtain ⟨hview, -, hlanes⟩ := State.foldl_laneOut_keeps f.unlocked hout hin
    rw [hpart] at hlanes
    rw [hplanned] at hview
    have hmem := congrArg BootView.mem hview
    have hcores := congrArg BootView.cores hview
    refine ⟨_, hexec.trans (congrArg Host.Outcome.next (boot_locks hfirmware hconfig hhealth hhbm)), rfl,
      congrArg BootView.thresholds hview, congrArg BootView.part hview, congrArg BootView.booted hview, fun a ha => ?_,
      fun hwf a ha => ?_, ?_, congrArg BootView.retired hview, congrArg BootView.plan hview, fun hnone => ?_, hlanes,
      fun n c hc => ?_⟩
    · exact (congrArg (Memory.get · a) hmem).trans (afterReset_mem_low s .up (Nat.lt_of_lt_of_le ha (hbmBytes_le_hostBase s.part)))
    · exact (congrArg (Memory.get · a) hmem).trans (afterReset_mem_host .up hwf ha)
    · exact (congrArg List.length hcores).trans (by simp [State.restoredCores, State.afterReset, State.resetOf])
    · rw [hnone]
      exact ⟨hrecord, hdown⟩
    · exact State.restoredCores_service ((congrArg (·[n]?) hcores).symm.trans hc)

/-- Settles O42: a reset keeps the firmware store and host memory; a boot checks its stages in turn, and the lanes that do not
lock change nothing of what it has set. Rests on log entries 2, 92 and 93. -/
theorem powerResetAndBoot : Obligations.PowerResetAndBoot := ⟨railsResetAndImages, powerResetAndBootStages⟩

end Sys2Proof.Machine
end

section
/-!
PROOFS. Taking a trap, the traps of Caster threads, and the order of reports (spec/22_traps_restart.md R336 to R346, R350).
-/

namespace Sys2Proof.Machine

namespace State

/-! ## The record of a trap (R336, R338, R339) -/

/-- The update of a thread whose trap is recorded. -/
def parkRiser (t : Trap) (shown : Bool) (th : Thread) : Thread :=
  { th with state := .riser, trapping := !shown, stop := if t.kind == .peerFault then none else th.stop, wait := 0, yielded := false }

/-- A core with a record in its Riser, and the fault of a copy told. -/
def recordOn (t : Trap) (f : FaultRec) (c : Core) : Core :=
  { c with count := { c.count with riser := c.count.riser + 1 }, riser := c.riser ++ [f]
           copies := if t.what = 1 then c.copies.map fun d => if d.id = t.val then { d with told := true } else d else c.copies }

theorem thread?_recordOn (t : Trap) (f : FaultRec) (c : Core) (w : Who) : (recordOn t f c).thread? w = c.thread? w := by
  cases w <;> rfl

theorem modCore_modCore (s : State) (n : Nat) (f g : Core → Core) : (s.modCore n f).modCore n g = s.modCore n (g ∘ f) := by
  simp only [modCore, List.modify_modify_eq]

/-- A record enters a Riser that has room, and the fault of the copy it names is told. -/
theorem enterRiser_copyTold {s : State} {core : Nat} {c : Core} (hc : s.core? core = some c) (hroom : c.riser.length < 64)
    (t : Trap) (f : FaultRec) : (s.enterRiser core f).copyTold core t = s.modCore core (recordOn t f) := by
  have hlt : c.riser.length < riserSize := hroom
  rw [enterRiser, copyTold]
  by_cases hcopy : t.what = 1
  · rw [if_neg (by simp [hcopy]), modCore_modCore]
    refine modCore_congr hc ?_
    simp only [Function.comp_apply, recordOn, hlt, hcopy, if_true]
  · rw [if_pos (by simpa using hcopy)]
    refine modCore_congr hc ?_
    simp only [recordOn, hlt, hcopy, if_true, if_false]

theorem task?_recordOn (t : Trap) (f : FaultRec) (c : Core) (place : Nat) : (recordOn t f c).task? place = c.task? place := rfl

/-- The task of a thread whose update leaves it alone but for that thread. -/
theorem task?_modThread_user {s : State} {core place : Nat} {k : Task} (tidx : Nat) (g : Thread → Thread)
    (hk : s.task? core place = some k) :
    (s.modThread { core, who := .user place tidx } g).task? core place = some { k with threads := k.threads.modify tidx g } := by
  rw [task?, modThread, core?_modCore_self]
  rw [task?] at hk
  obtain ⟨c, hc, hplace⟩ := Option.bind_eq_some_iff.mp hk
  rw [hc, Option.map_some, Option.bind_some, Core.modThread, Core.task?_modTask_self, hplace, Option.map_some]

/-- A cluster's other threads go on where there is no cluster. -/
theorem stopFellows_alone {s : State} {core place tidx : Nat} {t : Trap} {k : Task} (handle : Word)
    (hk : s.task? core place = some k) (halone : k.cluster = none) : s.stopFellows core place tidx t handle = s := by
  rw [stopFellows, hk]
  simp only [halone]

/-- A trap of a thread of no cluster, where the Riser has room. -/
theorem writeRecord_alone {s : State} {core place tidx : Nat} {t : Trap} {th : Thread} {k : Task} {c : Core} (shown : Bool)
    (hth : s.thread? { core, who := .user place tidx } = some th) (hk : s.task? core place = some k) (hc : s.core? core = some c)
    (halone : k.cluster = none) (hwatch : t.kind ≠ .watch) (hroom : c.riser.length < 64) :
    s.writeRecord core place tidx t shown =
      (s.modThread { core, who := .user place tidx } (parkRiser t shown)).modCore core
        (recordOn t (s.recordOf core place tidx th k t shown)) := by
  have hcore : (s.modThread { core, who := .user place tidx } (parkRiser t shown)).core? core =
      some (c.modThread (.user place tidx) (parkRiser t shown)) := by
    rw [modThread, core?_modCore_self, hc, Option.map_some]
  have hentered := enterRiser_copyTold hcore hroom t (s.recordOf core place tidx th k t shown)
  have htask : ((s.modThread { core, who := .user place tidx } (parkRiser t shown)).modCore core
      (recordOn t (s.recordOf core place tidx th k t shown))).task? core place =
      some { k with threads := k.threads.modify tidx (parkRiser t shown) } := by
    rw [← task?_modThread_user tidx (parkRiser t shown) hk, task?, task?, core?_modCore_self, hcore]
    rfl
  have hdisarm (u : State) : u.disarm core place t = u := if_pos (bne_iff_ne.mpr hwatch)
  rw [writeRecord, hth, hk]
  show State.trapSides (State.enterRiser (s.modThread _ (parkRiser t shown)) core _) core place tidx t = _
  rw [trapSides, hdisarm, hentered, stopFellows_alone _ htask halone]

/-- The trap of a thread with nothing older to report is recorded. -/
theorem recordOldest_clean {s : State} {core place tidx : Nat} {t : Trap} {th : Thread} {k : Task}
    (hth : s.thread? { core, who := .user place tidx } = some th) (hk : s.task? core place = some k) (hlater : th.later = [])
    (hfails : th.fails = []) : s.recordOldest core place tidx t = s.writeRecord core place tidx t := by
  simp only [recordOldest, hth, hk, hlater, hfails, ite_self]

end State

theorem takingATrap : Claim.TakingATrap := by
  intro s core place tidx t th k c shown r hth hk hc halone hwatch hroom s' f
  have hs' : s' = (s.modThread r (State.parkRiser t shown)).modCore core (State.recordOn t f) :=
    State.writeRecord_alone shown hth hk hc halone hwatch hroom
  have hthreads (q : ThreadRef) : s'.thread? q = (s.modThread r (State.parkRiser t shown)).thread? q := by
    rw [hs', State.thread?_modCore _ _ _ _ (State.thread?_recordOn t f)]
  refine ⟨?_, ?_, by rw [hs']; rfl, by rw [hs']; rfl, fun q hq => ?_, fun s₀ hs₀ => ⟨fun hdrained hlater hfails hshown => ?_,
    fun hdrained hshown => ?_⟩⟩
  · have hcore : (s.modThread r (State.parkRiser t shown)).core? core = some (c.modThread r.who (State.parkRiser t shown)) := by
      rw [State.modThread, State.core?_modCore_self, hc, Option.map_some]
    rw [hs', State.core?_modCore_self, hcore]
    rfl
  · rw [hthreads, State.thread?_modThread_self, hth]
    rfl
  · rw [hthreads, State.thread?_modThread_ne _ _ hq]
  · subst hshown
    show (if (s₀.withdraw r).drained r then _ else _) = s'
    rw [hs₀, if_pos hdrained, State.recordOldest_clean hth hk hlater hfails]
  · subst hshown
    show (if (s₀.withdraw r).drained r then _ else _) = s'
    rw [hs₀, if_neg (ne_true_of_eq_false hdrained)]

/-! ## Traps of Caster threads (R313, R350) -/

theorem trapsOfCasterThreads : Claim.TrapsOfCasterThreads := by
  intro s core n t c k hc hk
  refine ⟨takeTrap_caster_five t hc hk, ?_⟩
  intro hcause r s₁ later c' hc'
  have hfound : ((s.core? core).bind fun c => c.casters[n]?) = some k := by rw [hc, Option.bind_some, hk]
  show s.casterTrap core n t = _
  simp only [State.casterTrap, hfound, if_neg hcause]
  rw [show State.core? _ core = some c' from hc']

/-! ## The order of reports (R340, R342, R346) -/

theorem reportsOfThreads : Claim.ReportsOfThreads := by
  intro s r t hrun ht hreport
  refine ⟨fun x hstop => ?_, fun hstop => ⟨fun f l hlater => ?_, fun hlater => ⟨fun f l hfails => ?_, fun hfails =>
    ⟨fun c x hcopy => ?_, fun hcopy => ?_⟩⟩⟩⟩
  · simp only [exec, execPeerFaultStop, State.ifRuns_eq hrun, ht, hstop, hreport, if_true]
  · simp only [exec, execFailureAfterIssue, State.ifRuns_eq hrun, ht, hstop, hlater, hreport, Bool.not_true, Bool.false_eq_true,
      if_false]
  · simp only [exec, execFailureAfterIssue, State.ifRuns_eq hrun, ht, hstop, hlater, hfails, hreport, Bool.not_true,
      Bool.false_eq_true, if_false]
  · simp only [exec, execCopyFaultReport, State.ifRuns_eq hrun, ht, hstop, hlater, hfails, hcopy, hreport, Bool.not_true,
      Bool.false_eq_true, if_false]
  · rw [exec, execSignalDelivery, State.ifRuns_eq hrun, ht]
    simp only [hstop, hlater, hfails, hcopy, hreport, Option.isNone_none, List.isEmpty_nil, Bool.and_self, if_true]

/-- Settles O28: a record in a Riser with room touches its thread and its core alone; a Caster thread's trap and each report are
their definitions on the state they look at. Rests on log entries 18, 19, 20 and 102. -/
theorem trapEntryAndReports : Obligations.TrapEntryAndReports := ⟨takingATrap, trapsOfCasterThreads, reportsOfThreads⟩

end Sys2Proof.Machine
end

section
/-!
PROOFS. Soft errors, health counts and their thresholds (spec/23_errors_degraded_checkpoint.md R352 to R359; spec/22_traps_restart.md
R350).
-/

namespace Sys2Proof.Machine

/-! ## Counts (R353, R357) -/

theorem countAt_insertKey (l : List (Nat × Nat)) (k v x : Nat) :
    countAt (insertKey l k v) x = if x = k then v else countAt l x := by
  rw [countAt, lookup_insertKey]
  split <;> rfl

theorem countAt_bump_self (l : List (Nat × Nat)) (k : Nat) : countAt (bump l k) k = countAt l k + 1 := by
  rw [bump, countAt_insertKey, if_pos rfl]

theorem countAt_cons (j v : Nat) (l : List (Nat × Nat)) (k : Nat) : countAt ((j, v) :: l) k = if j = k then v else countAt l k := by
  rw [countAt, lookup_cons]
  split <;> rfl

theorem countAt_of_not_mem {l : List (Nat × Nat)} {k : Nat} (h : k ∉ l.map Prod.fst) : countAt l k = 0 := by
  induction l with
  | nil => rfl
  | cons p l ih =>
    rw [List.map_cons, List.mem_cons, not_or] at h
    obtain ⟨hne, hl⟩ := h
    rw [countAt_cons, if_neg (Ne.symm hne), ih hl]

/-- Halved counts, each key standing once (R357). -/
theorem countAt_halve {l : List (Nat × Nat)} (h : (l.map Prod.fst).Nodup) (k : Nat) :
    countAt (State.halve l) k = countAt l k / 2 := by
  induction l with
  | nil => exact (Nat.zero_div 2).symm
  | cons p l ih =>
    obtain ⟨j, v⟩ := p
    rw [List.map_cons, List.nodup_cons] at h
    obtain ⟨hj, hl⟩ := h
    have hhalve : State.halve ((j, v) :: l) = if v / 2 ≠ 0 then (j, v / 2) :: State.halve l else State.halve l := by
      rw [State.halve, List.map_cons, List.filter_cons]
      simp only [bne_iff_ne]
      rfl
    rw [hhalve, countAt_cons]
    split
    · rw [countAt_cons, ih hl]
      split <;> rfl
    · next hzero =>
      rw [ih hl]
      split
      · next hjk =>
        rw [← hjk, countAt_of_not_mem hj]
        omega
      · rfl

namespace State

theorem reached_iff (n threshold : Nat) : reached n threshold = true ↔ threshold ≠ 0 ∧ n = threshold := by
  rw [reached, Bool.and_eq_true, bne_iff_ne, beq_iff_eq]

/-! ## What a health event leaves -/

/-- The pinned windows of the cores, and whether there are any (R349). -/
def windows (s : State) : Nat × List DWord := (s.stage, s.cores.map Core.window)

theorem inWindow_congr {s t : State} (h : t.windows = s.windows) (a n : Nat) : t.inWindow a n = s.inWindow a n := by
  simp only [windows, Prod.mk.injEq] at h
  obtain ⟨hstage, hcores⟩ := h
  have hany (u : State) : (u.cores.any fun c => a < c.window.toNat + windowBytes && c.window.toNat < a + n) =
      (u.cores.map Core.window).any fun w => a < w.toNat + windowBytes && w.toNat < a + n := by
    rw [List.any_map]
    rfl
  rw [inWindow, inWindow, hstage, hany, hany, hcores]

theorem healthEvent_fields (s : State) (kind arg : Nat) : (s.healthEvent kind arg).cores = s.cores ∧
    (s.healthEvent kind arg).stage = s.stage ∧ (s.healthEvent kind arg).mem = s.mem ∧ (s.healthEvent kind arg).mpois = s.mpois ∧
    (s.healthEvent kind arg).health.failed = s.health.failed := by
  obtain ⟨events, lost, outbox, heq⟩ := healthEvent_eq s kind arg
  rw [heq]
  exact ⟨rfl, rfl, rfl, rfl, rfl⟩

theorem replaceRequested_fields (s : State) : s.replaceRequested.cores = s.cores ∧ s.replaceRequested.stage = s.stage ∧
    s.replaceRequested.mem = s.mem ∧ s.replaceRequested.health.failed = s.health.failed ∧ s.replaceRequested.health.rr = true := by
  obtain ⟨events, lost, outbox, heq⟩ := replaceRequested_eq s
  rw [heq]
  exact ⟨rfl, rfl, rfl, rfl, rfl⟩

theorem pagePending_fields (s : State) (page : Nat) : (s.pagePending page).cores = s.cores ∧ (s.pagePending page).stage = s.stage ∧
    (s.pagePending page).mem = s.mem ∧ (s.pagePending page).mpois = s.mpois := by
  rw [pagePending]
  split
  · exact ⟨rfl, rfl, rfl, rfl⟩
  · obtain ⟨hcores, hstage, hmem, hmpois, -⟩ :=
      healthEvent_fields { s with health := { s.health with pendingPages := s.health.pendingPages.add page } } 3 page
    exact ⟨hcores, hstage, hmem, hmpois⟩

/-! ## Errors in HBM (R352, R353) -/

theorem hbmUncorrectable_fields (s : State) (pa : Nat) : (s.hbmUncorrectable pa).cores = s.cores ∧
    (s.hbmUncorrectable pa).stage = s.stage ∧ (s.hbmUncorrectable pa).mem = s.mem ∧
    (s.hbmUncorrectable pa).mpois = s.mpois.add (pa / 16) := by
  rw [hbmUncorrectable]
  split
  · exact pagePending_fields _ (pa / 4096)
  · exact ⟨rfl, rfl, rfl, rfl⟩

theorem windowLost_outside {s : State} {pa : Nat} (h : s.inWindow pa 1 = false) : s.windowLost pa = s := by
  simp only [windowLost, windowCore?, h, Bool.false_eq_true, if_false]

theorem windowLost_inside {s : State} {pa core : Nat} {c : Core} (hwindow : s.windowCore? pa = some core)
    (hc : s.core? core = some c) (hserves : c.inService = true) : s.windowLost pa =
      ({ s with free := s.free + 1 } : State).dataCheck core (BitVec.ofNat 64 pa) (Config.usesLost s.free) := by
  simp only [windowLost, hwindow, inUse, hc, Option.map_some, Option.getD_some, hserves, if_true]

end State

theorem softErrorsOfMemory : Claim.SoftErrors := by
  intro s pa hpa page n m seen due lost bad
  have hin : s.inHbm pa = true := decide_eq_true hpa
  have hdue : s.hbmCorrected pa = due := if_congr (State.reached_iff _ _) rfl rfl
  have hbad : s.hbmUncorrectable pa = bad := if_congr (State.reached_iff _ _) rfl rfl
  obtain ⟨hcores, hstage, hmem, hmpois⟩ := s.hbmUncorrectable_fields pa
  rw [hbad] at hcores hstage hmem hmpois
  have hsame : bad.inWindow pa 1 = s.inWindow pa 1 := State.inWindow_congr (by rw [State.windows, State.windows, hstage, hcores]) pa 1
  have hlost : exec (.uncorrectableError (.hbm pa)) s = .next (bad.windowLost pa).settle := by
    rw [exec, execUncorrectableError, State.uncorrected, if_pos hin, hbad]
  refine ⟨?_, ?_, ?_, fun hout => ?_, fun core c hwindow hc hserves => ?_, hmem, ?_,
    fun r t v bay place i ht hwho => ?_, fun hnodup => ?_⟩
  · rw [exec, execCorrectedError, State.corrected, if_pos hin, hdue]
  · rw [exec, execPatrolScrub, hin, Bool.and_self, if_pos rfl, hdue]
  · rw [exec, execPatrolScrub, Bool.and_false, if_neg Bool.false_ne_true]
  · rw [hlost, State.windowLost_outside (hsame.trans hout)]
  · have hwindow' : bad.windowCore? pa = some core := by rw [State.windowCore?, hsame, hcores]; exact hwindow
    have hc' : bad.core? core = some c := by rw [State.core?, hcores]; exact hc
    rw [hlost, State.windowLost_inside hwindow' hc' hserves]
  · rw [hmpois, NatSet.has_add, decide_eq_true rfl, Bool.true_or]
  · rw [exec, execUncorrectableError, State.uncorrected, State.registerLost, ht, hwho]
    rfl
  · exact ⟨_, rfl, fun k => countAt_halve hnodup k, rfl, rfl⟩

/-! ## Thresholds (R357 to R359) -/

namespace State

theorem core?_modHealth {s : State} {core : Nat} {c : Core} (hc : s.core? core = some c) (f : CoreHealth → CoreHealth) :
    (s.modHealth core f).core? core = some { c with health := f c.health } := by
  rw [modHealth, core?_modCore_self, hc, Option.map_some]

section
variable {s : State} {core : Nat} {c : Core} (hc : s.core? core = some c)
include hc

/-- A corrected error in a lane column counts there and for its bay, which leaves as either count reaches its threshold. -/
theorem laneError_eq (bay lane : Nat) :
    s.laneError core bay lane =
      let s₁ := s.countCorrected.modHealth core fun h =>
        { h with lanes := bump h.lanes (bay * 32 + lane), bays := bump h.bays bay }
      if (s.thresholds.lane ≠ 0 ∧ countAt c.health.lanes (bay * 32 + lane) + 1 = s.thresholds.lane) ∨
        (s.thresholds.bay ≠ 0 ∧ countAt c.health.bays bay + 1 = s.thresholds.bay) then s₁.bayOut core bay else s₁ := by
  have hcore := core?_modHealth (s := s.countCorrected) hc fun h =>
    { h with lanes := bump h.lanes (bay * 32 + lane), bays := bump h.bays bay }
  rw [laneError, hcore]
  refine if_congr ?_ rfl rfl
  rw [Bool.or_eq_true, reached_iff, reached_iff, countAt_bump_self, countAt_bump_self]
  rfl

theorem coreCorrected_eq :
    s.coreCorrected core =
      let s₁ := s.countCorrected.modHealth core fun h => { h with corrected := h.corrected + 1 }
      if s.thresholds.coreCorrected ≠ 0 ∧ c.health.corrected + 1 = s.thresholds.coreCorrected then s₁.leaveDispatch core
      else s₁ := by
  have hcore := core?_modHealth (s := s.countCorrected) hc fun h => { h with corrected := h.corrected + 1 }
  rw [coreCorrected, hcore]
  exact if_congr (reached_iff _ _) rfl rfl

theorem coreUncorrectable_eq :
    s.coreUncorrectable core =
      let s₁ := s.countUncorrectable.modHealth core fun h => { h with uncorrectable := h.uncorrectable + 1 }
      if s.thresholds.coreUncorrectable ≠ 0 ∧ c.health.uncorrectable + 1 = s.thresholds.coreUncorrectable then
        s₁.leaveDispatch core
      else s₁ := by
  have hcore := core?_modHealth (s := { s with count := { s.count with uncorrectable := s.count.uncorrectable + 1 } }) hc
    fun h => { h with uncorrectable := h.uncorrectable + 1 }
  rw [coreUncorrectable, hcore]
  exact if_congr (reached_iff _ _) rfl rfl

theorem bayOut_absent {bay : Nat} (hbay : bay ∉ c.bays) : s.bayOut core bay = s := by
  rw [bayOut, hc]
  exact if_pos (by simpa using hbay)

theorem bayOut_last {bay : Nat} (hbays : c.bays = [bay]) : s.bayOut core bay = s.leaveDispatch core := by
  rw [bayOut, hc]
  exact (if_neg (by simp [hbays])).trans (if_pos (by rw [hbays]; rfl))

theorem bayOut_more {bay : Nat} (hbay : bay ∈ c.bays) (hmore : 1 < c.bays.length) :
    s.bayOut core bay =
      let c' : Core := { c with bays := c.bays.filter (· != bay) }
      let s₁ := s.modCore core fun c => { c with bays := c'.bays, tasks := c.tasks.map fun p =>
        (p.1, if c'.baysHold p.2.grant then p.2 else State.startSlice p.2 (grantFor s.part c' p.2.reqw)) }
      (State.healthEvent { s₁ with record := { s₁.record with bays := s₁.record.bays ++ [(core, bay)] } }
        1 (core + bay * 2 ^ 16)).replaceRequested := by
  rw [bayOut, hc]
  exact (if_neg (by simpa using hbay)).trans (if_neg (Nat.ne_of_gt hmore))

theorem leaveDispatch_running (hrunning : c.service = .running) :
    s.leaveDispatch core =
      let s₁ := if c.tasks = [] then s.takeOut core else (s.passRunners core).modCore core fun c => { c with service := .leaving }
      (State.healthEvent { s₁ with record := { s₁.record with cores := s₁.record.cores.add core } } 2 core).replaceRequested := by
  rw [leaveDispatch, hc]
  refine (if_neg (by simp [hrunning])).trans ?_
  by_cases htasks : c.tasks = []
  · simp only [htasks, List.isEmpty_nil, if_true]
  · simp only [htasks, List.isEmpty_eq_false_iff.mpr htasks, Bool.false_eq_true, if_false]

theorem leaveDispatch_left (hleft : c.service ≠ .running) : s.leaveDispatch core = s := by
  rw [leaveDispatch, hc]
  exact if_pos (by simpa using hleft)

end

end State

theorem healthThresholds : Claim.HealthThresholds := by
  intro s core c hc hserves hits
  have huse : s.inUse core = true := by rw [State.inUse, hc]; exact hserves
  refine ⟨?_, ?_, ?_, fun bay => State.bayOut_absent hc, fun bay => State.bayOut_last hc, fun bay => State.bayOut_more hc,
    State.leaveDispatch_running hc, State.leaveDispatch_left hc⟩
  · intro bay lane hbay hlane k s₁ due
    have hends : exec (.correctedError (.lane core bay lane)) s = .next (s.laneError core bay lane).settle := by
      simp [exec, execCorrectedError, State.corrected, huse, hbay, hlane]
    rw [hends, State.laneError_eq hc]
    exact ⟨fun hdue => congrArg (fun t : State => Host.Outcome.next t.settle) (if_pos hdue),
      fun hdue => congrArg (fun t : State => Host.Outcome.next t.settle) (if_neg hdue)⟩
  · intro site hsite s₁ due
    have hends : exec (.correctedError site) s = .next (s.coreCorrected core).settle := by
      obtain ⟨p, o, rfl⟩ | ⟨p, k, e, rfl⟩ | ⟨u, w, b, rfl⟩ | ⟨a, rfl⟩ := hsite <;>
        simp only [exec, execCorrectedError, State.corrected, huse, if_true]
    rw [hends, State.coreCorrected_eq hc]
    exact ⟨fun hdue => congrArg (fun t : State => Host.Outcome.next t.settle) (if_pos hdue),
      fun hdue => congrArg (fun t : State => Host.Outcome.next t.settle) (if_neg hdue)⟩
  · intro s₁ due
    rw [State.coreUncorrectable_eq hc]
    exact ⟨fun hdue => if_pos hdue, fun hdue => if_neg hdue⟩

/-! ## Uncorrectable errors elsewhere (R352, R356) -/

/-- A line with a unit poisoned, which goes home with its mark (R352). -/
def L1Line.poisonUnit (l : L1Line) (u : Nat) : L1Line :=
  { l with pois := putBit l.pois u true, dirty := l.dirty ||| byteMask (16 * u) 16 }

namespace State

/-! ### The windows stay -/

theorem windows_modCore (s : State) (n : Nat) {f : Core → Core} (hf : ∀ c, (f c).window = c.window) :
    (s.modCore n f).windows = s.windows := by
  rw [windows, windows]
  refine congrArg (Prod.mk s.stage) (List.ext_getElem? fun i => ?_)
  simp only [modCore, List.getElem?_map, List.getElem?_modify]
  by_cases hi : n = i
  · simp only [hi, if_true]
    cases s.cores[i]? with
    | none => rfl
    | some c => exact congrArg some (hf c)
  · simp only [hi, if_false]
    cases s.cores[i]? <;> rfl

theorem windows_modThread (s : State) (r : ThreadRef) (f : Thread → Thread) : (s.modThread r f).windows = s.windows :=
  windows_modCore s r.core fun c => by cases r.who <;> rfl

theorem windows_serveParked (s : State) (d : Nat) (ps : List Parked) : (s.serveParked d ps).windows = s.windows := by
  induction ps generalizing s with
  | nil => rfl
  | cons p ps ih =>
    rw [serveParked]
    split
    · rw [ih]
      exact windows_modThread ..
    · rfl

theorem windows_wakeDest (s : State) (d : Nat) : (s.wakeDest d).windows = s.windows := by
  have hparked : (if (s.dest d).held || (s.dest d).unreach then s else s.serveParked d (s.dest d).parked).windows = s.windows := by
    split
    · rfl
    · exact windows_serveParked ..
  rw [← hparked, wakeDest, wakeAlwwait, windows, windows, List.map_map]
  rfl

theorem windows_dropReserved (s : State) (r : ThreadRef) : (s.dropReserved r).windows = s.windows := by
  rw [dropReserved]
  split
  · rfl
  · next d _ _ _ => exact (windows_wakeDest ..).trans (windows_modThread (s.forgetWoken d r) r _)

theorem windows_foldl {α : Type} {f : State → α → State} (hf : ∀ s x, (f s x).windows = s.windows) (l : List α) (s : State) :
    (l.foldl f s).windows = s.windows := by
  induction l generalizing s with
  | nil => rfl
  | cons x l ih => exact (ih (f s x)).trans (hf s x)

theorem windows_passRunners (s : State) (n : Nat) : (s.passRunners n).windows = s.windows := rfl

theorem windows_record (s : State) (record : HealthRecord) : ({ s with record } : State).windows = s.windows := rfl

theorem windows_takeOut (s : State) (n : Nat) : (s.takeOut n).windows = s.windows := by
  have hsprue : (s.leaveSprue n).windows = s.windows :=
    (windows_foldl windows_wakeDest _ _).trans (windows_foldl windows_dropReserved _ _)
  rw [takeOut]
  refine (windows_modCore ((s.leaveSprue n).passRunners n) n ?_).trans ((windows_passRunners _ n).trans hsprue)
  exact fun _ => rfl

theorem windows_healthEvent (s : State) (kind arg : Nat) : (s.healthEvent kind arg).windows = s.windows := by
  obtain ⟨hcores, hstage, -⟩ := healthEvent_fields s kind arg
  rw [windows, windows, hcores, hstage]

theorem windows_replaceRequested (s : State) : s.replaceRequested.windows = s.windows := by
  obtain ⟨hcores, hstage, -⟩ := replaceRequested_fields s
  rw [windows, windows, hcores, hstage]

theorem windows_leaveDispatch (s : State) (n : Nat) : (s.leaveDispatch n).windows = s.windows := by
  rw [leaveDispatch]
  split
  · rfl
  split
  · rfl
  rw [windows_replaceRequested, windows_healthEvent, windows_record]
  split
  · exact windows_takeOut s n
  · refine (windows_modCore (s.passRunners n) n ?_).trans (windows_passRunners s n)
    exact fun _ => rfl

theorem windows_coreUncorrectable {s : State} {n : Nat} {c : Core} (hc : s.core? n = some c) :
    (s.coreUncorrectable n).windows = s.windows := by
  have hcounted : (s.countUncorrectable.modHealth n fun h => { h with uncorrectable := h.uncorrectable + 1 }).windows = s.windows :=
    windows_modCore s.countUncorrectable n fun c => rfl
  rw [coreUncorrectable_eq hc]
  split
  · exact (windows_leaveDispatch ..).trans hcounted
  · exact hcounted

/-! ### Lines of the L1 and the device -/

section
variable {s : State} {core pa : Nat} {l : L1Line} (hl : s.l1Line? core (lineOf pa) = some l)
include hl

theorem l1Lost_clean (hclean : l.dirty = 0) :
    s.l1Lost core pa = (s.modCore core fun c => { c with l1 := c.l1.erase l }).coreUncorrectable core := by
  rw [l1Lost, hl]
  exact if_pos hclean

/-- Outside the windows the unit of a dirty line is poisoned, and no more. -/
theorem l1Lost_dirty {c : Core} (hc : s.core? core = some c) (hdirty : l.dirty ≠ 0) (hout : s.inWindow pa 1 = false) :
    s.l1Lost core pa = (s.putL1 core (l.poisonUnit (pa % 64 / 16))).coreUncorrectable core := by
  rw [l1Lost, hl]
  refine (if_neg hdirty).trans (windowLost_outside ?_)
  rw [← hout]
  have hput : (s.putL1 core (l.poisonUnit (pa % 64 / 16))).windows = s.windows := windows_modCore s core fun _ => rfl
  obtain ⟨c', hc'⟩ : ∃ c', (s.putL1 core (l.poisonUnit (pa % 64 / 16))).core? core = some c' := by
    rw [putL1, core?_modCore_self, hc]
    exact ⟨_, rfl⟩
  exact inWindow_congr ((windows_coreUncorrectable hc').trans hput) pa 1

end

theorem deviceFailed_fields (s : State) :
    s.deviceFailed.health.failed = true ∧ s.deviceFailed.health.rr = true ∧ s.deviceFailed.mem = s.mem := by
  obtain ⟨-, -, hmem, hfailed, hrr⟩ :=
    replaceRequested_fields (({ s with health := { s.health with failed := true } } : State).healthEvent 8 0)
  obtain ⟨-, -, hmem', -, hfailed'⟩ := healthEvent_fields { s with health := { s.health with failed := true } } 8 0
  rw [deviceFailed, send_health, send_mem]
  exact ⟨hfailed.trans hfailed', hrr, hmem.trans hmem'⟩

end State

theorem uncorrectableErrors : Claim.UncorrectableErrors := by
  intro s core c hc hserves gives
  have huse : s.inUse core = true := by rw [State.inUse, hc]; exact hserves
  have hgives {site : ErrSite} {t : State} (h : s.uncorrected site = t) : gives site t :=
    congrArg (fun t : State => Host.Outcome.next t.settle) h
  refine ⟨fun place t ht => ⟨fun off hoff => hgives ?_, fun slot e hslot he => hgives ?_⟩, fun cru row hcru hrow =>
    ⟨hgives ?_, hgives ?_⟩, fun pa l hl => ⟨fun hclean => hgives (State.l1Lost_clean hl hclean), fun hdirty hout =>
    hgives (State.l1Lost_dirty hl hc hdirty hout)⟩, fun pa hpa hout => ⟨hgives ?_, hgives ?_⟩, fun pa l hl => hgives ?_,
    hgives rfl, hgives ?_, _, hgives rfl, s.countUncorrectable.deviceFailed_fields⟩
  · rw [State.uncorrected, ht]
    exact if_pos (decide_eq_true hoff)
  · rw [State.uncorrected, ht]
    exact if_pos (by simp [hslot, he])
  · rw [State.uncorrected, if_pos (by simp [hcru, hrow, huse])]
    rfl
  · rw [State.uncorrected, if_pos (by simp [hcru, hrow, huse])]
    rfl
  · rw [State.uncorrected, if_pos (by simp [State.inL2, State.inHbm, hpa]), if_neg Bool.false_ne_true]
  · rw [State.uncorrected, if_pos (by simp [State.inL2, State.inHbm, hpa]), if_pos rfl]
    exact State.windowLost_outside hout
  · rw [State.uncorrected, hl]
    rfl
  · rw [State.uncorrected, if_pos huse]

/-- Settles O44: an error site counts for what holds it, and the thresholds are looked at with the count just made; outside the
pinned windows, which no error moves, nothing more is lost. Rests on log entries 45, 75, 105 and 128. -/
theorem softErrors : Obligations.SoftErrors := ⟨softErrorsOfMemory, healthThresholds, uncorrectableErrors⟩

end Sys2Proof.Machine
end
